-- ==== Sys2Proof/Word.lean ====
section
/-!
DEFINITION. The word types of the block: bytes, 64-bit register words and 128-bit instruction words, and the ranges of
the levels of spec/00_scope.md R2 (sites, clusters, links, channels, rings).
-/
namespace Sys2Proof

/-- One byte of storage. -/
abbrev Byte := BitVec 8
/-- A register word (00 R9), and a 64-bit field of a descriptor. -/
abbrev Word := BitVec 64
/-- One instruction word of a core (05 R136: 16 bytes). -/
abbrev IWord := BitVec 128
/-- A physical core site (00 R3). -/
abbrev SiteId := Fin 144
/-- A cluster (00 R3). -/
abbrev ClusterId := Fin 18
/-- A fabric link (11 R300). -/
abbrev LinkId := Fin 64
/-- A memory channel (10 R277). -/
abbrev ChannelId := Fin 64
/-- A host command ring (14 R382). -/
abbrev RingId := Fin 16
/-- A network stop (01 R18). -/
abbrev StopId := Fin 48

end Sys2Proof
end

