-- ==== Sys2Proof/Syntax.lean ====
section
/-!
DEFINITION. The commands of the block: one constructor of `Instr` per row of spec/opcode_table.json, in its order, and the
packets and words that they carry. A command is one event that the environment causes or observes: the issue attempt of a
core instruction, a write of a register, a packet or flit arriving, the end of an action, a sample, a pin.
-/
namespace Sys2Proof

/-- The units of 05 R131 that queue instructions. -/
inductive CoreUnit where
  | arrays | dmaRd | dmaWr | lacewing | mower | coll
deriving DecidableEq, Repr

/-- How the host accesses a register (00 R9): the whole word, or its low or high half. The operand of a command that writes a half is
the whole word with the written half in its place (log 54). -/
inductive Half where
  | full | low | high
deriving DecidableEq, Repr

/-- Who sends a register access on the network (01 R19): the host, whose accesses enter at HW, or a requester at a stop. -/
inductive RegSource where
  | host
  | stop (n : Fin 48)
deriving DecidableEq, Repr

/-- A register access on the network (01 R26 KIND 0x6): the word that it writes, if it writes, the part of the register, and who sends
it. -/
structure RegRequest where
  write  : Option Word
  half   : Half
  source : RegSource
deriving DecidableEq, Repr

/-- A fabric packet (11 R316): four header words and up to eight granules of 36 bytes (32 data bytes in the low bits, then
the four check bytes). -/
structure Packet where
  w0 : Word
  w1 : Word
  w2 : Word
  w3 : Word
  grans : List (BitVec 288)
deriving DecidableEq, Repr

/-- The head flit (01 R25) of a multicast or reduction packet and its data granules, two per data flit. -/
structure NocPacket where
  head  : BitVec 512
  grans : List (BitVec 288)
deriving DecidableEq, Repr

/-- The requester classes of 05 R157, as the owner codes. -/
inductive ReqClass where
  | seq | dma | remote (core : Fin 128) | lacewing | rake
deriving DecidableEq, Repr

/-- The eight words of a host ring command (14 R383). -/
structure RingCmd where
  w0 : Word
  w1 : Word
  w2 : Word
  w3 : Word
  w4 : Word
  w5 : Word
  w6 : Word
  w7 : Word
deriving DecidableEq, Repr

/-- A contribution packet of SCATTER.ADD (08 R235): its key (context and destination granule), its lane format and mask, its
order fields, and its element values, exact, lane j at bits 32j: FP32 patterns, or INT32 for INT32 lanes. -/
structure Contribution where
  ctx      : Fin 256
  /-- bits [40:5] of the destination granule's local offset -/
  granule  : BitVec 36
  lane     : Fin 4
  lanes    : BitVec 16
  ord      : Bool
  runStart : Bool
  order    : BitVec 24
  index    : BitVec 40
  run      : BitVec 40
  vals     : BitVec 512
deriving DecidableEq, Repr

/-- What a completion from the host carries (14 R391): its data, or the way it failed. -/
inductive HostResult where
  | data (bytes : List Byte)
  | ur | ca | poison
deriving DecidableEq, Repr

/-- What a PCIe configuration request asks (15 R404, 14 R376, R380): a read of a register that the spec does not give; a write of
Memory Space Enable; a write of BAR2's size as a power of two; a write or a read of the device control settings (Max Payload Size and
Max Read Request Size as 2^(7 + code) bytes, Relaxed Ordering); a read of the uncorrectable error status of AER, or a clear of the bits
of a mask. -/
inductive ConfigReq where
  | read
  | memSpace (on : Bool)
  | resize (log2 : Fin 64)
  | control (payload request : Fin 8) (relaxed : Bool)
  | readControl
  | readErrors
  | clearErrors (mask : BitVec 32)
  | readCorrectable
  | clearCorrectable (mask : BitVec 32)
deriving DecidableEq, Repr

/-- How a channel's training ends (10 R294): every line trained, one line of a sub-channel erased on each side that names one, or
failed: command bus, two or more lines of a sub-channel, no response. -/
inductive ChannelTraining where
  | trained
  | erased (p0 p1 : Option (Fin 12))
  | failedBus | failedLines | failedSilent
deriving DecidableEq, Repr

/-- A granule of the sweep that read back unclean (15 R405): in a scratch bank or an accumulator memory the core-local address and
the lowest bit of its first failing byte; in a cache slice or an Anthill the failing way. -/
inductive SweepFault where
  | scratch (s : SiteId) (addr : BitVec 21) (bit : Fin 8)
  | acc (s : SiteId) (a : Fin 4) (addr : BitVec 17) (bit : Fin 8)
  | cacheData (c : ClusterId) (way : Fin 16)
  | cacheTags (c : ClusterId) (way : Fin 16)
  | anthill (c : ClusterId) (way : Fin 16)
deriving DecidableEq, Repr

/-- What the converters report at the end of a window (16 R420, R421, R429): the input in 10 mV, mA and 0.1 W, and the measured
power of each consumer group in 0.1 W in the order of R421; none where no valid report came. -/
structure PowerReport where
  vin    : BitVec 16
  iin    : BitVec 16
  pin    : BitVec 16
  groups : List Nat
deriving DecidableEq, Repr

/-- An instance of counter sets that swaps (19 R473, R475). -/
inductive SwapInst where
  | core (s : SiteId)
  | cluster (c : ClusterId)
  | rake (u : Fin 32)
  | coll
  | link (l : LinkId)
deriving DecidableEq, Repr

/-- What the environment learned at the end of a link's training (11 R332): how many lanes trained and the identity the peer
sent. -/
structure Training where
  lanes    : Fin 3
  peerDev  : BitVec 15
  peerLink : LinkId
deriving DecidableEq, Repr

/-- The commands, one constructor per row of spec/opcode_table.json. -/
inductive Instr where
  -- 05 R139: the sequencer's instructions, each one issue attempt of the word `w` at a site
  | nop (s : SiteId) (w : IWord)
  | halt (s : SiteId) (w : IWord)
  | fence (s : SiteId) (w : IWord)
  | wait (s : SiteId) (w : IWord)
  | mark (s : SiteId) (w : IWord)
  | epoch (s : SiteId) (w : IWord)
  | step (s : SiteId) (w : IWord)
  | dset (s : SiteId) (w : IWord)
  | dadj (s : SiteId) (w : IWord)
  | tset (s : SiteId) (w : IWord)
  | tadd (s : SiteId) (w : IWord)
  | jmp (s : SiteId) (w : IWord)
  | own (s : SiteId) (w : IWord)
  | hiveTake (s : SiteId) (w : IWord)
  | hiveTakeReply (s : SiteId) (tn : Fin 8)
  -- 04: the arrays
  | mma (s : SiteId) (w : IWord)
  | mmaT (s : SiteId) (w : IWord)
  | mmaProbe (s : SiteId) (w : IWord)
  | park (s : SiteId) (w : IWord)
  | unpark (s : SiteId) (w : IWord)
  | tileTransferDone (s : SiteId) (a : Fin 4)
  | batchFillTimeout (s : SiteId)
  -- 05, 06, 07, 08: storage, vector and Mower instructions
  | load (s : SiteId) (w : IWord)
  | store (s : SiteId) (w : IWord)
  | gather (s : SiteId) (w : IWord)
  | scatter (s : SiteId) (w : IWord)
  | scatterAdd (s : SiteId) (w : IWord)
  | scatterAddDrain (s : SiteId) (w : IWord)
  | quant (s : SiteId) (w : IWord)
  | requant (s : SiteId) (w : IWord)
  | lutmv (s : SiteId) (w : IWord)
  | scoutPredict (s : SiteId) (w : IWord)
  | scoutApply (s : SiteId) (w : IWord)
  | mow (s : SiteId) (w : IWord)
  | sowCand (s : SiteId) (w : IWord)
  | sowGrowBlock (s : SiteId) (w : IWord)
  | sowGrowPosition (s : SiteId) (w : IWord)
  | compress (s : SiteId) (w : IWord)
  | blkt (s : SiteId) (w : IWord)
  -- 12: COLL
  | allReduce (s : SiteId) (w : IWord)
  | reduceScatter (s : SiteId) (w : IWord)
  | allGather (s : SiteId) (w : IWord)
  | allToAll (s : SiteId) (w : IWord)
  | permute (s : SiteId) (w : IWord)
  | barrier (s : SiteId) (w : IWord)
  | local (s : SiteId) (w : IWord)
  | dispatch (s : SiteId) (w : IWord)
  | combineReturn (s : SiteId) (w : IWord)
  | combineAdd (s : SiteId) (w : IWord)
  | stageSend (s : SiteId) (w : IWord)
  | stageCredit (s : SiteId) (w : IWord)
  | hint (s : SiteId) (w : IWord)
  | illegalOp (s : SiteId) (w : IWord)
  -- completions and control of a core
  | instructionComplete (s : SiteId) (u : CoreUnit)
  | start (s : SiteId)
  | haltReq (s : SiteId)
  | abort (s : SiteId)
  | registerWrite (off : BitVec 26) (v : Word) (h : Half)
  -- 01: the network
  | nocReadRequest (c : ReqClass) (off : BitVec 41) (n : Fin 9)
  | nocWrite (c : ReqClass) (off : BitVec 41) (bytes : List Byte)
  | nocReadResponse (s : SiteId) (addr : Word) (g : BitVec 288)
  | multicastWrite (src : SiteId) (p : NocPacket)
  | reduction (src : SiteId) (p : NocPacket)
  | nocHiveTake (s : SiteId) (tn : Fin 8)
  | anthillInsert (p : Contribution)
  | nocRegisterAccess (off : BitVec 26) (a : RegRequest)
  | nocCompletion (s : SiteId) (u : CoreUnit)
  | nocBadKind (stop : StopId) (kind : Fin 8)
  | nocRedTimeout (stop : Option StopId) (p : NocPacket)
  | seamLockLoss (row : Fin 4) (plane : Fin 8)
  | seamLockReturn (row : Fin 4) (plane : Fin 8)
  -- 09: the Rake
  | rakeDoorbell (tail : BitVec 32)
  | update
  | prep
  | seal
  | verify
  | rakeBadOp
  | rakeDrain
  | rakeAbort
  | rakeResume
  -- 10: memory
  | memRead (off : BitVec 41)
  | memWrite (off : BitVec 41) (g : BitVec 288)
  | scrubPeriodWrite (period : Byte)
  | scrubGranule (ch : ChannelId)
  | fillGo (v : Word)
  | fillComplete
  | refreshRateUpdate (package : Fin 16) (temp : Byte)
  | powerDownEntry (ch : ChannelId)
  -- 11: the fabric
  | dataFlit (l : LinkId) (flit : BitVec 2048) (fec : Bool)
  | idleFlit (l : LinkId) (flit : BitVec 2048)
  | linkManagementFlit (l : LinkId) (flit : BitVec 2048)
  | replayTimeout (l : LinkId)
  | loadPacket (l : Option LinkId) (p : Packet)
  | loadResp (l : Option LinkId) (p : Packet)
  | storePacket (l : Option LinkId) (p : Packet)
  | fadd (l : Option LinkId) (p : Packet)
  | cas (l : Option LinkId) (p : Packet)
  | atomicResp (l : Option LinkId) (p : Packet)
  | complete (l : Option LinkId) (p : Packet)
  | reduce (l : Option LinkId) (p : Packet)
  | mcast (l : Option LinkId) (p : Packet)
  | time (l : LinkId) (p : Packet) (t4 : Nat)
  | syncHeartbeat (l : Option LinkId) (p : Packet)
  | syncCollective (l : Option LinkId) (p : Packet)
  | badOp (l : Option LinkId) (p : Packet)
  | fabRedTimeout (tag : BitVec 16) (addr : Word)
  | timeSend (l : LinkId)
  | tc0WindowEnd (l : LinkId)
  | laneLockLoss (l : LinkId)
  | retrain (l : LinkId)
  | linkTrainingDone (l : LinkId) (t : Training)
  | linkDisable (l : LinkId)
  | lanesWrite (half : Bool)
  | laneChange (l : LinkId)
  | prefetchStart (s : SiteId)
  -- 14: the host
  | nopCommand (r : RingId) (c : RingCmd)
  | copyH2D (r : RingId) (c : RingCmd)
  | copyD2H (r : RingId) (c : RingCmd)
  | startCommand (r : RingId) (c : RingCmd)
  | haltCommand (r : RingId) (c : RingCmd)
  | signal (r : RingId) (c : RingCmd)
  | regWrite (r : RingId) (c : RingCmd)
  | commandBadOp (r : RingId) (c : RingCmd)
  | ringDoorbell (r : RingId) (tail : BitVec 32)
  | ringEnable (r : RingId)
  | ringDrain (r : RingId)
  | ringAbort (r : RingId)
  | cqHeadWrite (r : RingId) (head : BitVec 32)
  | cqTimer (r : RingId)
  | msixUnmask (v : Fin 256)
  | irqCauseClear (off : BitVec 26) (v : Word)
  | bar2Read (off : BitVec 41) (len : Fin 4097)
  | bar2Write (off : BitVec 41) (bytes : List Byte)
  | ptmDialog (hostTime : Word)
  | powerStateD3hot
  | powerStateD0
  | pcieLinkDown
  | pcieLinkUp (width : Fin 8) (rate : Fin 8) (flit : Bool)
  | refclkLoss
  -- 15: reset and start-up
  | hostColdReset
  | hostWarmReset
  | hostCoreReset (core : Fin 128)
  | badKey (v : Word) (h : Half)
  | coldReset (straps : BitVec 4)
  | warmReset (straps : BitVec 4) (lost : List (BitVec 34))
  | coreReset (core : Fin 128) (faults : List SweepFault)
  | powerOn
  | brownOut (rail : Option (Fin 26))
  | inputOvervoltage
  | perstAssert (lost : List (BitVec 34))
  | perstDeassert (straps : BitVec 4)
  | watchdogExpiry (straps : BitVec 4) (lost : List (BitVec 34))
  | thermalTrip (sensor : Fin 20) (temp : BitVec 16)
  | railsDone (straps : BitVec 4)
  | fuseLoadDone (ok : Bool)
  | optionLoadDone (ok : Bool)
  | firmwareVerifyDone (ok : Bool)
  | lpddr6TrainingDone (r : List (ChannelId × ChannelTraining))
  | sweepDone (faults : List SweepFault)
  | fabricBringupDone
  | optCommit
  | optCommitDone
  -- 16: power
  | controlTick (est : BitVec 16)
  | telemetryReport (r : Option PowerReport)
  | ageingCheck (short : List SiteId)
  | sensorSample (sensor : Fin 20) (temp : BitVec 16)
  | vcoreSlewDone (c : ClusterId)
  | droop (s : SiteId)
  | droopEnd (s : SiteId) (cycles : BitVec 32)
  | heartbeatSend
  -- 17: security
  | loadFirmware (len : BitVec 24)
  | flash (len : BitVec 24)
  | go
  | verifyToken
  | close
  | fuse
  | secCommandDone (flashOk : Bool)
  -- 18, 19: faults, counters, trace, Hush
  | fenceSite (v : Word) (h : Half)
  | faultLogHeadWrite (head : Byte)
  | drainEscalate (f : Fin 3) (i : Fin 256)
  | cntSwap
  | cntSwapAt
  | counterSwap (i : SwapInst)
  | traceMerge
  | traceHeadWrite (head : BitVec 32)
  | trigger
  | hushStopped
  | hushScanDone
  | hushShipDone
  | resume
  -- 21: the management port
  | mgmtWrite (bytes : List Byte)
  | mgmtRead (n : Fin 257)
  | setdasa (addr : BitVec 7)
  | entdaa (addr : BitVec 7)
  | auxPowerOn
  | powerLoss
  -- 14: completions from the host, and configuration
  | hostReadCompletion (tag : Nat) (r : HostResult)
  | completionTimeout (tag : Nat)
  | configurationRequest (q : ConfigReq)
  | linkEnable (l : LinkId)
deriving DecidableEq, Repr

end Sys2Proof
end

