-- ==== Sys2Proof/WellFormed.lean ====
section
/-!
DEFINITION. Well-formed commands: the opcode and operation fields of an instruction word, of a packet, of a flit and of a ring command
are those of the row, and lengths lie in the ranges of the spec (01 R25, R26, 05 R136, R137, 11 R302, R316, R317, 12 R336, 14 R383). A
reserved OP of COLL goes with HINT, of SCOUT with SCOUT_APPLY, of SOW with the SOW_GROW rows: their meanings record the FIELD error.
-/
namespace Sys2Proof

/-- The opcode field of an instruction word (05 R136). -/
def opcodeOf (w : IWord) : Nat := (w >>> 120).toNat % 256

/-- The OP field of a COLL word (12 R336). -/
def collOpOf (w : IWord) : Nat := (w >>> 116).toNat % 16

/-- The OP field of SCOUT and SOW (06 R185, 07 R197). -/
def subOp (w : IWord) : Nat := (w >>> 118).toNat % 4

/-- OP, LEN and FMT of a fabric packet (11 R316). -/
def packetOp (p : Packet) : Nat := (p.w0 >>> 60).toNat % 16
def packetLen (p : Packet) : Nat := (p.w0 >>> 54).toNat % 16
def packetFmt (p : Packet) : Nat := (p.w0 >>> 47).toNat % 4

/-- KIND of a SYNC packet (11 R317). -/
def syncKind (p : Packet) : Nat := p.w2.toNat % 256

/-- OPCODE of a ring command (14 R383). -/
def ringOp (c : RingCmd) : Nat := (c.w0 >>> 56).toNat % 256

/-- FTYPE of a flit (11 R302). -/
def flitType (f : BitVec 2048) : Nat := (f >>> 60).toNat % 16

/-- The opcodes of 05 R137 that are assigned. -/
def assignedOpcodes : List Nat :=
  [0x00, 0x01, 0x02, 0x03, 0x04, 0x05, 0x06, 0x07, 0x08, 0x09, 0x0A, 0x0B, 0x0C, 0x0D, 0x10, 0x11, 0x12, 0x13, 0x14, 0x20,
   0x21, 0x22, 0x23, 0x24, 0x30, 0x31, 0x32, 0x33, 0x40, 0x41, 0x42, 0x43, 0x50]

/-- The word of an instruction has its opcode. -/
def wordIs (w : IWord) (op : Nat) : Bool := opcodeOf w == op

/-- The word of a COLL has its operation. -/
def collIs (w : IWord) (op : Nat) : Bool := opcodeOf w == 0x50 && collOpOf w == op

/-- Whether LEN lies in the range of an OP (11 R317). -/
def lenOk (op n : Nat) : Bool :=
  match op with
  | 0 | 1 | 2 | 7 | 8 => decide (1 ≤ n) && decide (n ≤ 8)
  | 3 | 4 | 5 => n == 1
  | 6 | 9 => n == 0
  | 10 => decide (n ≤ 2)
  | _ => false

/-- A packet that no device discards for its OP, LEN or FMT. -/
def packetOk (p : Packet) : Bool := lenOk (packetOp p) (packetLen p) && packetFmt p != 3

/-- A packet of an operation, with the granules that its LEN counts; a LOAD has no payload. -/
def packetIs (p : Packet) (op : Nat) : Bool :=
  packetOp p == op && packetOk p && p.grans.length == (if op = 0 then 0 else packetLen p)

/-- A network packet of a KIND, with two granules in each of its data flits (01 R25). -/
def nocIs (p : NocPacket) (kind : Nat) : Bool :=
  (p.head >>> 60).toNat % 16 == kind && p.grans.length == 2 * ((p.head >>> 54).toNat % 4 + 1)

/-- A report names the five consumer groups (16 R421). -/
def reportOk (r : Option PowerReport) : Bool := match r with | none => true | some x => x.groups.length == 5

/-- Device reads of host memory are split at 512 bytes (14 R376). -/
def resultOk (r : HostResult) : Bool := match r with | .data bs => decide (bs.length ≤ 512) | _ => true

/-- A command that the environment can offer. -/
def WellFormed (c : Instr) : Bool :=
  match c with
  | .nop _ w => wordIs w 0x00
  | .halt _ w => wordIs w 0x01
  | .fence _ w => wordIs w 0x02
  | .wait _ w => wordIs w 0x03
  | .mark _ w => wordIs w 0x04
  | .epoch _ w => wordIs w 0x05
  | .step _ w => wordIs w 0x06
  | .dset _ w => wordIs w 0x07
  | .dadj _ w => wordIs w 0x08
  | .tset _ w => wordIs w 0x09
  | .tadd _ w => wordIs w 0x0A
  | .jmp _ w => wordIs w 0x0B
  | .own _ w => wordIs w 0x0C
  | .hiveTake _ w => wordIs w 0x0D
  | .hiveTakeReply _ _ => true
  | .mma _ w => wordIs w 0x10
  | .mmaT _ w => wordIs w 0x11
  | .mmaProbe _ w => wordIs w 0x12
  | .park _ w => wordIs w 0x13
  | .unpark _ w => wordIs w 0x14
  | .tileTransferDone _ _ => true
  | .batchFillTimeout _ => true
  | .load _ w => wordIs w 0x20
  | .store _ w => wordIs w 0x21
  | .gather _ w => wordIs w 0x22
  | .scatter _ w => wordIs w 0x23
  | .scatterAdd _ w => wordIs w 0x24 && !w.getLsbD 67
  | .scatterAddDrain _ w => wordIs w 0x24 && w.getLsbD 67
  | .quant _ w => wordIs w 0x30
  | .requant _ w => wordIs w 0x31
  | .lutmv _ w => wordIs w 0x32
  | .scoutPredict _ w => wordIs w 0x33 && subOp w == 0
  | .scoutApply _ w => wordIs w 0x33 && subOp w != 0
  | .mow _ w => wordIs w 0x40
  | .sowCand _ w => wordIs w 0x41 && subOp w == 0
  | .sowGrowBlock _ w => wordIs w 0x41 && subOp w != 0 && !w.getLsbD 117
  | .sowGrowPosition _ w => wordIs w 0x41 && subOp w != 0 && w.getLsbD 117
  | .compress _ w => wordIs w 0x42
  | .blkt _ w => wordIs w 0x43
  | .allReduce _ w => collIs w 0
  | .reduceScatter _ w => collIs w 1
  | .allGather _ w => collIs w 2
  | .allToAll _ w => collIs w 3
  | .permute _ w => collIs w 4
  | .barrier _ w => collIs w 5
  | .local _ w => collIs w 6
  | .dispatch _ w => collIs w 7
  | .combineReturn _ w => collIs w 8 && w.getLsbD 32
  | .combineAdd _ w => collIs w 8 && !w.getLsbD 32
  | .stageSend _ w => collIs w 9
  | .stageCredit _ w => collIs w 10
  | .hint _ w => wordIs w 0x50 && decide (11 ≤ collOpOf w)
  | .illegalOp _ w => !assignedOpcodes.contains (opcodeOf w)
  | .instructionComplete _ _ => true
  | .start _ => true
  | .haltReq _ => true
  | .abort _ => true
  | .registerWrite off _ _ => off.toNat % 8 == 0
  | .nocReadRequest _ _ n => n.val != 0
  | .nocWrite _ _ bytes => !bytes.isEmpty
  | .nocReadResponse _ _ _ => true
  | .multicastWrite _ p => nocIs p 3
  | .reduction _ p => nocIs p 4
  | .nocHiveTake _ _ => true
  | .anthillInsert p => p.lane.val != 3 && (p.lane.val == 1 || decide (p.lanes.toNat < 256)) && p.lanes != 0
  | .nocRegisterAccess off _ => off.toNat % 8 == 0
  | .nocCompletion _ _ => true
  | .nocBadKind _ _ => true
  | .nocRedTimeout _ p => nocIs p 4
  | .seamLockLoss _ _ => true
  | .seamLockReturn _ _ => true
  | .rakeDoorbell _ => true
  | .update => true
  | .prep => true
  | .seal => true
  | .verify => true
  | .rakeBadOp => true
  | .rakeDrain => true
  | .rakeAbort => true
  | .rakeResume => true
  | .memRead _ => true
  | .memWrite _ _ => true
  | .scrubPeriodWrite _ => true
  | .scrubGranule _ => true
  | .fillGo v => v.getLsbD 63
  | .fillComplete => true
  | .refreshRateUpdate _ _ => true
  | .powerDownEntry _ => true
  | .dataFlit _ flit fec => !fec || (flitType flit != 1 && flitType flit != 2)
  | .idleFlit _ flit => flitType flit == 1
  | .linkManagementFlit _ flit => flitType flit == 2
  | .replayTimeout _ => true
  | .loadPacket _ p => packetIs p 0
  | .loadResp _ p => packetIs p 1
  | .storePacket _ p => packetIs p 2
  | .fadd _ p => packetIs p 3
  | .cas _ p => packetIs p 4
  | .atomicResp _ p => packetIs p 5
  | .complete _ p => packetIs p 6
  | .reduce _ p => packetIs p 7
  | .mcast _ p => packetIs p 8
  | .time _ p _ => packetIs p 9
  | .syncHeartbeat _ p => packetIs p 10 && syncKind p != 1
  | .syncCollective _ p => packetIs p 10 && syncKind p == 1
  | .badOp _ p => !packetOk p
  | .fabRedTimeout _ _ => true
  | .timeSend _ => true
  | .tc0WindowEnd _ => true
  | .laneLockLoss _ => true
  | .retrain _ => true
  | .linkTrainingDone _ _ => true
  | .linkDisable _ => true
  | .lanesWrite _ => true
  | .laneChange _ => true
  | .prefetchStart _ => true
  | .nopCommand _ c => ringOp c == 0
  | .copyH2D _ c => ringOp c == 1
  | .copyD2H _ c => ringOp c == 2
  | .startCommand _ c => ringOp c == 3
  | .haltCommand _ c => ringOp c == 4
  | .signal _ c => ringOp c == 5
  | .regWrite _ c => ringOp c == 6
  | .commandBadOp _ c => decide (7 ≤ ringOp c)
  | .ringDoorbell _ _ => true
  | .ringEnable _ => true
  | .ringDrain _ => true
  | .ringAbort _ => true
  | .cqHeadWrite _ _ => true
  | .cqTimer _ => true
  | .msixUnmask _ => true
  | .irqCauseClear off _ => off.toNat == 0x40010 || off.toNat == 0x40020 || off.toNat == 0x40028 || off.toNat == 0x40030
  | .bar2Read _ len => len.val != 0
  | .bar2Write _ bytes => !bytes.isEmpty
  | .ptmDialog _ => true
  | .powerStateD3hot => true
  | .powerStateD0 => true
  | .pcieLinkDown => true
  | .pcieLinkUp width rate flit => (width.val == 1 || width.val == 2 || width.val == 4) && rate.val != 0 && (flit || decide (rate.val ≤ 5))
  | .refclkLoss => true
  | .hostColdReset => true
  | .hostWarmReset => true
  | .hostCoreReset _ => true
  | .badKey _ _ => true
  | .coldReset _ => true
  | .warmReset _ _ => true
  | .coreReset _ _ => true
  | .powerOn => true
  | .brownOut _ => true
  | .inputOvervoltage => true
  | .perstAssert _ => true
  | .perstDeassert _ => true
  | .watchdogExpiry _ _ => true
  | .thermalTrip _ _ => true
  | .railsDone _ => true
  | .fuseLoadDone _ => true
  | .optionLoadDone _ => true
  | .firmwareVerifyDone _ => true
  | .lpddr6TrainingDone r => (List.finRange 64).all (fun c => (r.filter (fun x => x.1 == c)).length == 1)
  | .sweepDone _ => true
  | .fabricBringupDone => true
  | .optCommit => true
  | .optCommitDone => true
  | .controlTick _ => true
  | .telemetryReport r => reportOk r
  | .ageingCheck _ => true
  | .sensorSample _ _ => true
  | .vcoreSlewDone _ => true
  | .droop _ => true
  | .droopEnd _ _ => true
  | .heartbeatSend => true
  | .loadFirmware _ => true
  | .flash _ => true
  | .go => true
  | .verifyToken => true
  | .close => true
  | .fuse => true
  | .secCommandDone _ => true
  | .fenceSite _ _ => true
  | .faultLogHeadWrite _ => true
  | .drainEscalate _ _ => true
  | .cntSwap => true
  | .cntSwapAt => true
  | .counterSwap _ => true
  | .traceMerge => true
  | .traceHeadWrite _ => true
  | .trigger => true
  | .hushStopped => true
  | .hushScanDone => true
  | .hushShipDone => true
  | .resume => true
  | .mgmtWrite _ => true
  | .mgmtRead _ => true
  | .setdasa _ => true
  | .entdaa _ => true
  | .auxPowerOn => true
  | .powerLoss => true
  | .hostReadCompletion _ r => resultOk r
  | .completionTimeout _ => true
  | .configurationRequest _ => true
  | .linkEnable _ => true

end Sys2Proof
end

