-- ==== Sys2Proof/Decode.lean ====
section
/-!
DEFINITION. Words and commands: the command that a core's instruction word stands for, by its opcode and operation fields (05 R136, R137,
06 R185, 07 R197, 08 R240, 12 R336), and the command that a word spells by the bits of spec/opcode_table.json. No row of that table gives
bits, so no word spells a command by it; the commands come to the block through its queue.
-/
namespace Sys2Proof

/-- The command of a COLL by its OP (12 R336); of COMBINE the operand bit 32 tells the two phases (12 R361). -/
def collInstr (i : SiteId) (w : IWord) : Instr :=
  match collOpOf w with
  | 0 => .allReduce i w
  | 1 => .reduceScatter i w
  | 2 => .allGather i w
  | 3 => .allToAll i w
  | 4 => .permute i w
  | 5 => .barrier i w
  | 6 => .local i w
  | 7 => .dispatch i w
  | 8 => if w.getLsbD 32 then .combineReturn i w else .combineAdd i w
  | 9 => .stageSend i w
  | 10 => .stageCredit i w
  | _ => .hint i w

/-- The command of the instruction word that a core's sequencer finds at its pc, by its opcode (05 R137); a reserved opcode is
ILLEGAL_OP's. -/
def instrOf (i : SiteId) (w : IWord) : Instr :=
  match opcodeOf w with
  | 0x00 => .nop i w
  | 0x01 => .halt i w
  | 0x02 => .fence i w
  | 0x03 => .wait i w
  | 0x04 => .mark i w
  | 0x05 => .epoch i w
  | 0x06 => .step i w
  | 0x07 => .dset i w
  | 0x08 => .dadj i w
  | 0x09 => .tset i w
  | 0x0A => .tadd i w
  | 0x0B => .jmp i w
  | 0x0C => .own i w
  | 0x0D => .hiveTake i w
  | 0x10 => .mma i w
  | 0x11 => .mmaT i w
  | 0x12 => .mmaProbe i w
  | 0x13 => .park i w
  | 0x14 => .unpark i w
  | 0x20 => .load i w
  | 0x21 => .store i w
  | 0x22 => .gather i w
  | 0x23 => .scatter i w
  | 0x24 => if w.getLsbD 67 then .scatterAddDrain i w else .scatterAdd i w
  | 0x30 => .quant i w
  | 0x31 => .requant i w
  | 0x32 => .lutmv i w
  | 0x33 => if subOp w = 0 then .scoutPredict i w else .scoutApply i w
  | 0x40 => .mow i w
  | 0x41 => if subOp w = 0 then .sowCand i w else if w.getLsbD 117 then .sowGrowPosition i w else .sowGrowBlock i w
  | 0x42 => .compress i w
  | 0x43 => .blkt i w
  | 0x50 => collInstr i w
  | _ => .illegalOp i w

/-- The command that `nbits` bits `w` spell by the table: none, since no row of it has bits. -/
def decodeTableWord (_nbits _w : Nat) : Option Instr := none

end Sys2Proof
end

