-- ==== Sys2Proof/Config.lean ====
section
/-!
DEFINITION. The free values of the model: what the spec leaves open. None has a body, so no proof can lean on a value. Each
is named in the assumption log entry that its docstring cites.
-/
namespace Sys2Proof.Config

/-- A value that the spec leaves undefined after an event, drawn afresh by the State's counter of free values (log 1). -/
opaque free : Nat → Nat
/-- A byte of LPDDR6 that nothing has written since its contents were last lost: by loss count and address (10 R293, log 2). -/
opaque freeByte : Nat → Nat → Byte
/-- The error pattern of an LPDDR6 granule that nothing has written since its contents were last lost (10 R293, log 2). -/
opaque freeErr : Nat → Nat → BitVec 32
/-- A byte of the device's identity certificate that manufacture sets: of its serial or of its signature (17 R441, log 170). -/
opaque certByte : Nat → Byte
/-- A byte of a Hush snapshot that the spec does not give: by the draw of its scan and by its offset (19 R491, log 45). -/
opaque scanByte : Nat → Nat → Byte
/-- The value that a cycle counter of a core held when its clock stopped: by the draw of the stop, the site and the word (01 R43, log
143). -/
opaque held : Nat → Nat → Nat → Nat

/-- The plane of a packet to another device or to a host window, which 01 R20 does not give: by its global address (log 158). -/
opaque openPlane : Nat → Nat

/-- The BF16 scale of an HB4 block of a sparse storage operand, whose scale array no storage instruction reads: by a draw and the block
(03 R95, log 8). -/
opaque scale : Nat → Nat → Nat

/-- The 24 random bits of a park add of MMA.PROBE in LONG, whose key the spec does not give: by seed, step, item and element (07 R211,
log 99). -/
opaque probeBits : Nat → Nat → Nat → Nat → Nat

end Sys2Proof.Config
end

