-- ==== Sys2Proof/Machine/Bits.lean ====
section
/-!
DEFINITION. Bit fields, byte order, sign extension and checksums used by every unit (spec/00_scope.md R7).
-/
namespace Sys2Proof.Machine

/-- Bits `hi` down to `lo` of a number (00 R7). -/
def fld (w hi lo : Nat) : Nat := (w >>> lo) % 2 ^ (hi + 1 - lo)

/-- One bit of a number. -/
def bit (w i : Nat) : Bool := w.testBit i

/-- `v` placed at bits `hi` down to `lo` of an otherwise zero word. -/
def place (hi lo v : Nat) : Nat := (v % 2 ^ (hi + 1 - lo)) <<< lo

/-- `w` with its bits `hi` down to `lo` replaced by `v`. -/
def setFld (w hi lo v : Nat) : Nat :=
  w - (fld w hi lo) <<< lo + place hi lo v

/-- A truth value as a bit. -/
def b2n (b : Bool) : Nat := if b then 1 else 0

/-- The two's complement value of the low `n` bits of `w`. -/
def sext (n w : Nat) : Int :=
  let v := w % 2 ^ n
  if 2 ^ n ≤ 2 * v then (v : Int) - (2 ^ n : Nat) else v

/-- The low `n` bits of an integer, as a number. -/
def wrap (n : Nat) (v : Int) : Nat := (v % ((2 ^ n : Nat) : Int)).toNat

/-- `v` held to the range `lo` to `hi`. -/
def clampI (lo hi v : Int) : Int := if v < lo then lo else if hi < v then hi else v

/-- A counter that stops at `top` (01 R46, 02 R75 and every saturating count). -/
def satAdd (top a b : Nat) : Nat := if top < a + b then top else a + b

/-- The least multiple of `n` not below `a`. -/
def roundUp (a n : Nat) : Nat := (a + n - 1) / n * n

/-- Rounded-up quotient. -/
def ceilDiv (a n : Nat) : Nat := (a + n - 1) / n

/-- Rotation of a 32-bit word to the left. -/
def rotl32 (x n : Nat) : Nat :=
  let y := x % 2 ^ 32
  ((y <<< n) ||| (y >>> (32 - n))) % 2 ^ 32

/-- The `n` bytes of a number, least significant first (00 R7). -/
def toBytes : Nat → Nat → List Byte
  | 0, _ => []
  | n + 1, v => BitVec.ofNat 8 v :: toBytes n (v / 256)

/-- The number that bytes spell, least significant first (00 R7). -/
def ofBytes : List Byte → Nat
  | [] => 0
  | b :: bs => b.toNat + 256 * ofBytes bs

/-- `n` zero bytes. -/
def zeroBytes (n : Nat) : List Byte := List.replicate n 0

/-- Bytes `a` to `a + n - 1` of a list, zeros past its end. -/
def slice (bs : List Byte) (a n : Nat) : List Byte :=
  let t := (bs.drop a).take n
  t ++ zeroBytes (n - t.length)

/-- Little-endian field of `n` bytes at byte `a` of a record. -/
def leAt (bs : List Byte) (a n : Nat) : Nat := ofBytes (slice bs a n)

/-- A list cut into pieces of `n` (`fuel` bounds the number of pieces). -/
def chunks {α : Type} (n : Nat) : Nat → List α → List (List α)
  | 0, _ => []
  | _ + 1, [] => []
  | fuel + 1, x :: xs => (x :: xs).take n :: chunks n fuel ((x :: xs).drop n)

/-- A list cut into pieces of `n`. -/
def chunksOf {α : Type} (n : Nat) (l : List α) : List (List α) := chunks n l.length l

/-- One step of a reflected CRC of 32 bits with polynomial `p`. -/
def crcBit (p c : Nat) : Nat := if c % 2 = 1 then (c / 2) ^^^ p else c / 2

/-- One byte into a reflected CRC of 32 bits. -/
def crcByte (p c b : Nat) : Nat := (List.range 8).foldl (fun x _ => crcBit p x) (c ^^^ b)

/-- A reflected CRC of 32 bits with polynomial `p`, initial and final value all ones. -/
def crc32 (p : Nat) (bs : List Byte) : Nat :=
  (bs.foldl (fun c b => crcByte p c b.toNat) 0xFFFFFFFF) ^^^ 0xFFFFFFFF

/-- CRC-32C (Castagnoli), which the fabric flits (11 R303) and the images (15 R410) use. -/
def crc32c : List Byte → Nat := crc32 0x82F63B78

/-- The number of ones in the low `n` bits. -/
def popcount (n w : Nat) : Nat := ((List.range n).filter (fun i => w.testBit i)).length

/-- The indices below `n` at which `w` has a one, ascending. -/
def onesOf (n w : Nat) : List Nat := (List.range n).filter (fun i => w.testBit i)

/-- The word with ones exactly at the indices of a list. -/
def maskOf (l : List Nat) : Nat := l.foldl (fun m i => m ||| (1 <<< i)) 0

/-- The product of a list. -/
def prodN (l : List Nat) : Nat := l.foldl (· * ·) 1

/-- The first index of `l` at which `p` holds. -/
def findIdx {α : Type} (p : α → Bool) (l : List α) : Option Nat :=
  (l.findIdx? p)

/-- Element `i` of a list, `d` past its end. -/
def nth {α : Type} (l : List α) (i : Nat) (d : α) : α := (l[i]?).getD d

/-- A list with element `i` replaced. -/
def setNth {α : Type} (l : List α) (i : Nat) (x : α) : List α := l.set i x

end Sys2Proof.Machine
end

