-- ==== Sys2Proof/Machine/Float.lean ====
section
/-!
DEFINITION. The number formats, the rounding rules, the stochastic rounding generator and the conversions of
spec/02_number_formats.md (R47 to R74). Values are exact rationals; every rounding is explicit.
-/
namespace Sys2Proof.Machine

/-- The element formats of 02 R47. -/
inductive Fmt where
  | fp32 | fp24 | bf16 | fp16 | e4m3 | e5m2 | int8 | int4 | hb4 | int32 | uint8
deriving DecidableEq, Repr

/-- The format a code names; `none` for the reserved codes 0x0B to 0xFF (02 R47). -/
def Fmt.ofCode : Nat → Option Fmt
  | 0 => some .fp32 | 1 => some .fp24 | 2 => some .bf16 | 3 => some .fp16 | 4 => some .e4m3 | 5 => some .e5m2
  | 6 => some .int8 | 7 => some .int4 | 8 => some .hb4 | 9 => some .int32 | 10 => some .uint8 | _ => none

/-- Bits per element (02 R47). -/
def Fmt.width : Fmt → Nat
  | .fp32 | .int32 => 32 | .fp24 => 24 | .bf16 | .fp16 => 16
  | .e4m3 | .e5m2 | .int8 | .uint8 => 8 | .int4 | .hb4 => 4

/-- A floating format's fields and limits (02 R50): exponent bits, fraction bits, bias, infinities, subnormals. -/
structure FPar where
  ebits : Nat
  fbits : Nat
  bias  : Nat
  inf   : Bool
  sub   : Bool
deriving DecidableEq, Repr

def FPar.fp32 : FPar := ⟨8, 23, 127, true, true⟩
def FPar.fp24 : FPar := ⟨8, 15, 127, true, false⟩
def FPar.bf16 : FPar := ⟨8, 7, 127, true, true⟩
def FPar.fp16 : FPar := ⟨5, 10, 15, true, true⟩
def FPar.e4m3 : FPar := ⟨4, 3, 7, false, true⟩
def FPar.e5m2 : FPar := ⟨5, 2, 15, true, true⟩

/-- The floating parameters of a format, if it is floating. -/
def Fmt.par : Fmt → Option FPar
  | .fp32 => some .fp32 | .fp24 => some .fp24 | .bf16 => some .bf16 | .fp16 => some .fp16
  | .e4m3 => some .e4m3 | .e5m2 => some .e5m2 | _ => none

/-- The range of an integer format (02 R52). -/
def Fmt.range : Fmt → Option (Int × Int)
  | .int8 => some (-128, 127) | .int4 => some (-8, 7) | .int32 => some (-2147483648, 2147483647)
  | .uint8 => some (0, 255) | _ => none

/-- A value: NaN, an infinity, or a finite number with a sign (the sign of a zero is kept, 02 R51). -/
inductive FVal where
  | nan
  | inf (neg : Bool)
  | fin (neg : Bool) (mag : Rat)
deriving DecidableEq, Repr

/-- 2 to an integer power, exactly. -/
def pow2 (k : Int) : Rat :=
  if 0 ≤ k then ((2 ^ k.toNat : Nat) : Rat) else mkRat 1 (2 ^ (-k).toNat)

namespace FVal

def zero : FVal := .fin false 0

/-- The signed value of a finite number; 0 for the others. -/
def toRat : FVal → Rat
  | .fin true m => -m
  | .fin false m => m
  | _ => 0

/-- A rational as a value, zero being +0. -/
def ofRat (q : Rat) : FVal := if q < 0 then .fin true (-q) else .fin false q

def ofInt (n : Int) : FVal := ofRat (n : Rat)

def isNan : FVal → Bool
  | .nan => true
  | _ => false

def isFinite : FVal → Bool
  | .fin _ _ => true
  | _ => false

def neg? : FVal → Bool
  | .fin n _ => n
  | .inf n => n
  | .nan => false

def negate : FVal → FVal
  | .fin n m => .fin (!n) m
  | .inf n => .inf (!n)
  | .nan => .nan

def abs : FVal → FVal
  | .fin _ m => .fin false m
  | .inf _ => .inf false
  | .nan => .nan

def isZero : FVal → Bool
  | .fin _ m => m == 0
  | _ => false

/-- The exact product (02 R51: NaN operands, 0 × ∞). -/
def mul : FVal → FVal → FVal
  | .nan, _ => .nan
  | _, .nan => .nan
  | .inf a, .inf b => .inf (a != b)
  | .inf a, .fin b m => if m == 0 then .nan else .inf (a != b)
  | .fin a m, .inf b => if m == 0 then .nan else .inf (a != b)
  | .fin a m, .fin b k => .fin (a != b) (m * k)

/-- The exact sum of many values, as if with unbounded precision and range (02 R54). A zero sum is −0 only where every
term is −0, and +0 otherwise (02 R51). -/
def sum (l : List FVal) : FVal :=
  if l.any isNan then .nan
  else if l.any (fun v => v == .inf false) then
    (if l.any (fun v => v == .inf true) then .nan else .inf false)
  else if l.any (fun v => v == .inf true) then .inf true
  else
    let q := (l.map toRat).foldl (· + ·) 0
    if q == 0 then .fin (!l.isEmpty && l.all neg?) 0 else ofRat q

def add (a b : FVal) : FVal := sum [a, b]
def sub (a b : FVal) : FVal := sum [a, b.negate]

/-- The exact quotient; a zero divisor follows IEEE 754 as 02 R51 does for the other operations. -/
def div : FVal → FVal → FVal
  | .nan, _ => .nan
  | _, .nan => .nan
  | .inf _, .inf _ => .nan
  | .inf a, .fin b _ => .inf (a != b)
  | .fin a _, .inf b => .fin (a != b) 0
  | .fin a m, .fin b k =>
    if k == 0 then (if m == 0 then .nan else .inf (a != b)) else .fin (a != b) (m / k)

/-- `a < b` on values that are not NaN; false on NaN. -/
def lt : FVal → FVal → Bool
  | .nan, _ => false
  | _, .nan => false
  | .inf a, .inf b => a && !b
  | .inf a, .fin _ _ => a
  | .fin _ _, .inf b => !b
  | .fin a m, .fin b k => decide ((FVal.fin a m).toRat < (FVal.fin b k).toRat)

end FVal

/-- The rounding in force (02 R63): nearest to even, stochastic with its 24 random bits, towards zero, and the upward
rounding that HB4 scales use (02 R59). -/
inductive Rnd where
  | rne
  | sr (r : Nat)
  | rz
  | up
deriving DecidableEq, Repr

/-- Floor of the base-2 logarithm of a positive rational. -/
def ilog2 (m : Rat) : Int :=
  let e : Int := (Nat.log2 m.num.natAbs : Int) - (Nat.log2 m.den : Int)
  if m < pow2 e then e - 1 else e

/-- Whether a magnitude `a + f` of grid steps (0 ≤ f < 1) goes to `a + 1` (02 R64, R65). -/
def Rnd.goesUp (m : Rnd) (a : Nat) (f : Rat) : Bool :=
  match m with
  | .rne => decide (mkRat 1 2 < f) || (f == mkRat 1 2 && a % 2 == 1)
  | .sr r => decide ((r : Rat) < f * ((2 ^ 24 : Nat) : Rat))
  | .rz => false
  | .up => f != 0

/-- A non-negative rational on the grid of `2^q`: the number of grid steps after rounding. -/
def gridRound (m : Rnd) (mag : Rat) (q : Int) : Nat :=
  let t := mag / pow2 q
  let a := t.floor.toNat
  if m.goesUp a (t - (a : Rat)) then a + 1 else a

/-- The largest finite magnitude of a floating format (02 R50). -/
def FPar.maxFin (p : FPar) : Rat :=
  if p.inf then
    let emax : Int := (2 ^ p.ebits - 2 : Nat) - (p.bias : Int)
    ((2 ^ (p.fbits + 1) - 1 : Nat) : Rat) * pow2 (emax - p.fbits)
  else 448

/-- The exponent of the smallest normal number. -/
def FPar.emin (p : FPar) : Int := 1 - (p.bias : Int)

/-- A finite magnitude rounded to the format's precision, its range unbounded above; FP24 has no lower bound on its
exponent and flushes results below 2^−126 to zero (02 R51, R65). -/
def FPar.roundMag (p : FPar) (m : Rnd) (mag : Rat) : Rat :=
  if mag == 0 then 0
  else
    let e := ilog2 mag
    let q := (if p.sub then max e p.emin else e) - (p.fbits : Int)
    let r := (gridRound m mag q : Rat) * pow2 q
    if !p.sub && decide (r < pow2 p.emin) then 0 else r

/-- A value rounded to a floating format, with whether a finite value overflowed and was saturated (02 R71): formats
with infinities overflow to ±∞ (to the largest finite value under rounding towards zero), E4M3 and E5M2 saturate. -/
def FPar.round (p : FPar) (m : Rnd) : FVal → FVal × Bool
  | .nan => (.nan, false)
  | .inf n => if p.inf then (.inf n, false) else (.nan, false)
  | .fin n mag =>
    let r := p.roundMag m mag
    if p.maxFin < r then
      if p.ebits + p.fbits = 7 then (.fin n p.maxFin, true)
      else if m = .rz then (.fin n p.maxFin, false) else (.inf n, false)
    else (.fin n r, false)

/-- The bits of a value that the format represents exactly; NaN is the canonical NaN of 02 R50. -/
def FPar.encode (p : FPar) : FVal → Nat
  | .nan => ((2 ^ p.ebits - 1) <<< p.fbits) + (if p.inf then 2 ^ (p.fbits - 1) else 7)
  | .inf n => (b2n n <<< (p.ebits + p.fbits)) + ((2 ^ p.ebits - 1) <<< p.fbits)
  | .fin n mag =>
    let s := b2n n <<< (p.ebits + p.fbits)
    if mag == 0 then s
    else
      let e := max (ilog2 mag) p.emin
      let a := (mag / pow2 (e - p.fbits)).floor.toNat
      if a < 2 ^ p.fbits then s + a
      else s + ((e + p.bias).toNat <<< p.fbits) + (a - 2 ^ p.fbits)

/-- The value of a bit pattern (02 R50, R51). -/
def FPar.decode (p : FPar) (w : Nat) : FVal :=
  let n := w.testBit (p.ebits + p.fbits)
  let e := fld w (p.ebits + p.fbits - 1) p.fbits
  let f := w % 2 ^ p.fbits
  if e = 2 ^ p.ebits - 1 && (p.inf || f == 7) then
    (if p.inf && f == 0 then .inf n else .nan)
  else if e = 0 then
    (if p.sub then .fin n ((f : Rat) * pow2 (p.emin - p.fbits)) else .fin n 0)
  else .fin n (((2 ^ p.fbits + f : Nat) : Rat) * pow2 ((e : Int) - p.bias - p.fbits))

/-- FP32 of a value under round to nearest even (02 R54), as a value. -/
def rn32 (v : FVal) : FVal := (FPar.fp32.round .rne v).1
/-- FP32 bits of a value under round to nearest even. -/
def bits32 (v : FVal) : Nat := FPar.fp32.encode (rn32 v)
/-- The value of FP32 bits. -/
def val32 (w : Nat) : FVal := FPar.fp32.decode w
/-- One rounded FP32 addition. -/
def add32 (a b : FVal) : FVal := rn32 (a.add b)

/-- The levels of an HB4 code in sixteenths (02 R57). -/
def hb4Levels : List Nat := [1, 3, 5, 8, 11, 15, 20, 28]

/-- The signed level of an HB4 code (02 R57). -/
def hb4Level (c : Nat) : FVal := .fin (c.testBit 3) (mkRat (nth hb4Levels (c % 8) 1 : Nat) 16)

/-- The exact value of an HB4 code under a BF16 scale; a zero scale decodes to +0 (02 R57, R60). -/
def hb4Decode (c scale : Nat) : FVal :=
  let s := FPar.bf16.decode scale
  if s.isZero then .zero else (hb4Level c).mul s

/-- The value of an element other than HB4 (HB4 needs its scale; its bare code here reads under scale 1.0). -/
def Fmt.decode (f : Fmt) (w : Nat) : FVal :=
  match f with
  | .int8 => .ofInt (sext 8 w) | .int4 => .ofInt (sext 4 w) | .int32 => .ofInt (sext 32 w)
  | .uint8 => .ofInt (w % 256 : Nat) | .hb4 => hb4Level w
  | .fp32 => FPar.fp32.decode w | .fp24 => FPar.fp24.decode w | .bf16 => FPar.bf16.decode w
  | .fp16 => FPar.fp16.decode w | .e4m3 => FPar.e4m3.decode w | .e5m2 => FPar.e5m2.decode w

/-- What a conversion counts (02 R71, R75). -/
structure QEv where
  saturate   : Nat := 0
  nonfinite  : Nat := 0
  degenerate : Nat := 0
  zeroBlock  : Nat := 0
deriving DecidableEq, Repr

def QEv.add (a b : QEv) : QEv :=
  ⟨a.saturate + b.saturate, a.nonfinite + b.nonfinite, a.degenerate + b.degenerate, a.zeroBlock + b.zeroBlock⟩

def QEv.total (l : List QEv) : QEv := l.foldl QEv.add {}

/-- A finite magnitude with its sign rounded to an integer (02 R64, R65). -/
def roundInt (m : Rnd) (neg : Bool) (mag : Rat) : Int :=
  let a := gridRound m mag 0
  if neg then -(a : Int) else a

/-- A value to an element of a format other than HB4, with what it counts (02 R71). -/
def Fmt.convert (f : Fmt) (m : Rnd) (v : FVal) : Nat × QEv :=
  match f.par, f.range with
  | some p, _ =>
    let (r, sat) := p.round m v
    (p.encode r, { saturate := b2n sat, nonfinite := b2n (!v.isFinite) })
  | none, some (lo, hi) =>
    match v with
    | .nan => (0, { nonfinite := 1 })
    | .inf n => (wrap f.width (if n then lo else hi), { nonfinite := 1 })
    | .fin n mag =>
      let x := roundInt m n mag
      let y := clampI lo hi x
      (wrap f.width y, { saturate := b2n (x != y) })
  | none, none => (0, {})

/-- The constants of the generator (02 R66). -/
def srK : List Nat := [0x9E3779B9, 0x7F4A7C15, 0x85EBCA6B, 0xC2B2AE35]

/-- One round of the generator on its state (a, b, c) (02 R66). -/
def srRound (seed : Nat) (st : Nat × Nat × Nat) (i : Nat) : Nat × Nat × Nat :=
  let (a, b, c) := st
  let s := if i % 2 = 0 then seed % 2 ^ 32 else fld seed 63 32
  let a' := (a + (b ^^^ c) + nth srK i 0 + s) % 2 ^ 32
  let b' := rotl32 (b ^^^ a') 11
  let c' := rotl32 ((c + b') % 2 ^ 32) 19
  (a', b', c')

/-- The 24 random bits of a key (02 R66). -/
def srBits (seed step tensor elem : Nat) : Nat :=
  let st := (List.range 4).foldl (srRound seed)
    (elem % 2 ^ 32, ((fld elem 39 32) <<< 24) ||| (tensor % 2 ^ 24), step % 2 ^ 32)
  ((st.1 ^^^ st.2.1 ^^^ st.2.2) >>> 8) % 2 ^ 24

/-- The rounding that an RND field names, with the random bits of its element (02 R63: 0b11 rounds as 0b00). -/
def Rnd.ofField (rnd r : Nat) : Rnd := if rnd = 1 then .sr r else if rnd = 2 then .rz else .rne

/-- The HB4 index that a magnitude over its scale takes (02 R59): nearest level (ties to the smaller), stochastic
between neighbours, or the largest level not above. -/
def hb4Index (m : Rnd) (v : Rat) : Nat :=
  let lv (i : Nat) : Rat := mkRat (nth hb4Levels i 28 : Nat) 16
  let a := ((List.range 8).filter (fun i => decide (lv i ≤ v))).length - 1
  if v < lv 0 then 0
  else if a = 7 then 7
  else
    let lo := lv a
    let hi := lv (a + 1)
    match m with
    | .rz => a
    | .sr r => if (r : Rat) < (v - lo) / (hi - lo) * ((2 ^ 24 : Nat) : Rat) then a + 1 else a
    | _ => if v - lo ≤ hi - v then a else a + 1

/-- One HB4 block encoded from the elements that the instruction writes, each with its rounding: the scale, the codes and
what it counts (02 R59, R60). -/
def hb4Encode (els : List (Rnd × FVal)) : Nat × List Nat × QEv :=
  if els.any (fun e => !e.2.isFinite) then
    (0x7FC0, els.map (fun _ => 0), { nonfinite := 1 })
  else
    let mags := els.map (fun e => e.2.abs.toRat)
    let mx := mags.foldl (fun a b => if a < b then b else a) 0
    if mx == 0 then (0, els.map (fun _ => 0), { zeroBlock := 1 })
    else
      let s := (FPar.bf16.round .up (.fin false (mx / mkRat 7 4))).1
      let sc := FPar.bf16.encode s
      (sc, els.map (fun e => (b2n e.2.neg? <<< 3) + hb4Index e.1 (e.2.abs.toRat / s.toRat)), {})

/-- REQUANT of one INT32 accumulator: the code before clamping to [lo, hi] (02 R74). -/
def requantU (acc mult : Int) (sh : Nat) (zp : Int) : Int :=
  let p := acc * mult
  let t := if sh = 0 then p else (p + (2 ^ (sh - 1) : Nat)) / ((2 ^ sh : Nat) : Int)
  t + zp

/-- REQUANT of one element with its clamp and count (02 R74); with lo above hi every output is hi (06 R182). -/
def requant (acc mult : Int) (sh : Nat) (zp lo hi : Int) : Int × QEv :=
  let u := requantU acc mult sh zp
  let y := if hi < lo then hi else clampI lo hi u
  (y, { saturate := b2n (u != y) })

/-- Least and greatest of a non-empty list of values, both 0 on an empty one. -/
def valMin (l : List Rat) : Rat := match l with | [] => 0 | x :: xs => xs.foldl (fun a b => if b < a then b else a) x
def valMax (l : List Rat) : Rat := match l with | [] => 0 | x :: xs => xs.foldl (fun a b => if a < b then b else a) x

/-- The FP32 scale and the zero point that QUANT computes for a channel of finite elements, and whether the channel is
degenerate (02 R72, R73). -/
def quantScale (asym : Bool) (qmin qmax : Int) (xs : List Rat) : FVal × Int × Bool :=
  let c32 := clampI (-2147483648) 2147483647
  let rhe (q : Rat) : Int := roundInt .rne (decide (q < 0)) (if q < 0 then -q else q)
  if asym then
    let mn := valMin xs
    let mx := valMax xs
    if mn == mx then (.fin false 1, c32 (rhe mn), true)
    else
      let s := rn32 (.ofRat ((mx - mn) / ((qmax - qmin : Int) : Rat)))
      (s, c32 (rhe (mn / s.toRat)) - qmin, false)
  else
    let am := valMax (xs.map (fun q => if q < 0 then -q else q))
    if am == 0 then (.fin false 1, 0, true)
    else (rn32 (.ofRat (am / ((qmax : Int) : Rat))), 0, false)

/-- One code under a scale and zero point (02 R72); a quotient that is NaN or infinite as 02 R71 has it. -/
def quantCode (m : Rnd) (qmin qmax : Int) (scale : FVal) (z : Int) (x : FVal) : Int × QEv :=
  match x.div scale with
  | .nan => (0, { nonfinite := 1 })
  | .inf n => (if n then qmin else qmax, { nonfinite := 1 })
  | .fin n mag =>
    let u := roundInt m n mag - z
    let y := clampI qmin qmax u
    (y, { saturate := b2n (u != y) })

end Sys2Proof.Machine
end

