-- ==== Sys2Proof/Machine/Granule.lean ====
section
/-!
DEFINITION. The granule code RS(36,32) over GF(2^8) and the four outcomes of a decoder (spec/10_memory_system.md R279 to
R285), and the maps of a local offset to its cache slice (spec/01_organisation.md R36) and to its channel (10 R286).
-/
namespace Sys2Proof.Machine

/-- Multiplication by α in GF(2^8) with the polynomial 0x11D (10 R280). -/
def gfDouble (a : Nat) : Nat := if a < 128 then 2 * a else (2 * a) ^^^ 0x11D

/-- Product in GF(2^8), bit by bit of the second factor. -/
def gfMulAux : Nat → Nat → Nat → Nat
  | 0, _, _ => 0
  | n + 1, a, b => (if b % 2 = 1 then a else 0) ^^^ gfMulAux n (gfDouble a) (b / 2)

/-- Product in GF(2^8). -/
def gfMul (a b : Nat) : Nat := gfMulAux 8 a b

/-- A power of α. -/
def gfPow : Nat → Nat
  | 0 => 1
  | n + 1 => gfDouble (gfPow n)

/-- The inverse of a non-zero element: a^254. -/
def gfInv (a : Nat) : Nat :=
  let a2 := gfMul a a
  let a4 := gfMul a2 a2
  let a8 := gfMul a4 a4
  let a16 := gfMul a8 a8
  let a32 := gfMul a16 a16
  let a64 := gfMul a32 a32
  let a128 := gfMul a64 a64
  gfMul a128 (gfMul a64 (gfMul a32 (gfMul a16 (gfMul a8 (gfMul a4 a2)))))

def gfDiv (a b : Nat) : Nat := gfMul a (gfInv b)

/-- One data byte through the division by g(x) = x^4 + 0x0F x^3 + 0x36 x^2 + 0x78 x + 0x40 (10 R280); the remainder is
held as its four coefficients, check byte 0 first. -/
def rsShift (r : List Nat) (d : Nat) : List Nat :=
  let f := d ^^^ nth r 0 0
  [nth r 1 0 ^^^ gfMul f 0x0F, nth r 2 0 ^^^ gfMul f 0x36, nth r 3 0 ^^^ gfMul f 0x78, gfMul f 0x40]

/-- The four check bytes of 32 data bytes, check byte 0 first (10 R280). -/
def checkBytes (data : List Byte) : List Byte :=
  ((data.foldl (fun r d => rsShift r d.toNat) [0, 0, 0, 0])).map (BitVec.ofNat 8)

/-- A granule as it travels: its data bytes, and its four check bytes given by their difference (exclusive or) from the
code of the data, check byte 0 in the low byte. 0 is a codeword, 0xFFFF_FFFF is the poison marking (10 R283). -/
structure Gran where
  data : List Byte
  err  : Nat
deriving DecidableEq, Repr

/-- The error pattern of the poison marking (10 R283). -/
def poisonErr : Nat := 0xFFFFFFFF

/-- A granule with a valid code. -/
def Gran.valid (d : List Byte) : Gran := ⟨d, 0⟩
/-- A poison-marked granule (10 R283). -/
def Gran.poisoned (d : List Byte) : Gran := ⟨d, poisonErr⟩

/-- The check bytes of a granule on the wire. -/
def Gran.check (g : Gran) : List Byte :=
  List.zipWith (fun c i => c ^^^ BitVec.ofNat 8 (g.err >>> (8 * i))) (checkBytes g.data) (List.range 4)

/-- A granule from its 36 burst bytes (10 R279). -/
def Gran.ofBurst (bs : List Byte) : Gran :=
  let d := slice bs 0 32
  let c := slice bs 32 4
  ⟨d, ofBytes (List.zipWith (· ^^^ ·) c (checkBytes d))⟩

/-- Syndrome j of an error pattern: check byte i is the coefficient of x^(3-i) (10 R280). -/
def syndrome (err j : Nat) : Nat :=
  (List.range 4).foldl (fun s i => s ^^^ gfMul ((err >>> (8 * i)) % 256) (gfPow (j * (3 - i)))) 0

/-- The outcome of a decoder (10 R282); a corrected granule names the burst bytes it corrected. -/
inductive GOut where
  | clean
  | corrected (syms : List Nat)
  | uncorr
  | poison
deriving DecidableEq, Repr

/-- Burst byte whose locator is α^(35 − b), if the locator is one of the 36. -/
def locByte (x : Nat) : Option Nat := (List.range 36).find? (fun b => gfPow (35 - b) == x)

/-- One or two symbol errors that explain the four syndromes: burst byte and error value of each (10 R282 row 3). -/
def rsErrors (s0 s1 s2 s3 : Nat) : Option (List (Nat × Nat)) :=
  let det := gfMul s0 s2 ^^^ gfMul s1 s1
  if det = 0 then
    if s0 = 0 then none
    else
      let x := gfDiv s1 s0
      if s2 = gfMul s1 x && s3 == gfMul s2 x then (locByte x).map (fun b => [(b, s0)]) else none
  else
    let g1 := gfDiv (gfMul s0 s3 ^^^ gfMul s1 s2) det
    let g2 := gfDiv (gfMul s1 s3 ^^^ gfMul s2 s2) det
    match (List.range 36).filter (fun b =>
      let x := gfPow (35 - b)
      (gfMul x x ^^^ gfMul g1 x ^^^ g2) == 0) with
    | [b1, b2] =>
      let x1 := gfPow (35 - b1)
      let x2 := gfPow (35 - b2)
      let e1 := gfDiv (s1 ^^^ gfMul s0 x2) (x1 ^^^ x2)
      if e1 = 0 || (s0 ^^^ e1) == 0 then none else some [(b1, e1), (b2, s0 ^^^ e1)]
    | _ => none

/-- Data bytes with error values taken out at the burst bytes that are data. -/
def applyErrors (d : List Byte) (es : List (Nat × Nat)) : List Byte :=
  es.foldl (fun d e => if e.1 < 32 then d.set e.1 (nth d e.1 0 ^^^ BitVec.ofNat 8 e.2) else d) d

/-- A decoder without erasures (10 R282): the outcome and the data it uses. -/
def Gran.decode (g : Gran) : GOut × List Byte :=
  if g.err = poisonErr then (.poison, g.data)
  else if g.err = 0 then (.clean, g.data)
  else
    match rsErrors (syndrome g.err 0) (syndrome g.err 1) (syndrome g.err 2) (syndrome g.err 3) with
    | some es => (.corrected (es.map (·.1)), applyErrors g.data es)
    | none => (.uncorr, g.data)

/-- The error values at three erased burst bytes that explain an error pattern alone (10 R282, R285). -/
def rsErase (err : Nat) (bs : List Nat) : Option (List (Nat × Nat)) :=
  let s j := syndrome err j
  let x1 := gfPow (35 - nth bs 0 0)
  let x2 := gfPow (35 - nth bs 1 0)
  let x3 := gfPow (35 - nth bs 2 0)
  let l1 := x1 ^^^ x2 ^^^ x3
  let l2 := gfMul x1 x2 ^^^ gfMul x1 x3 ^^^ gfMul x2 x3
  let l3 := gfMul x1 (gfMul x2 x3)
  if (s 3 ^^^ gfMul l1 (s 2) ^^^ gfMul l2 (s 1) ^^^ gfMul l3 (s 0)) = 0 then
    let y a b c := gfDiv (s 2 ^^^ gfMul (b ^^^ c) (s 1) ^^^ gfMul (gfMul b c) (s 0)) (gfMul (a ^^^ b) (a ^^^ c))
    some [(nth bs 0 0, y x1 x2 x3), (nth bs 1 0, y x2 x1 x3), (nth bs 2 0, y x3 x1 x2)]
  else none

/-- What the controller passes on for a granule of a sub-channel whose line `p` is erased (10 R285): the decoded granule
with its check bytes recomputed, a poison marking kept; an uncorrectable granule with its data as read and check bytes that every
decoder finds uncorrectable (log 47). -/
def Gran.erasureDecode (g : Gran) (p : Nat) : GOut × Gran :=
  let bs := [p, p + 12, p + 24]
  match rsErase (g.err ^^^ poisonErr) bs with
  | some es => (.poison, .poisoned (applyErrors g.data es))
  | none =>
    if g.err = 0 then (.clean, g)
    else
      match rsErase g.err bs with
      | some es => (.corrected ((es.filter (fun e => e.2 != 0)).map (·.1)), .valid (applyErrors g.data es))
      | none => (.uncorr, if g.decode.1 = .uncorr then g else ⟨g.data, 0x01010101⟩)

/-- The home slice of a local offset (01 R36). -/
def homeSlice (p : Nat) : Nat :=
  let a := fld p 40 7
  (a + (a >>> 6) + (a >>> 12) + (a >>> 18) + (a >>> 24) + (a >>> 30)) % 18

/-- The memory channel of a local offset (10 R286). -/
def channelOf (p : Nat) : Nat :=
  let a := fld p 40 7
  fld a 5 0 ^^^ fld a 11 6 ^^^ fld a 17 12 ^^^ fld a 23 18 ^^^ fld a 29 24 ^^^ fld a 33 30

/-- The sub-channel of a local offset (10 R286). -/
def subChannelOf (p : Nat) : Nat := fld p 5 5

/-- The position of a granule within its sub-channel (10 R286). -/
def granulePos (p : Nat) : Nat := 2 * fld (fld p 40 7) 33 6 + fld p 6 6

/-- The local offset of the granule at a position of a channel and sub-channel: R286 inverted, line index bits [5:0] being
the channel exclusive-or'd with the other six-bit groups. -/
def offsetAt (ch sub pos : Nat) : Nat :=
  let h := pos / 2
  let lo := ch ^^^ fld h 5 0 ^^^ fld h 11 6 ^^^ fld h 17 12 ^^^ fld h 23 18 ^^^ fld h 27 24
  (((h <<< 6) ||| lo) <<< 7) + (pos % 2) * 64 + sub * 32

end Sys2Proof.Machine
end

