-- ==== Sys2Proof/Machine/RegTable.lean ====
section
/-!
DEFINITION. The register map: every register of the spec's register tables with its BAR0 offset, its instances and its
fields (position, access code, reset value). The rule of each register stands beside its constructor.
-/
namespace Sys2Proof.Machine

/-- The access codes of 00 R10. -/
inductive Acc where
  | rw | ro | wo | w1c | rc
deriving DecidableEq, Repr

/-- The registers of the block, under the spec's names. -/
inductive Reg where
  /-- 01 R44 -/
  | TOP_NOC_CONFIG
  /-- 01 R45 -/
  | TOP_NOC_ERROR
  /-- 01 R46 -/
  | TOP_NOC_DROP_COUNT
  /-- 02 R69 -/
  | TOP_SR_SEED
  /-- 02 R75 -/
  | CORE_QNT_EVENTS
  /-- 04 R126 -/
  | CORE_ARRAY_CONFIG
  /-- 04 R127 -/
  | CORE_ARRAY_STATUS
  /-- 04 R128 -/
  | CORE_ARRAY_EVENTS
  /-- 05 R151 -/
  | HIVE_COUNTER
  /-- 05 R163 -/
  | CORE_SEQ_CTRL
  /-- 05 R164 -/
  | CORE_SEQ_PC
  /-- 05 R165 -/
  | CORE_SEQ_STATUS
  /-- 05 R166 -/
  | CORE_SEQ_STEP
  /-- 05 R167 -/
  | CORE_TILE_REGS
  /-- 05 R168 -/
  | CORE_DESC_TABLE
  /-- 05 R169 -/
  | CORE_CC
  /-- 05 R170 -/
  | CORE_ERROR_RECORD
  /-- 05 R170 -/
  | CORE_ERROR_WHERE
  /-- 05 R170 -/
  | CORE_ERROR_PC
  /-- 05 R171 -/
  | CORE_SHAPE_EVENTS
  /-- 05 R172 -/
  | CORE_DROP_COUNT
  /-- 05 R173 -/
  | CORE_BANK_OWNER
  /-- 06 R194 -/
  | CORE_SCOUT_EVENTS
  /-- 06 R195 -/
  | CORE_SCOUT_SKIP
  /-- 07 R221 -/
  | MOW_STATUS
  /-- 07 R222 -/
  | MOW_EVENTS
  /-- 08 R244 -/
  | CORE_INDEX_EVENTS
  /-- 08 R245 -/
  | ANT_SPILL_BASE
  /-- 08 R245 -/
  | ANT_SPILL_LIMIT
  /-- 08 R245 -/
  | ANT_SORT_BASE
  /-- 08 R245 -/
  | ANT_STATUS
  /-- 08 R245 -/
  | ANT_EVENTS
  /-- 09 R275 -/
  | RAKE_RING_BASE
  /-- 09 R275 -/
  | RAKE_RING_SIZE
  /-- 09 R275 -/
  | RAKE_RING_PTRS
  /-- 09 R275 -/
  | RAKE_CONFIG
  /-- 09 R275 -/
  | RAKE_LOSS_PTR
  /-- 09 R275 -/
  | RAKE_STATUS
  /-- 09 R275 -/
  | RAKE_CTRL
  /-- 09 R275 -/
  | RAKE_EVENTS
  /-- 09 R275 -/
  | RAKE_MISMATCH
  /-- 09 R275 -/
  | RAKE_MISMATCH_STEP
  /-- 09 R276 -/
  | CORE_SHADOW_CONFIG
  /-- 09 R276 -/
  | CORE_SHADOW_HIST
  /-- 09 R276 -/
  | CORE_SHADOW_LAYERS
  /-- 09 R276 -/
  | CORE_SHADOW_EVENTS
  /-- 10 R298 -/
  | MEM_CH_CONFIG
  /-- 10 R298 -/
  | MEM_CH_STATUS
  /-- 10 R298 -/
  | MEM_CH_ERR_COUNT
  /-- 10 R298 -/
  | MEM_CH_UE_LOG
  /-- 10 R298 -/
  | MEM_CH_CE_LOG
  /-- 10 R299 -/
  | MEM_TRAIN_STATUS
  /-- 10 R299 -/
  | MEM_SCRUB_CTRL
  /-- 10 R299 -/
  | MEM_SCRUB_STATUS
  /-- 10 R299 -/
  | MEM_MAP_EVENTS
  /-- 10 R299 -/
  | MEM_FILL_BASE
  /-- 10 R299 -/
  | MEM_FILL_CTRL
  /-- 11 R334 -/
  | FAB_CONFIG
  /-- 11 R334 -/
  | FAB_CLASS_WEIGHTS
  /-- 11 R334 -/
  | FAB_LAYOUT
  /-- 11 R334 -/
  | FAB_ERROR
  /-- 11 R334 -/
  | FAB_DROP_COUNT
  /-- 11 R334 -/
  | FAB_TIME_CONFIG
  /-- 11 R334 -/
  | FAB_TIME_STATUS
  /-- 11 R334 -/
  | FAB_ROUTE_DEV
  /-- 11 R334 -/
  | FAB_TREE
  /-- 11 R334 -/
  | FAB_TREE_LINKS
  /-- 11 R335 -/
  | FAB_LINK_CTRL
  /-- 11 R335 -/
  | FAB_LINK_STATUS
  /-- 11 R335 -/
  | FAB_LINK_ERR_COUNT
  /-- 11 R335 -/
  | FAB_LINK_FEC
  /-- 12 R373 -/
  | FAB_COLL_CONFIG
  /-- 12 R373 -/
  | FAB_COLL_STATUS
  /-- 12 R373 -/
  | FAB_COLL_EVENTS
  /-- 12 R373 -/
  | FAB_POLL_EVENTS
  /-- 12 R374 -/
  | CORE_COLL_WAIT
  /-- 14 R396 -/
  | RST_CMD
  /-- 14 R397 -/
  | HST_PCIE_STATUS
  /-- 14 R397 -/
  | HST_IRQ_CAUSE
  /-- 14 R397 -/
  | HST_IRQ_ENABLE
  /-- 14 R397 -/
  | HST_SITE_CAUSE
  /-- 14 R397 -/
  | HST_ERROR
  /-- 14 R397 -/
  | HST_WIN_BASE
  /-- 14 R397 -/
  | HST_WIN_SIZE
  /-- 14 R397 -/
  | HST_PTM_CTRL
  /-- 14 R397 -/
  | HST_PTM_STATUS
  /-- 14 R397 -/
  | HST_PTM_OFFSET
  /-- 14 R398 -/
  | HST_RING_BASE
  /-- 14 R398 -/
  | HST_CQ_BASE
  /-- 14 R398 -/
  | HST_RING_PTRS
  /-- 14 R398 -/
  | HST_CQ_PTRS
  /-- 14 R398 -/
  | HST_RING_CTRL
  /-- 15 R418 -/
  | RST_STRAPS
  /-- 15 R418 -/
  | RST_CAUSE
  /-- 15 R418 -/
  | RST_PHASE
  /-- 15 R418 -/
  | RST_CTRL
  /-- 15 R418 -/
  | RST_SWEEP
  /-- 15 R419 -/
  | OPT_STATUS
  /-- 15 R419 -/
  | OPT_CTRL
  /-- 15 R419 -/
  | OPT_IMAGE
  /-- 15 R419 -/
  | OPT_STAGE
  /-- 16 R438 -/
  | PWR_CAP_LIMIT
  /-- 16 R438 -/
  | PWR_FREQ_CTRL
  /-- 16 R438 -/
  | PWR_STATUS
  /-- 16 R438 -/
  | PWR_EVENT
  /-- 16 R438 -/
  | PWR_MISMATCH_LOG
  /-- 16 R438 -/
  | PWR_DROOP_CONFIG
  /-- 16 R438 -/
  | PWR_HB_CONFIG
  /-- 16 R438 -/
  | PWR_HB_TABLE
  /-- 16 R438 -/
  | PWR_SENSOR
  /-- 16 R438 -/
  | PWR_HB_PEER
  /-- 16 R439 -/
  | CORE_PWR_STATUS
  /-- 16 R439 -/
  | CORE_DROOP_EVENTS
  /-- 17 R456 -/
  | SEC_STATUS
  /-- 17 R456 -/
  | SEC_FW_INFO
  /-- 17 R456 -/
  | SEC_FW_HOST
  /-- 17 R456 -/
  | SEC_FW_CTRL
  /-- 17 R456 -/
  | SEC_ENGINE
  /-- 18 R468 -/
  | TOP_FAULT_CONFIG
  /-- 18 R468 -/
  | TOP_FAULT_STATUS
  /-- 18 R468 -/
  | TOP_FAULT_PTRS
  /-- 18 R468 -/
  | TOP_FENCE_CMD
  /-- 18 R468 -/
  | TOP_FENCED
  /-- 18 R468 -/
  | TOP_CORE_MAP
  /-- 19 R494 -/
  | CNT_CMD
  /-- 19 R494 -/
  | CNT_SWAP_AT
  /-- 19 R494 -/
  | CNT_STATUS
  /-- 19 R494 -/
  | TBS_TIME
  /-- 19 R494 -/
  | TBS_STATUS
  /-- 19 R495 -/
  | TRC_ENABLE
  /-- 19 R495 -/
  | TRC_LAYER_FILTER
  /-- 19 R495 -/
  | TRC_RING_BASE
  /-- 19 R495 -/
  | TRC_RING_CTRL
  /-- 19 R495 -/
  | TRC_RING_PTRS
  /-- 19 R495 -/
  | TRC_RING_STATUS
  /-- 19 R496 -/
  | TRC_HUSH_CTRL
  /-- 19 R496 -/
  | TRC_HUSH_MARK
  /-- 19 R496 -/
  | TRC_HUSH_STATUS
  /-- 19 R496 -/
  | TRC_HUSH_TIME
  /-- 19 R496 -/
  | TRC_HUSH_SHIP
  /-- 19 R496 -/
  | TRC_SNAP_PAGE
  /-- 21 R513 -/
  | MGT_ID
  /-- 21 R513 -/
  | MGT_STATE
  /-- 21 R513 -/
  | MGT_INPUT
  /-- 21 R513 -/
  | MGT_THERMAL
  /-- 21 R513 -/
  | MGT_POWER
  /-- 21 R513 -/
  | MGT_ALERT
  /-- 21 R513 -/
  | MGT_ALERT_ENABLE
  /-- 05 R174 -/
  | CORE_DESC_SLOT
  /-- 14 R379 -/
  | MSIX_ADDR
  /-- 14 R379 -/
  | MSIX_CTRL
  /-- 14 R379 -/
  | MSIX_PBA
  /-- 17 R456 -/
  | SEC_FW_STATUS
  /-- 17 R456 -/
  | SEC_ATT_STATUS
  /-- 17 R456 -/
  | SEC_DBG_STATUS
  /-- 17 R456 -/
  | SEC_ATT_NONCE
  /-- 17 R456 -/
  | SEC_ATT_CTRL
  /-- 17 R456 -/
  | SEC_DBG_CHALLENGE
  /-- 17 R456 -/
  | SEC_DBG_CTRL
  /-- 17 R456 -/
  | SEC_OWNER_CTRL
  /-- 17 R456 -/
  | SEC_OWNER_KEY
  /-- 17 R456 -/
  | SEC_ID_PUB
  /-- 17 R456 -/
  | SEC_REPORT
  /-- 17 R456 -/
  | SEC_CERT
  /-- 17 R456 -/
  | SEC_TOKEN
  /-- 18 R468 -/
  | TOP_FAULT_LOG
  /-- 19 R492 -/
  | TRC_SNAP_WINDOW
  /-- 19 R473 -/
  | CNT_CORE_FROZEN
  /-- 19 R473 -/
  | CNT_CORE_LIVE
  /-- 19 R473 -/
  | CNT_PEER_FROZEN
  /-- 19 R473 -/
  | CNT_PEER_LIVE
  /-- 19 R473 -/
  | CNT_CLUS_FROZEN
  /-- 19 R473 -/
  | CNT_CLUS_LIVE
  /-- 19 R473 -/
  | CNT_RAKE_FROZEN
  /-- 19 R473 -/
  | CNT_RAKE_LIVE
  /-- 19 R473 -/
  | CNT_COLL_FROZEN
  /-- 19 R473 -/
  | CNT_COLL_LIVE
  /-- 19 R473 -/
  | CNT_LINK_FROZEN
  /-- 19 R473 -/
  | CNT_LINK_LIVE
deriving DecidableEq, Repr

/-- A field of a register: its bits, its access code and its value after a cold reset (00 R10, R13). -/
structure Field where
  reg   : Reg
  hi    : Nat
  lo    : Nat
  acc   : Acc
  reset : Nat
deriving DecidableEq, Repr

/-- Where a register stands: the offset of its first instance, how many instances there are and how far apart, and the
length and stride of an array within an instance. Management-port registers stand above 2^32, at their index. -/
structure Place where
  base    : Nat
  insts   : Nat
  istride : Nat
  cnt     : Nat
  stride  : Nat
deriving DecidableEq, Repr

/-! The fields. A reset value that the spec takes from the option image, the fuses, the straps, flash or a log is what the
model holds before that source is read: 0 (log entry 3), TOP_CORE_MAP absent, and for the MSI-X mask bits 1 (log entry 4). -/

def F.TOP_NOC_CONFIG.RED_TIMEOUT : Field := ⟨.TOP_NOC_CONFIG, 15, 0, .rw, 64⟩
def F.TOP_NOC_ERROR.LAST_STOP : Field := ⟨.TOP_NOC_ERROR, 37, 32, .ro, 0⟩
def F.TOP_NOC_ERROR.SEAM_LOCK : Field := ⟨.TOP_NOC_ERROR, 6, 6, .w1c, 0⟩
def F.TOP_NOC_ERROR.BAD_KIND : Field := ⟨.TOP_NOC_ERROR, 5, 5, .w1c, 0⟩
def F.TOP_NOC_ERROR.RED_FORMAT : Field := ⟨.TOP_NOC_ERROR, 4, 4, .w1c, 0⟩
def F.TOP_NOC_ERROR.RED_TIMEOUT : Field := ⟨.TOP_NOC_ERROR, 3, 3, .w1c, 0⟩
def F.TOP_NOC_ERROR.RED_POISON : Field := ⟨.TOP_NOC_ERROR, 2, 2, .w1c, 0⟩
def F.TOP_NOC_ERROR.MC_EMPTY : Field := ⟨.TOP_NOC_ERROR, 1, 1, .w1c, 0⟩
def F.TOP_NOC_ERROR.DROP_FENCED : Field := ⟨.TOP_NOC_ERROR, 0, 0, .w1c, 0⟩
def F.TOP_NOC_DROP_COUNT.COUNT : Field := ⟨.TOP_NOC_DROP_COUNT, 31, 0, .rc, 0⟩
def F.TOP_SR_SEED.SEED : Field := ⟨.TOP_SR_SEED, 63, 0, .rw, 0⟩
def F.CORE_QNT_EVENTS.SATURATE : Field := ⟨.CORE_QNT_EVENTS, 63, 48, .rc, 0⟩
def F.CORE_QNT_EVENTS.NONFINITE : Field := ⟨.CORE_QNT_EVENTS, 47, 32, .rc, 0⟩
def F.CORE_QNT_EVENTS.DEGENERATE : Field := ⟨.CORE_QNT_EVENTS, 31, 16, .rc, 0⟩
def F.CORE_QNT_EVENTS.ZERO_BLOCK : Field := ⟨.CORE_QNT_EVENTS, 15, 0, .rc, 0⟩
def F.CORE_ARRAY_CONFIG.FILL_TIMEOUT : Field := ⟨.CORE_ARRAY_CONFIG, 23, 8, .rw, 64⟩
def F.CORE_ARRAY_CONFIG.ACC_MODE : Field := ⟨.CORE_ARRAY_CONFIG, 0, 0, .rw, 0⟩
def F.CORE_ARRAY_STATUS.ARRAY3 : Field := ⟨.CORE_ARRAY_STATUS, 63, 48, .ro, 0⟩
def F.CORE_ARRAY_STATUS.ARRAY2 : Field := ⟨.CORE_ARRAY_STATUS, 47, 32, .ro, 0⟩
def F.CORE_ARRAY_STATUS.ARRAY1 : Field := ⟨.CORE_ARRAY_STATUS, 31, 16, .ro, 0⟩
def F.CORE_ARRAY_STATUS.ARRAY0 : Field := ⟨.CORE_ARRAY_STATUS, 15, 0, .ro, 0⟩
def F.CORE_ARRAY_EVENTS.ACC_UNCORR : Field := ⟨.CORE_ARRAY_EVENTS, 63, 48, .rc, 0⟩
def F.CORE_ARRAY_EVENTS.BATCH_TIMEOUT : Field := ⟨.CORE_ARRAY_EVENTS, 47, 32, .rc, 0⟩
def F.CORE_ARRAY_EVENTS.BATCH_SHORT : Field := ⟨.CORE_ARRAY_EVENTS, 31, 16, .rc, 0⟩
def F.CORE_ARRAY_EVENTS.W_REUSE : Field := ⟨.CORE_ARRAY_EVENTS, 15, 0, .rc, 0⟩
def F.HIVE_COUNTER.LIMIT : Field := ⟨.HIVE_COUNTER, 63, 32, .rw, 0⟩
def F.HIVE_COUNTER.VALUE : Field := ⟨.HIVE_COUNTER, 31, 0, .rw, 0⟩
def F.CORE_SEQ_CTRL.ABORT : Field := ⟨.CORE_SEQ_CTRL, 2, 2, .wo, 0⟩
def F.CORE_SEQ_CTRL.HALT_REQ : Field := ⟨.CORE_SEQ_CTRL, 1, 1, .wo, 0⟩
def F.CORE_SEQ_CTRL.START : Field := ⟨.CORE_SEQ_CTRL, 0, 0, .wo, 0⟩
def F.CORE_SEQ_PC.ADDR : Field := ⟨.CORE_SEQ_PC, 63, 4, .rw, 0⟩
def F.CORE_SEQ_STATUS.HALT_CAUSE : Field := ⟨.CORE_SEQ_STATUS, 15, 8, .ro, 0⟩
def F.CORE_SEQ_STATUS.STATE : Field := ⟨.CORE_SEQ_STATUS, 1, 0, .ro, 0⟩
def F.CORE_SEQ_STEP.EPOCH : Field := ⟨.CORE_SEQ_STEP, 63, 32, .ro, 0⟩
def F.CORE_SEQ_STEP.STEP : Field := ⟨.CORE_SEQ_STEP, 31, 0, .rw, 0⟩
def F.CORE_TILE_REGS.HIGH : Field := ⟨.CORE_TILE_REGS, 63, 32, .rw, 0⟩
def F.CORE_TILE_REGS.LOW : Field := ⟨.CORE_TILE_REGS, 31, 0, .rw, 0⟩
def F.CORE_DESC_TABLE.BASE : Field := ⟨.CORE_DESC_TABLE, 63, 6, .rw, 0⟩
def F.CORE_CC.VALUE : Field := ⟨.CORE_CC, 31, 0, .rw, 0⟩
def F.CORE_ERROR_RECORD.VALID : Field := ⟨.CORE_ERROR_RECORD, 63, 63, .w1c, 0⟩
def F.CORE_ERROR_RECORD.KIND : Field := ⟨.CORE_ERROR_RECORD, 55, 48, .ro, 0⟩
def F.CORE_ERROR_RECORD.OPCODE : Field := ⟨.CORE_ERROR_RECORD, 47, 40, .ro, 0⟩
def F.CORE_ERROR_RECORD.SLOT : Field := ⟨.CORE_ERROR_RECORD, 39, 34, .ro, 0⟩
def F.CORE_ERROR_WHERE.LAYER : Field := ⟨.CORE_ERROR_WHERE, 63, 44, .ro, 0⟩
def F.CORE_ERROR_WHERE.OPER : Field := ⟨.CORE_ERROR_WHERE, 43, 32, .ro, 0⟩
def F.CORE_ERROR_WHERE.OVERFLOW : Field := ⟨.CORE_ERROR_WHERE, 15, 0, .ro, 0⟩
def F.CORE_ERROR_PC.PC : Field := ⟨.CORE_ERROR_PC, 63, 0, .ro, 0⟩
def F.CORE_SHAPE_EVENTS.SHAPE_CLAMPED : Field := ⟨.CORE_SHAPE_EVENTS, 63, 63, .w1c, 0⟩
def F.CORE_SHAPE_EVENTS.CLAMP_COUNT : Field := ⟨.CORE_SHAPE_EVENTS, 31, 16, .rc, 0⟩
def F.CORE_SHAPE_EVENTS.ZERO_SHAPE : Field := ⟨.CORE_SHAPE_EVENTS, 15, 0, .rc, 0⟩
def F.CORE_DROP_COUNT.LAST_BANK : Field := ⟨.CORE_DROP_COUNT, 55, 51, .ro, 0⟩
def F.CORE_DROP_COUNT.LAST_REQ : Field := ⟨.CORE_DROP_COUNT, 50, 48, .ro, 0⟩
def F.CORE_DROP_COUNT.READS : Field := ⟨.CORE_DROP_COUNT, 47, 32, .rc, 0⟩
def F.CORE_DROP_COUNT.WRITES : Field := ⟨.CORE_DROP_COUNT, 31, 0, .rc, 0⟩
def F.CORE_BANK_OWNER.CORE : Field := ⟨.CORE_BANK_OWNER, 10, 4, .rw, 0⟩
def F.CORE_BANK_OWNER.OWNER : Field := ⟨.CORE_BANK_OWNER, 2, 0, .rw, 1⟩
def F.CORE_SCOUT_EVENTS.MISSES : Field := ⟨.CORE_SCOUT_EVENTS, 63, 44, .rc, 0⟩
def F.CORE_SCOUT_EVENTS.FALSE_ALARMS : Field := ⟨.CORE_SCOUT_EVENTS, 43, 24, .rc, 0⟩
def F.CORE_SCOUT_EVENTS.CHECK_PASSES : Field := ⟨.CORE_SCOUT_EVENTS, 23, 8, .rc, 0⟩
def F.CORE_SCOUT_SKIP.SKIPPED : Field := ⟨.CORE_SCOUT_SKIP, 63, 32, .rc, 0⟩
def F.CORE_SCOUT_SKIP.LISTED : Field := ⟨.CORE_SCOUT_SKIP, 31, 0, .rc, 0⟩
def F.MOW_STATUS.LAST_EPOCH : Field := ⟨.MOW_STATUS, 63, 32, .ro, 0⟩
def F.MOW_STATUS.QUEUED : Field := ⟨.MOW_STATUS, 23, 16, .ro, 0⟩
def F.MOW_STATUS.LAST_OP : Field := ⟨.MOW_STATUS, 9, 8, .ro, 0⟩
def F.MOW_STATUS.LAST_POS : Field := ⟨.MOW_STATUS, 6, 4, .ro, 0⟩
def F.MOW_STATUS.BUSY : Field := ⟨.MOW_STATUS, 0, 0, .ro, 0⟩
def F.MOW_EVENTS.CONFORM : Field := ⟨.MOW_EVENTS, 63, 32, .rc, 0⟩
def F.MOW_EVENTS.NONFINITE : Field := ⟨.MOW_EVENTS, 31, 16, .rc, 0⟩
def F.MOW_EVENTS.PAD : Field := ⟨.MOW_EVENTS, 15, 8, .rc, 0⟩
def F.MOW_EVENTS.LIST_DROP : Field := ⟨.MOW_EVENTS, 7, 0, .rc, 0⟩
def F.CORE_INDEX_EVENTS.COALESCED : Field := ⟨.CORE_INDEX_EVENTS, 63, 32, .rc, 0⟩
def F.CORE_INDEX_EVENTS.OOR_READ : Field := ⟨.CORE_INDEX_EVENTS, 31, 16, .rc, 0⟩
def F.CORE_INDEX_EVENTS.OOR_WRITE : Field := ⟨.CORE_INDEX_EVENTS, 15, 0, .rc, 0⟩
def F.ANT_SPILL_BASE.BASE : Field := ⟨.ANT_SPILL_BASE, 40, 6, .rw, 0⟩
def F.ANT_SPILL_LIMIT.LIMIT : Field := ⟨.ANT_SPILL_LIMIT, 31, 0, .rw, 0⟩
def F.ANT_SORT_BASE.BASE : Field := ⟨.ANT_SORT_BASE, 40, 6, .rw, 0⟩
def F.ANT_STATUS.FILL : Field := ⟨.ANT_STATUS, 63, 32, .ro, 0⟩
def F.ANT_STATUS.LOST_CTX : Field := ⟨.ANT_STATUS, 31, 24, .ro, 0⟩
def F.ANT_STATUS.DRAIN_CTX : Field := ⟨.ANT_STATUS, 23, 16, .ro, 0⟩
def F.ANT_STATUS.DRAINING : Field := ⟨.ANT_STATUS, 2, 2, .ro, 0⟩
def F.ANT_STATUS.SPILL_LOST : Field := ⟨.ANT_STATUS, 1, 1, .w1c, 0⟩
def F.ANT_STATUS.BUSY : Field := ⟨.ANT_STATUS, 0, 0, .ro, 0⟩
def F.ANT_EVENTS.SPILLS : Field := ⟨.ANT_EVENTS, 63, 32, .rc, 0⟩
def F.ANT_EVENTS.LOST : Field := ⟨.ANT_EVENTS, 31, 16, .rc, 0⟩
def F.ANT_EVENTS.DRAINS : Field := ⟨.ANT_EVENTS, 15, 0, .rc, 0⟩
def F.RAKE_RING_BASE.BASE : Field := ⟨.RAKE_RING_BASE, 40, 6, .rw, 0⟩
def F.RAKE_RING_SIZE.LOG2 : Field := ⟨.RAKE_RING_SIZE, 4, 0, .rw, 4⟩
def F.RAKE_RING_PTRS.HEAD : Field := ⟨.RAKE_RING_PTRS, 63, 32, .ro, 0⟩
def F.RAKE_RING_PTRS.TAIL : Field := ⟨.RAKE_RING_PTRS, 31, 0, .rw, 0⟩
def F.RAKE_CONFIG.NF_POLICY : Field := ⟨.RAKE_CONFIG, 5, 4, .rw, 0⟩
def F.RAKE_CONFIG.MISMATCH : Field := ⟨.RAKE_CONFIG, 1, 1, .rw, 0⟩
def F.RAKE_LOSS_PTR.PTR : Field := ⟨.RAKE_LOSS_PTR, 40, 5, .rw, 0⟩
def F.RAKE_STATUS.LAST_STEP : Field := ⟨.RAKE_STATUS, 63, 32, .ro, 0⟩
def F.RAKE_STATUS.LAST_STATUS : Field := ⟨.RAKE_STATUS, 31, 24, .ro, 0⟩
def F.RAKE_STATUS.UNITS_BUSY : Field := ⟨.RAKE_STATUS, 13, 8, .ro, 0⟩
def F.RAKE_STATUS.DRAINING : Field := ⟨.RAKE_STATUS, 1, 1, .ro, 0⟩
def F.RAKE_STATUS.BUSY : Field := ⟨.RAKE_STATUS, 0, 0, .ro, 0⟩
def F.RAKE_CTRL.RESUME : Field := ⟨.RAKE_CTRL, 2, 2, .wo, 0⟩
def F.RAKE_CTRL.ABORT : Field := ⟨.RAKE_CTRL, 1, 1, .wo, 0⟩
def F.RAKE_CTRL.DRAIN : Field := ⟨.RAKE_CTRL, 0, 0, .wo, 0⟩
def F.RAKE_EVENTS.UPDATES : Field := ⟨.RAKE_EVENTS, 63, 32, .rc, 0⟩
def F.RAKE_EVENTS.SKIPS : Field := ⟨.RAKE_EVENTS, 31, 24, .rc, 0⟩
def F.RAKE_EVENTS.ZEROED : Field := ⟨.RAKE_EVENTS, 23, 16, .rc, 0⟩
def F.RAKE_EVENTS.ERRORS : Field := ⟨.RAKE_EVENTS, 15, 8, .rc, 0⟩
def F.RAKE_EVENTS.NONFINITE : Field := ⟨.RAKE_EVENTS, 7, 4, .rc, 0⟩
def F.RAKE_EVENTS.NOT_COMPARED : Field := ⟨.RAKE_EVENTS, 3, 0, .rc, 0⟩
def F.RAKE_MISMATCH.VALID : Field := ⟨.RAKE_MISMATCH, 63, 63, .w1c, 0⟩
def F.RAKE_MISMATCH.DEVICE : Field := ⟨.RAKE_MISMATCH, 46, 32, .ro, 0⟩
def F.RAKE_MISMATCH.SHARD_ID : Field := ⟨.RAKE_MISMATCH, 31, 0, .ro, 0⟩
def F.RAKE_MISMATCH_STEP.STEP : Field := ⟨.RAKE_MISMATCH_STEP, 31, 0, .ro, 0⟩
def F.CORE_SHADOW_CONFIG.FLOOR : Field := ⟨.CORE_SHADOW_CONFIG, 63, 32, .rw, 864026624⟩
def F.CORE_SHADOW_CONFIG.RATE_LOG2 : Field := ⟨.CORE_SHADOW_CONFIG, 12, 8, .rw, 10⟩
def F.CORE_SHADOW_CONFIG.ENABLE : Field := ⟨.CORE_SHADOW_CONFIG, 0, 0, .rw, 0⟩
def F.CORE_SHADOW_HIST.BASE : Field := ⟨.CORE_SHADOW_HIST, 40, 6, .rw, 0⟩
def F.CORE_SHADOW_LAYERS.LAYER_COUNT : Field := ⟨.CORE_SHADOW_LAYERS, 51, 32, .rw, 0⟩
def F.CORE_SHADOW_LAYERS.LAYER_FIRST : Field := ⟨.CORE_SHADOW_LAYERS, 19, 0, .rw, 0⟩
def F.CORE_SHADOW_EVENTS.TILES : Field := ⟨.CORE_SHADOW_EVENTS, 63, 32, .rc, 0⟩
def F.CORE_SHADOW_EVENTS.OUT_OF_RANGE : Field := ⟨.CORE_SHADOW_EVENTS, 31, 0, .rc, 0⟩
def F.MEM_CH_CONFIG.CE_THRESHOLD : Field := ⟨.MEM_CH_CONFIG, 31, 16, .rw, 256⟩
def F.MEM_CH_CONFIG.ERASE_EN1 : Field := ⟨.MEM_CH_CONFIG, 12, 12, .rw, 0⟩
def F.MEM_CH_CONFIG.ERASE_PIN1 : Field := ⟨.MEM_CH_CONFIG, 11, 8, .rw, 0⟩
def F.MEM_CH_CONFIG.ERASE_EN0 : Field := ⟨.MEM_CH_CONFIG, 4, 4, .rw, 0⟩
def F.MEM_CH_CONFIG.ERASE_PIN0 : Field := ⟨.MEM_CH_CONFIG, 3, 0, .rw, 0⟩
def F.MEM_CH_STATUS.TRAIN_CODE : Field := ⟨.MEM_CH_STATUS, 15, 8, .ro, 0⟩
def F.MEM_CH_STATUS.CE_ALERT : Field := ⟨.MEM_CH_STATUS, 3, 3, .w1c, 0⟩
def F.MEM_CH_STATUS.SELF_REFRESH : Field := ⟨.MEM_CH_STATUS, 2, 2, .ro, 0⟩
def F.MEM_CH_STATUS.FAILED : Field := ⟨.MEM_CH_STATUS, 1, 1, .ro, 0⟩
def F.MEM_CH_STATUS.USABLE : Field := ⟨.MEM_CH_STATUS, 0, 0, .ro, 0⟩
def F.MEM_CH_ERR_COUNT.CORRECTED : Field := ⟨.MEM_CH_ERR_COUNT, 63, 32, .rc, 0⟩
def F.MEM_CH_ERR_COUNT.UNCORRECTED : Field := ⟨.MEM_CH_ERR_COUNT, 31, 16, .rc, 0⟩
def F.MEM_CH_ERR_COUNT.POISON : Field := ⟨.MEM_CH_ERR_COUNT, 15, 0, .rc, 0⟩
def F.MEM_CH_UE_LOG.VALID : Field := ⟨.MEM_CH_UE_LOG, 63, 63, .w1c, 0⟩
def F.MEM_CH_UE_LOG.ORIGIN : Field := ⟨.MEM_CH_UE_LOG, 62, 62, .ro, 0⟩
def F.MEM_CH_UE_LOG.GRANULE : Field := ⟨.MEM_CH_UE_LOG, 35, 0, .ro, 0⟩
def F.MEM_CH_CE_LOG.VALID : Field := ⟨.MEM_CH_CE_LOG, 63, 63, .w1c, 0⟩
def F.MEM_CH_CE_LOG.ORIGIN : Field := ⟨.MEM_CH_CE_LOG, 62, 62, .ro, 0⟩
def F.MEM_CH_CE_LOG.SYM1 : Field := ⟨.MEM_CH_CE_LOG, 55, 50, .ro, 0⟩
def F.MEM_CH_CE_LOG.SYM0 : Field := ⟨.MEM_CH_CE_LOG, 49, 44, .ro, 0⟩
def F.MEM_CH_CE_LOG.GRANULE : Field := ⟨.MEM_CH_CE_LOG, 35, 0, .ro, 0⟩
def F.MEM_TRAIN_STATUS.FAILED : Field := ⟨.MEM_TRAIN_STATUS, 63, 0, .ro, 0⟩
def F.MEM_SCRUB_CTRL.PERIOD : Field := ⟨.MEM_SCRUB_CTRL, 7, 0, .rw, 0⟩
def F.MEM_SCRUB_STATUS.PASSES : Field := ⟨.MEM_SCRUB_STATUS, 63, 32, .ro, 0⟩
def F.MEM_SCRUB_STATUS.PROGRESS : Field := ⟨.MEM_SCRUB_STATUS, 15, 0, .ro, 0⟩
def F.MEM_MAP_EVENTS.COUNT : Field := ⟨.MEM_MAP_EVENTS, 63, 48, .rc, 0⟩
def F.MEM_MAP_EVENTS.LAST : Field := ⟨.MEM_MAP_EVENTS, 40, 5, .ro, 0⟩
def F.MEM_FILL_BASE.BASE : Field := ⟨.MEM_FILL_BASE, 40, 5, .rw, 0⟩
def F.MEM_FILL_CTRL.GO : Field := ⟨.MEM_FILL_CTRL, 63, 63, .wo, 0⟩
def F.MEM_FILL_CTRL.BUSY : Field := ⟨.MEM_FILL_CTRL, 62, 62, .ro, 0⟩
def F.MEM_FILL_CTRL.LEN : Field := ⟨.MEM_FILL_CTRL, 35, 0, .rw, 0⟩
def F.FAB_CONFIG.RED_TIMEOUT : Field := ⟨.FAB_CONFIG, 31, 16, .rw, 50000⟩
def F.FAB_CONFIG.HOST_REMOTE : Field := ⟨.FAB_CONFIG, 3, 3, .rw, 0⟩
def F.FAB_CONFIG.REG_REMOTE : Field := ⟨.FAB_CONFIG, 2, 2, .rw, 0⟩
def F.FAB_CONFIG.LANES : Field := ⟨.FAB_CONFIG, 0, 0, .rw, 0⟩
def F.FAB_CLASS_WEIGHTS.TC3 : Field := ⟨.FAB_CLASS_WEIGHTS, 23, 16, .rw, 2⟩
def F.FAB_CLASS_WEIGHTS.TC2 : Field := ⟨.FAB_CLASS_WEIGHTS, 15, 8, .rw, 4⟩
def F.FAB_CLASS_WEIGHTS.TC1 : Field := ⟨.FAB_CLASS_WEIGHTS, 7, 0, .rw, 8⟩
def F.FAB_LAYOUT.EPOCH : Field := ⟨.FAB_LAYOUT, 31, 0, .rw, 0⟩
def F.FAB_ERROR.LAST_STATUS : Field := ⟨.FAB_ERROR, 55, 48, .ro, 0⟩
def F.FAB_ERROR.LAST_LINK : Field := ⟨.FAB_ERROR, 47, 42, .ro, 0⟩
def F.FAB_ERROR.SIG_DROP : Field := ⟨.FAB_ERROR, 13, 13, .w1c, 0⟩
def F.FAB_ERROR.BAD_ADDR : Field := ⟨.FAB_ERROR, 12, 12, .w1c, 0⟩
def F.FAB_ERROR.REMOTE_STATUS : Field := ⟨.FAB_ERROR, 11, 11, .w1c, 0⟩
def F.FAB_ERROR.EPOCH : Field := ⟨.FAB_ERROR, 10, 10, .w1c, 0⟩
def F.FAB_ERROR.RED_COUNT : Field := ⟨.FAB_ERROR, 9, 9, .w1c, 0⟩
def F.FAB_ERROR.TREE_MISS : Field := ⟨.FAB_ERROR, 8, 8, .w1c, 0⟩
def F.FAB_ERROR.RED_POISON : Field := ⟨.FAB_ERROR, 7, 7, .w1c, 0⟩
def F.FAB_ERROR.RED_TIMEOUT : Field := ⟨.FAB_ERROR, 6, 6, .w1c, 0⟩
def F.FAB_ERROR.RED_MISMATCH : Field := ⟨.FAB_ERROR, 5, 5, .w1c, 0⟩
def F.FAB_ERROR.HOP_LIMIT : Field := ⟨.FAB_ERROR, 4, 4, .w1c, 0⟩
def F.FAB_ERROR.UNREACHABLE : Field := ⟨.FAB_ERROR, 3, 3, .w1c, 0⟩
def F.FAB_ERROR.BAD_OP : Field := ⟨.FAB_ERROR, 2, 2, .w1c, 0⟩
def F.FAB_ERROR.LINK_LOST : Field := ⟨.FAB_ERROR, 1, 1, .w1c, 0⟩
def F.FAB_ERROR.MISWIRED : Field := ⟨.FAB_ERROR, 0, 0, .w1c, 0⟩
def F.FAB_DROP_COUNT.COUNT : Field := ⟨.FAB_DROP_COUNT, 31, 0, .rc, 0⟩
def F.FAB_TIME_CONFIG.GM : Field := ⟨.FAB_TIME_CONFIG, 46, 32, .rw, 0⟩
def F.FAB_TIME_CONFIG.PERIOD_US : Field := ⟨.FAB_TIME_CONFIG, 15, 0, .rw, 10⟩
def F.FAB_TIME_STATUS.OFFSET : Field := ⟨.FAB_TIME_STATUS, 63, 32, .ro, 0⟩
def F.FAB_TIME_STATUS.TRIM : Field := ⟨.FAB_TIME_STATUS, 31, 16, .ro, 0⟩
def F.FAB_TIME_STATUS.LOCKED : Field := ⟨.FAB_TIME_STATUS, 15, 15, .ro, 0⟩
def F.FAB_TIME_STATUS.HOLDOVER : Field := ⟨.FAB_TIME_STATUS, 14, 14, .ro, 0⟩
def F.FAB_TIME_STATUS.STRATUM : Field := ⟨.FAB_TIME_STATUS, 13, 8, .ro, 63⟩
def F.FAB_TIME_STATUS.PARENT : Field := ⟨.FAB_TIME_STATUS, 5, 0, .ro, 0⟩
def F.FAB_ROUTE_DEV.VALID : Field := ⟨.FAB_ROUTE_DEV, 31, 31, .rw, 0⟩
def F.FAB_ROUTE_DEV.ALT_V : Field := ⟨.FAB_ROUTE_DEV, 30, 30, .rw, 0⟩
def F.FAB_ROUTE_DEV.LINK : Field := ⟨.FAB_ROUTE_DEV, 29, 24, .rw, 0⟩
def F.FAB_ROUTE_DEV.ALT_LINK : Field := ⟨.FAB_ROUTE_DEV, 23, 18, .rw, 0⟩
def F.FAB_ROUTE_DEV.ALT_VIA : Field := ⟨.FAB_ROUTE_DEV, 14, 0, .rw, 0⟩
def F.FAB_TREE.VALID : Field := ⟨.FAB_TREE, 63, 63, .rw, 0⟩
def F.FAB_TREE.KIND : Field := ⟨.FAB_TREE, 62, 62, .rw, 0⟩
def F.FAB_TREE.LOCAL : Field := ⟨.FAB_TREE, 61, 61, .rw, 0⟩
def F.FAB_TREE.OUT : Field := ⟨.FAB_TREE, 60, 54, .rw, 0⟩
def F.FAB_TREE.DEPTH : Field := ⟨.FAB_TREE, 53, 50, .rw, 0⟩
def F.FAB_TREE.TAG : Field := ⟨.FAB_TREE, 49, 34, .rw, 0⟩
def F.FAB_TREE.EXPECT_M1 : Field := ⟨.FAB_TREE, 32, 18, .rw, 0⟩
def F.FAB_TREE.SIG : Field := ⟨.FAB_TREE, 17, 17, .rw, 0⟩
def F.FAB_TREE.CORE : Field := ⟨.FAB_TREE, 16, 10, .rw, 0⟩
def F.FAB_TREE.CC : Field := ⟨.FAB_TREE, 9, 6, .rw, 0⟩
def F.FAB_TREE_LINKS.LINKS : Field := ⟨.FAB_TREE_LINKS, 63, 0, .rw, 0⟩
def F.FAB_LINK_CTRL.RETRAIN : Field := ⟨.FAB_LINK_CTRL, 1, 1, .wo, 0⟩
def F.FAB_LINK_CTRL.ENABLE : Field := ⟨.FAB_LINK_CTRL, 0, 0, .rw, 1⟩
def F.FAB_LINK_STATUS.PEER_DEV : Field := ⟨.FAB_LINK_STATUS, 63, 49, .ro, 0⟩
def F.FAB_LINK_STATUS.PEER_LINK : Field := ⟨.FAB_LINK_STATUS, 48, 43, .ro, 0⟩
def F.FAB_LINK_STATUS.TC0_OVER : Field := ⟨.FAB_LINK_STATUS, 10, 10, .w1c, 0⟩
def F.FAB_LINK_STATUS.DEGRADED : Field := ⟨.FAB_LINK_STATUS, 9, 9, .ro, 0⟩
def F.FAB_LINK_STATUS.STATE : Field := ⟨.FAB_LINK_STATUS, 2, 0, .ro, 0⟩
def F.FAB_LINK_ERR_COUNT.CRC : Field := ⟨.FAB_LINK_ERR_COUNT, 63, 40, .rc, 0⟩
def F.FAB_LINK_ERR_COUNT.REPLAYS : Field := ⟨.FAB_LINK_ERR_COUNT, 39, 24, .rc, 0⟩
def F.FAB_LINK_ERR_COUNT.RETRAINS : Field := ⟨.FAB_LINK_ERR_COUNT, 23, 16, .rc, 0⟩
def F.FAB_LINK_ERR_COUNT.LOST : Field := ⟨.FAB_LINK_ERR_COUNT, 15, 0, .rc, 0⟩
def F.FAB_LINK_FEC.CORRECTED : Field := ⟨.FAB_LINK_FEC, 63, 32, .rc, 0⟩
def F.FAB_LINK_FEC.UNCORRECTABLE : Field := ⟨.FAB_LINK_FEC, 31, 0, .rc, 0⟩
def F.FAB_COLL_CONFIG.PF_DELAY : Field := ⟨.FAB_COLL_CONFIG, 31, 16, .rw, 1024⟩
def F.FAB_COLL_CONFIG.WINDOW : Field := ⟨.FAB_COLL_CONFIG, 15, 8, .rw, 64⟩
def F.FAB_COLL_CONFIG.WAIT_POLICY : Field := ⟨.FAB_COLL_CONFIG, 0, 0, .rw, 0⟩
def F.FAB_COLL_STATUS.LAST_STATUS : Field := ⟨.FAB_COLL_STATUS, 39, 32, .ro, 0⟩
def F.FAB_COLL_STATUS.ACTIVE : Field := ⟨.FAB_COLL_STATUS, 11, 8, .ro, 0⟩
def F.FAB_COLL_STATUS.PERMUTING : Field := ⟨.FAB_COLL_STATUS, 1, 1, .ro, 0⟩
def F.FAB_COLL_STATUS.BUSY : Field := ⟨.FAB_COLL_STATUS, 0, 0, .ro, 0⟩
def F.FAB_COLL_EVENTS.COMPLETED : Field := ⟨.FAB_COLL_EVENTS, 63, 32, .rc, 0⟩
def F.FAB_COLL_EVENTS.NONFINITE : Field := ⟨.FAB_COLL_EVENTS, 31, 16, .rc, 0⟩
def F.FAB_COLL_EVENTS.ERRORS : Field := ⟨.FAB_COLL_EVENTS, 15, 0, .rc, 0⟩
def F.FAB_POLL_EVENTS.GRANTED : Field := ⟨.FAB_POLL_EVENTS, 63, 32, .rc, 0⟩
def F.FAB_POLL_EVENTS.NEXT : Field := ⟨.FAB_POLL_EVENTS, 31, 16, .rc, 0⟩
def F.FAB_POLL_EVENTS.DROPPED : Field := ⟨.FAB_POLL_EVENTS, 15, 0, .rc, 0⟩
def F.CORE_COLL_WAIT.VALID : Field := ⟨.CORE_COLL_WAIT, 63, 63, .ro, 0⟩
def F.CORE_COLL_WAIT.KIND : Field := ⟨.CORE_COLL_WAIT, 62, 60, .ro, 0⟩
def F.CORE_COLL_WAIT.PEER_V : Field := ⟨.CORE_COLL_WAIT, 59, 59, .ro, 0⟩
def F.CORE_COLL_WAIT.PEER : Field := ⟨.CORE_COLL_WAIT, 58, 44, .ro, 0⟩
def F.CORE_COLL_WAIT.TAG : Field := ⟨.CORE_COLL_WAIT, 43, 28, .ro, 0⟩
def F.RST_CMD.KEY : Field := ⟨.RST_CMD, 63, 48, .wo, 0⟩
def F.RST_CMD.CORE : Field := ⟨.RST_CMD, 14, 8, .wo, 0⟩
def F.RST_CMD.KIND : Field := ⟨.RST_CMD, 1, 0, .wo, 0⟩
def F.HST_PCIE_STATUS.DOWNTRAINED : Field := ⟨.HST_PCIE_STATUS, 8, 8, .ro, 0⟩
def F.HST_PCIE_STATUS.FLIT : Field := ⟨.HST_PCIE_STATUS, 7, 7, .ro, 0⟩
def F.HST_PCIE_STATUS.WIDTH : Field := ⟨.HST_PCIE_STATUS, 6, 4, .ro, 0⟩
def F.HST_PCIE_STATUS.RATE : Field := ⟨.HST_PCIE_STATUS, 3, 0, .ro, 0⟩
def F.HST_IRQ_CAUSE.CAUSE : Field := ⟨.HST_IRQ_CAUSE, 4, 0, .w1c, 0⟩
def F.HST_IRQ_ENABLE.CAUSE : Field := ⟨.HST_IRQ_ENABLE, 4, 0, .rw, 31⟩
def F.HST_SITE_CAUSE.SITE : Field := ⟨.HST_SITE_CAUSE, 63, 0, .w1c, 0⟩
def F.HST_ERROR.LAST_RING : Field := ⟨.HST_ERROR, 11, 8, .ro, 0⟩
def F.HST_ERROR.MASK_IGNORED : Field := ⟨.HST_ERROR, 3, 3, .w1c, 0⟩
def F.HST_ERROR.HOST_ERR : Field := ⟨.HST_ERROR, 2, 2, .w1c, 0⟩
def F.HST_ERROR.WIN_MISS : Field := ⟨.HST_ERROR, 1, 1, .w1c, 0⟩
def F.HST_ERROR.BAD_KEY : Field := ⟨.HST_ERROR, 0, 0, .w1c, 0⟩
def F.HST_WIN_BASE.BASE : Field := ⟨.HST_WIN_BASE, 63, 12, .rw, 0⟩
def F.HST_WIN_SIZE.ENABLE : Field := ⟨.HST_WIN_SIZE, 8, 8, .rw, 0⟩
def F.HST_WIN_SIZE.LOG2 : Field := ⟨.HST_WIN_SIZE, 5, 0, .rw, 12⟩
def F.HST_PTM_CTRL.FOLLOW : Field := ⟨.HST_PTM_CTRL, 17, 17, .rw, 0⟩
def F.HST_PTM_CTRL.ENABLE : Field := ⟨.HST_PTM_CTRL, 16, 16, .rw, 0⟩
def F.HST_PTM_CTRL.INTERVAL : Field := ⟨.HST_PTM_CTRL, 15, 0, .rw, 10⟩
def F.HST_PTM_STATUS.HOST_TIME : Field := ⟨.HST_PTM_STATUS, 63, 0, .ro, 0⟩
def F.HST_PTM_OFFSET.OFFSET : Field := ⟨.HST_PTM_OFFSET, 63, 0, .ro, 0⟩
def F.HST_RING_BASE.BASE : Field := ⟨.HST_RING_BASE, 63, 12, .rw, 0⟩
def F.HST_RING_BASE.LOG2 : Field := ⟨.HST_RING_BASE, 4, 0, .rw, 4⟩
def F.HST_CQ_BASE.BASE : Field := ⟨.HST_CQ_BASE, 63, 12, .rw, 0⟩
def F.HST_CQ_BASE.LOG2 : Field := ⟨.HST_CQ_BASE, 4, 0, .rw, 4⟩
def F.HST_RING_PTRS.HEAD : Field := ⟨.HST_RING_PTRS, 63, 32, .ro, 0⟩
def F.HST_RING_PTRS.TAIL : Field := ⟨.HST_RING_PTRS, 31, 0, .rw, 0⟩
def F.HST_CQ_PTRS.TAIL : Field := ⟨.HST_CQ_PTRS, 63, 32, .ro, 0⟩
def F.HST_CQ_PTRS.HEAD : Field := ⟨.HST_CQ_PTRS, 31, 0, .rw, 0⟩
def F.HST_RING_CTRL.CQ_TIME : Field := ⟨.HST_RING_CTRL, 63, 48, .rw, 4⟩
def F.HST_RING_CTRL.CQ_COUNT : Field := ⟨.HST_RING_CTRL, 47, 40, .rw, 1⟩
def F.HST_RING_CTRL.LAST_STATUS : Field := ⟨.HST_RING_CTRL, 39, 32, .ro, 0⟩
def F.HST_RING_CTRL.BUSY : Field := ⟨.HST_RING_CTRL, 3, 3, .ro, 0⟩
def F.HST_RING_CTRL.ABORT : Field := ⟨.HST_RING_CTRL, 2, 2, .wo, 0⟩
def F.HST_RING_CTRL.DRAIN : Field := ⟨.HST_RING_CTRL, 1, 1, .wo, 0⟩
def F.HST_RING_CTRL.ENABLE : Field := ⟨.HST_RING_CTRL, 0, 0, .rw, 0⟩
def F.RST_STRAPS.BAD : Field := ⟨.RST_STRAPS, 8, 8, .ro, 0⟩
def F.RST_STRAPS.CLK_MODE : Field := ⟨.RST_STRAPS, 3, 2, .ro, 0⟩
def F.RST_STRAPS.BOOT_SRC : Field := ⟨.RST_STRAPS, 1, 0, .ro, 0⟩
def F.RST_CAUSE.SOURCE : Field := ⟨.RST_CAUSE, 31, 28, .ro, 1⟩
def F.RST_CAUSE.KIND : Field := ⟨.RST_CAUSE, 25, 24, .ro, 0⟩
def F.RST_CAUSE.CORE : Field := ⟨.RST_CAUSE, 22, 16, .ro, 0⟩
def F.RST_CAUSE.PHASE : Field := ⟨.RST_CAUSE, 11, 8, .ro, 9⟩
def F.RST_CAUSE.LINES_LOST : Field := ⟨.RST_CAUSE, 1, 1, .ro, 0⟩
def F.RST_CAUSE.OPT_RESTART : Field := ⟨.RST_CAUSE, 0, 0, .ro, 0⟩
def F.RST_PHASE.FAIL : Field := ⟨.RST_PHASE, 15, 8, .ro, 0⟩
def F.RST_PHASE.HELD : Field := ⟨.RST_PHASE, 5, 5, .ro, 0⟩
def F.RST_PHASE.WAIT_HOST : Field := ⟨.RST_PHASE, 4, 4, .ro, 0⟩
def F.RST_PHASE.PHASE : Field := ⟨.RST_PHASE, 3, 0, .ro, 1⟩
def F.RST_CTRL.PERST_KIND : Field := ⟨.RST_CTRL, 0, 0, .rw, 0⟩
def F.RST_SWEEP.ANT_WAYS_OFF : Field := ⟨.RST_SWEEP, 23, 16, .ro, 0⟩
def F.RST_SWEEP.LLC_WAYS_OFF : Field := ⟨.RST_SWEEP, 15, 8, .ro, 0⟩
def F.RST_SWEEP.SITES_FENCED : Field := ⟨.RST_SWEEP, 7, 0, .ro, 0⟩
def F.OPT_STATUS.CRC_READ : Field := ⟨.OPT_STATUS, 63, 32, .ro, 0⟩
def F.OPT_STATUS.STAGE : Field := ⟨.OPT_STATUS, 9, 8, .ro, 0⟩
def F.OPT_STATUS.FIXED : Field := ⟨.OPT_STATUS, 1, 1, .ro, 0⟩
def F.OPT_STATUS.DEFAULTED : Field := ⟨.OPT_STATUS, 0, 0, .ro, 0⟩
def F.OPT_CTRL.KEY : Field := ⟨.OPT_CTRL, 63, 48, .wo, 0⟩
def F.OPT_CTRL.COMMIT : Field := ⟨.OPT_CTRL, 0, 0, .wo, 0⟩
def F.OPT_IMAGE.DATA : Field := ⟨.OPT_IMAGE, 63, 0, .ro, 0⟩
def F.OPT_STAGE.DATA : Field := ⟨.OPT_STAGE, 63, 0, .rw, 0⟩
def F.PWR_CAP_LIMIT.WATTS : Field := ⟨.PWR_CAP_LIMIT, 9, 0, .rw, 0⟩
def F.PWR_FREQ_CTRL.MODE : Field := ⟨.PWR_FREQ_CTRL, 32, 32, .rw, 0⟩
def F.PWR_FREQ_CTRL.LIMIT_MHZ : Field := ⟨.PWR_FREQ_CTRL, 31, 16, .rw, 1950⟩
def F.PWR_FREQ_CTRL.FIXED_MHZ : Field := ⟨.PWR_FREQ_CTRL, 15, 0, .rw, 1700⟩
def F.PWR_STATUS.CEILING_MHZ : Field := ⟨.PWR_STATUS, 63, 48, .ro, 1700⟩
def F.PWR_STATUS.MEASURED : Field := ⟨.PWR_STATUS, 47, 47, .ro, 0⟩
def F.PWR_STATUS.INPUT_W : Field := ⟨.PWR_STATUS, 41, 32, .ro, 0⟩
def F.PWR_STATUS.EST_W : Field := ⟨.PWR_STATUS, 25, 16, .ro, 0⟩
def F.PWR_STATUS.HOT_MAX : Field := ⟨.PWR_STATUS, 15, 8, .ro, 0⟩
def F.PWR_STATUS.THROTTLED : Field := ⟨.PWR_STATUS, 0, 0, .ro, 0⟩
def F.PWR_EVENT.AGE_SITE : Field := ⟨.PWR_EVENT, 23, 16, .ro, 0⟩
def F.PWR_EVENT.TELEMETRY_LOST : Field := ⟨.PWR_EVENT, 9, 9, .w1c, 0⟩
def F.PWR_EVENT.MEM_HOT : Field := ⟨.PWR_EVENT, 8, 8, .w1c, 0⟩
def F.PWR_EVENT.AGE_LIMIT : Field := ⟨.PWR_EVENT, 7, 7, .w1c, 0⟩
def F.PWR_EVENT.INPUT_LOW : Field := ⟨.PWR_EVENT, 6, 6, .w1c, 0⟩
def F.PWR_EVENT.OVER_ENVELOPE : Field := ⟨.PWR_EVENT, 5, 5, .w1c, 0⟩
def F.PWR_EVENT.ESTIMATE_MISMATCH : Field := ⟨.PWR_EVENT, 4, 4, .w1c, 0⟩
def F.PWR_EVENT.THROTTLE_THERMAL : Field := ⟨.PWR_EVENT, 3, 3, .w1c, 0⟩
def F.PWR_EVENT.THROTTLE_CAP : Field := ⟨.PWR_EVENT, 2, 2, .w1c, 0⟩
def F.PWR_MISMATCH_LOG.VALID : Field := ⟨.PWR_MISMATCH_LOG, 63, 63, .w1c, 0⟩
def F.PWR_MISMATCH_LOG.WINDOW_END : Field := ⟨.PWR_MISMATCH_LOG, 62, 32, .ro, 0⟩
def F.PWR_MISMATCH_LOG.EST : Field := ⟨.PWR_MISMATCH_LOG, 31, 16, .ro, 0⟩
def F.PWR_MISMATCH_LOG.MEAS : Field := ⟨.PWR_MISMATCH_LOG, 15, 0, .ro, 0⟩
def F.PWR_DROOP_CONFIG.HOLD_CYCLES : Field := ⟨.PWR_DROOP_CONFIG, 15, 8, .rw, 32⟩
def F.PWR_DROOP_CONFIG.THRESH_MV : Field := ⟨.PWR_DROOP_CONFIG, 7, 0, .rw, 40⟩
def F.PWR_HB_CONFIG.COLLECTOR : Field := ⟨.PWR_HB_CONFIG, 46, 32, .rw, 0⟩
def F.PWR_HB_CONFIG.COLLECTOR_V : Field := ⟨.PWR_HB_CONFIG, 2, 2, .rw, 0⟩
def F.PWR_HB_CONFIG.COLLECT : Field := ⟨.PWR_HB_CONFIG, 1, 1, .rw, 0⟩
def F.PWR_HB_CONFIG.ENABLE : Field := ⟨.PWR_HB_CONFIG, 0, 0, .rw, 1⟩
def F.PWR_HB_TABLE.BASE : Field := ⟨.PWR_HB_TABLE, 40, 5, .rw, 0⟩
def F.PWR_SENSOR.PEAK : Field := ⟨.PWR_SENSOR, 31, 16, .rc, 0⟩
def F.PWR_SENSOR.TEMP : Field := ⟨.PWR_SENSOR, 15, 0, .ro, 0⟩
def F.PWR_HB_PEER.CEILING_MHZ : Field := ⟨.PWR_HB_PEER, 63, 48, .ro, 0⟩
def F.PWR_HB_PEER.HOT_MAX : Field := ⟨.PWR_HB_PEER, 47, 40, .ro, 0⟩
def F.PWR_HB_PEER.FLAGS : Field := ⟨.PWR_HB_PEER, 39, 32, .ro, 0⟩
def F.PWR_HB_PEER.SEQ : Field := ⟨.PWR_HB_PEER, 31, 0, .ro, 0⟩
def F.CORE_PWR_STATUS.FMAX_MHZ : Field := ⟨.CORE_PWR_STATUS, 63, 48, .ro, 0⟩
def F.CORE_PWR_STATUS.AGED_MAX_MHZ : Field := ⟨.CORE_PWR_STATUS, 47, 32, .ro, 0⟩
def F.CORE_PWR_STATUS.FREQ_MHZ : Field := ⟨.CORE_PWR_STATUS, 31, 16, .ro, 1700⟩
def F.CORE_PWR_STATUS.AGE_LIMIT : Field := ⟨.CORE_PWR_STATUS, 15, 15, .ro, 0⟩
def F.CORE_PWR_STATUS.GUARD_MV : Field := ⟨.CORE_PWR_STATUS, 12, 8, .ro, 0⟩
def F.CORE_PWR_STATUS.STRETCHED : Field := ⟨.CORE_PWR_STATUS, 7, 7, .ro, 0⟩
def F.CORE_PWR_STATUS.DUTY : Field := ⟨.CORE_PWR_STATUS, 6, 0, .ro, 64⟩
def F.CORE_DROOP_EVENTS.STRETCH_CYCLES : Field := ⟨.CORE_DROOP_EVENTS, 63, 32, .rc, 0⟩
def F.CORE_DROOP_EVENTS.DROOPS : Field := ⟨.CORE_DROOP_EVENTS, 31, 0, .rc, 0⟩
def F.SEC_STATUS.SIG_REMAINING : Field := ⟨.SEC_STATUS, 52, 32, .ro, 0⟩
def F.SEC_STATUS.OWNER_SET : Field := ⟨.SEC_STATUS, 7, 7, .ro, 0⟩
def F.SEC_STATUS.KEY_LOW : Field := ⟨.SEC_STATUS, 6, 6, .ro, 0⟩
def F.SEC_STATUS.FW_LOCK : Field := ⟨.SEC_STATUS, 5, 5, .ro, 0⟩
def F.SEC_FW_INFO.FW_VERSION : Field := ⟨.SEC_FW_INFO, 63, 32, .ro, 0⟩
def F.SEC_FW_INFO.BODY_LEN : Field := ⟨.SEC_FW_INFO, 31, 0, .ro, 0⟩
def F.SEC_FW_HOST.BASE : Field := ⟨.SEC_FW_HOST, 63, 12, .rw, 0⟩
def F.SEC_FW_CTRL.KEY : Field := ⟨.SEC_FW_CTRL, 63, 48, .wo, 0⟩
def F.SEC_FW_CTRL.LEN : Field := ⟨.SEC_FW_CTRL, 39, 16, .wo, 0⟩
def F.SEC_FW_CTRL.FLASH : Field := ⟨.SEC_FW_CTRL, 1, 1, .wo, 0⟩
def F.SEC_FW_CTRL.LOAD : Field := ⟨.SEC_FW_CTRL, 0, 0, .wo, 0⟩
def F.SEC_ENGINE.RESULT : Field := ⟨.SEC_ENGINE, 15, 8, .ro, 0⟩
def F.SEC_ENGINE.LAST : Field := ⟨.SEC_ENGINE, 2, 1, .ro, 0⟩
def F.SEC_ENGINE.BUSY : Field := ⟨.SEC_ENGINE, 0, 0, .ro, 0⟩
def F.TOP_FAULT_CONFIG.DRAIN_LIMIT : Field := ⟨.TOP_FAULT_CONFIG, 31, 16, .rw, 100⟩
def F.TOP_FAULT_CONFIG.JOB_ACTION : Field := ⟨.TOP_FAULT_CONFIG, 1, 0, .rw, 0⟩
def F.TOP_FAULT_STATUS.LOST : Field := ⟨.TOP_FAULT_STATUS, 31, 16, .rc, 0⟩
def F.TOP_FAULT_STATUS.JOB_ERR : Field := ⟨.TOP_FAULT_STATUS, 0, 0, .w1c, 0⟩
def F.TOP_FAULT_PTRS.TAIL : Field := ⟨.TOP_FAULT_PTRS, 39, 32, .ro, 0⟩
def F.TOP_FAULT_PTRS.HEAD : Field := ⟨.TOP_FAULT_PTRS, 7, 0, .rw, 0⟩
def F.TOP_FENCE_CMD.KEY : Field := ⟨.TOP_FENCE_CMD, 63, 48, .wo, 0⟩
def F.TOP_FENCE_CMD.SITE : Field := ⟨.TOP_FENCE_CMD, 7, 0, .wo, 0⟩
def F.TOP_FENCED.SITE : Field := ⟨.TOP_FENCED, 63, 0, .ro, 0⟩
def F.TOP_CORE_MAP.ABSENT : Field := ⟨.TOP_CORE_MAP, 8, 8, .ro, 1⟩
def F.TOP_CORE_MAP.SITE : Field := ⟨.TOP_CORE_MAP, 7, 0, .ro, 255⟩
def F.CNT_CMD.AT : Field := ⟨.CNT_CMD, 1, 1, .wo, 0⟩
def F.CNT_CMD.SWAP : Field := ⟨.CNT_CMD, 0, 0, .wo, 0⟩
def F.CNT_SWAP_AT.TIME : Field := ⟨.CNT_SWAP_AT, 63, 0, .rw, 0⟩
def F.CNT_STATUS.SWAP_SEQ : Field := ⟨.CNT_STATUS, 63, 32, .ro, 0⟩
def F.CNT_STATUS.AT_PAST : Field := ⟨.CNT_STATUS, 2, 2, .w1c, 0⟩
def F.CNT_STATUS.PENDING : Field := ⟨.CNT_STATUS, 1, 1, .ro, 0⟩
def F.TBS_TIME.TIME : Field := ⟨.TBS_TIME, 63, 0, .ro, 0⟩
def F.TBS_STATUS.STEPPED : Field := ⟨.TBS_STATUS, 0, 0, .w1c, 0⟩
def F.TRC_ENABLE.GROUPS : Field := ⟨.TRC_ENABLE, 37, 32, .rw, 0⟩
def F.TRC_ENABLE.TYPES : Field := ⟨.TRC_ENABLE, 15, 0, .rw, 0⟩
def F.TRC_LAYER_FILTER.LAST : Field := ⟨.TRC_LAYER_FILTER, 51, 32, .rw, 1048575⟩
def F.TRC_LAYER_FILTER.FIRST : Field := ⟨.TRC_LAYER_FILTER, 19, 0, .rw, 0⟩
def F.TRC_RING_BASE.BASE : Field := ⟨.TRC_RING_BASE, 63, 5, .rw, 0⟩
def F.TRC_RING_CTRL.WATERMARK : Field := ⟨.TRC_RING_CTRL, 11, 8, .rw, 8⟩
def F.TRC_RING_CTRL.MODE : Field := ⟨.TRC_RING_CTRL, 6, 6, .rw, 0⟩
def F.TRC_RING_CTRL.ENABLE : Field := ⟨.TRC_RING_CTRL, 5, 5, .rw, 0⟩
def F.TRC_RING_CTRL.LOG2 : Field := ⟨.TRC_RING_CTRL, 4, 0, .rw, 16⟩
def F.TRC_RING_PTRS.TAIL : Field := ⟨.TRC_RING_PTRS, 63, 32, .ro, 0⟩
def F.TRC_RING_PTRS.HEAD : Field := ⟨.TRC_RING_PTRS, 31, 0, .rw, 0⟩
def F.TRC_RING_STATUS.OVERWRITTEN : Field := ⟨.TRC_RING_STATUS, 63, 32, .rc, 0⟩
def F.TRC_RING_STATUS.LOSS_EVENTS : Field := ⟨.TRC_RING_STATUS, 31, 0, .rc, 0⟩
def F.TRC_HUSH_CTRL.RESUME : Field := ⟨.TRC_HUSH_CTRL, 5, 5, .wo, 0⟩
def F.TRC_HUSH_CTRL.TRIGGER : Field := ⟨.TRC_HUSH_CTRL, 4, 4, .wo, 0⟩
def F.TRC_HUSH_CTRL.ON_MARK : Field := ⟨.TRC_HUSH_CTRL, 2, 2, .rw, 0⟩
def F.TRC_HUSH_CTRL.ON_JOB_ERR : Field := ⟨.TRC_HUSH_CTRL, 1, 1, .rw, 0⟩
def F.TRC_HUSH_CTRL.ON_UE : Field := ⟨.TRC_HUSH_CTRL, 0, 0, .rw, 0⟩
def F.TRC_HUSH_MARK.VALUE : Field := ⟨.TRC_HUSH_MARK, 31, 0, .rw, 0⟩
def F.TRC_HUSH_STATUS.SCANNED : Field := ⟨.TRC_HUSH_STATUS, 63, 32, .ro, 0⟩
def F.TRC_HUSH_STATUS.CAUSE : Field := ⟨.TRC_HUSH_STATUS, 15, 8, .ro, 0⟩
def F.TRC_HUSH_STATUS.STATE : Field := ⟨.TRC_HUSH_STATUS, 2, 0, .ro, 0⟩
def F.TRC_HUSH_TIME.TIME : Field := ⟨.TRC_HUSH_TIME, 63, 0, .ro, 0⟩
def F.TRC_HUSH_SHIP.ADDR : Field := ⟨.TRC_HUSH_SHIP, 63, 5, .rw, 0⟩
def F.TRC_SNAP_PAGE.PAGE : Field := ⟨.TRC_SNAP_PAGE, 10, 0, .rw, 0⟩
def F.MGT_ID.STEPPING : Field := ⟨.MGT_ID, 55, 48, .ro, 176⟩
def F.MGT_ID.PART : Field := ⟨.MGT_ID, 47, 32, .ro, 16640⟩
def F.MGT_ID.DEVICE_ID : Field := ⟨.MGT_ID, 14, 0, .ro, 0⟩
def F.MGT_STATE.CAUSE : Field := ⟨.MGT_STATE, 63, 32, .ro, 268437760⟩
def F.MGT_STATE.RAIL : Field := ⟨.MGT_STATE, 31, 24, .ro, 255⟩
def F.MGT_STATE.FIXED : Field := ⟨.MGT_STATE, 17, 17, .ro, 0⟩
def F.MGT_STATE.DEFAULTED : Field := ⟨.MGT_STATE, 16, 16, .ro, 0⟩
def F.MGT_STATE.FAIL : Field := ⟨.MGT_STATE, 15, 8, .ro, 0⟩
def F.MGT_STATE.PHASE : Field := ⟨.MGT_STATE, 3, 0, .ro, 1⟩
def F.MGT_INPUT.VIN : Field := ⟨.MGT_INPUT, 63, 48, .ro, 0⟩
def F.MGT_INPUT.IIN : Field := ⟨.MGT_INPUT, 47, 32, .ro, 0⟩
def F.MGT_INPUT.PIN : Field := ⟨.MGT_INPUT, 31, 16, .ro, 0⟩
def F.MGT_THERMAL.MEM_MAX : Field := ⟨.MGT_THERMAL, 63, 56, .ro, 0⟩
def F.MGT_THERMAL.LID : Field := ⟨.MGT_THERMAL, 47, 32, .ro, 0⟩
def F.MGT_THERMAL.HOT_SENSOR : Field := ⟨.MGT_THERMAL, 20, 16, .ro, 0⟩
def F.MGT_THERMAL.HOT : Field := ⟨.MGT_THERMAL, 15, 0, .ro, 0⟩
def F.MGT_POWER.CEILING_MHZ : Field := ⟨.MGT_POWER, 63, 48, .ro, 1700⟩
def F.MGT_POWER.CAP_W : Field := ⟨.MGT_POWER, 41, 32, .ro, 0⟩
def F.MGT_POWER.MEASURED : Field := ⟨.MGT_POWER, 2, 2, .ro, 0⟩
def F.MGT_POWER.FIXED : Field := ⟨.MGT_POWER, 1, 1, .ro, 0⟩
def F.MGT_POWER.THROTTLED : Field := ⟨.MGT_POWER, 0, 0, .ro, 0⟩
def F.MGT_ALERT.READY : Field := ⟨.MGT_ALERT, 6, 6, .w1c, 0⟩
def F.MGT_ALERT.FAULT : Field := ⟨.MGT_ALERT, 5, 5, .w1c, 0⟩
def F.MGT_ALERT.TRIP : Field := ⟨.MGT_ALERT, 4, 4, .w1c, 0⟩
def F.MGT_ALERT.BROWN_OUT : Field := ⟨.MGT_ALERT, 3, 3, .w1c, 0⟩
def F.MGT_ALERT.INPUT_LOW : Field := ⟨.MGT_ALERT, 2, 2, .w1c, 0⟩
def F.MGT_ALERT.THERMAL : Field := ⟨.MGT_ALERT, 1, 1, .w1c, 0⟩
def F.MGT_ALERT.RAIL_FAIL : Field := ⟨.MGT_ALERT, 0, 0, .w1c, 0⟩
def F.MGT_ALERT_ENABLE.ENABLE : Field := ⟨.MGT_ALERT_ENABLE, 6, 0, .rw, 127⟩
def F.CORE_DESC_SLOT.DATA : Field := ⟨.CORE_DESC_SLOT, 63, 0, .rw, 0⟩
def F.MSIX_ADDR.ADDR : Field := ⟨.MSIX_ADDR, 63, 0, .rw, 0⟩
def F.MSIX_CTRL.MASK : Field := ⟨.MSIX_CTRL, 32, 32, .rw, 1⟩
def F.MSIX_CTRL.DATA : Field := ⟨.MSIX_CTRL, 31, 0, .rw, 0⟩
def F.MSIX_PBA.PENDING : Field := ⟨.MSIX_PBA, 63, 0, .ro, 0⟩
def F.SEC_FW_STATUS.RESULT : Field := ⟨.SEC_FW_STATUS, 15, 8, .ro, 0⟩
def F.SEC_FW_STATUS.LAST : Field := ⟨.SEC_FW_STATUS, 2, 1, .ro, 0⟩
def F.SEC_FW_STATUS.BUSY : Field := ⟨.SEC_FW_STATUS, 0, 0, .ro, 0⟩
def F.SEC_ATT_STATUS.INDEX : Field := ⟨.SEC_ATT_STATUS, 63, 32, .ro, 0⟩
def F.SEC_ATT_STATUS.RESULT : Field := ⟨.SEC_ATT_STATUS, 15, 8, .ro, 0⟩
def F.SEC_ATT_STATUS.LAST : Field := ⟨.SEC_ATT_STATUS, 2, 1, .ro, 0⟩
def F.SEC_ATT_STATUS.BUSY : Field := ⟨.SEC_ATT_STATUS, 0, 0, .ro, 0⟩
def F.SEC_DBG_STATUS.DENIED : Field := ⟨.SEC_DBG_STATUS, 63, 48, .rc, 0⟩
def F.SEC_DBG_STATUS.RIGHTS : Field := ⟨.SEC_DBG_STATUS, 18, 16, .ro, 0⟩
def F.SEC_DBG_STATUS.RESULT : Field := ⟨.SEC_DBG_STATUS, 15, 8, .ro, 0⟩
def F.SEC_DBG_STATUS.LAST : Field := ⟨.SEC_DBG_STATUS, 2, 1, .ro, 0⟩
def F.SEC_DBG_STATUS.BUSY : Field := ⟨.SEC_DBG_STATUS, 0, 0, .ro, 0⟩
def F.SEC_ATT_NONCE.DATA : Field := ⟨.SEC_ATT_NONCE, 63, 0, .rw, 0⟩
def F.SEC_ATT_CTRL.GO : Field := ⟨.SEC_ATT_CTRL, 0, 0, .wo, 0⟩
def F.SEC_DBG_CHALLENGE.DATA : Field := ⟨.SEC_DBG_CHALLENGE, 63, 0, .ro, 0⟩
def F.SEC_DBG_CTRL.CLOSE : Field := ⟨.SEC_DBG_CTRL, 1, 1, .wo, 0⟩
def F.SEC_DBG_CTRL.VERIFY : Field := ⟨.SEC_DBG_CTRL, 0, 0, .wo, 0⟩
def F.SEC_OWNER_CTRL.KEY : Field := ⟨.SEC_OWNER_CTRL, 63, 48, .wo, 0⟩
def F.SEC_OWNER_CTRL.FUSE : Field := ⟨.SEC_OWNER_CTRL, 0, 0, .wo, 0⟩
def F.SEC_OWNER_KEY.DATA : Field := ⟨.SEC_OWNER_KEY, 63, 0, .rw, 0⟩
def F.SEC_ID_PUB.DATA : Field := ⟨.SEC_ID_PUB, 63, 0, .ro, 0⟩
def F.SEC_REPORT.DATA : Field := ⟨.SEC_REPORT, 63, 0, .ro, 0⟩
def F.SEC_CERT.DATA : Field := ⟨.SEC_CERT, 63, 0, .ro, 0⟩
def F.SEC_TOKEN.DATA : Field := ⟨.SEC_TOKEN, 63, 0, .rw, 0⟩
def F.TOP_FAULT_LOG.DATA : Field := ⟨.TOP_FAULT_LOG, 63, 0, .ro, 0⟩
def F.TRC_SNAP_WINDOW.DATA : Field := ⟨.TRC_SNAP_WINDOW, 63, 0, .ro, 0⟩
def F.CNT_CORE_FROZEN.DATA : Field := ⟨.CNT_CORE_FROZEN, 63, 0, .ro, 0⟩
def F.CNT_CORE_LIVE.DATA : Field := ⟨.CNT_CORE_LIVE, 63, 0, .ro, 0⟩
def F.CNT_PEER_FROZEN.DATA : Field := ⟨.CNT_PEER_FROZEN, 63, 0, .ro, 0⟩
def F.CNT_PEER_LIVE.DATA : Field := ⟨.CNT_PEER_LIVE, 63, 0, .ro, 0⟩
def F.CNT_CLUS_FROZEN.DATA : Field := ⟨.CNT_CLUS_FROZEN, 63, 0, .ro, 0⟩
def F.CNT_CLUS_LIVE.DATA : Field := ⟨.CNT_CLUS_LIVE, 63, 0, .ro, 0⟩
def F.CNT_RAKE_FROZEN.DATA : Field := ⟨.CNT_RAKE_FROZEN, 63, 0, .ro, 0⟩
def F.CNT_RAKE_LIVE.DATA : Field := ⟨.CNT_RAKE_LIVE, 63, 0, .ro, 0⟩
def F.CNT_COLL_FROZEN.DATA : Field := ⟨.CNT_COLL_FROZEN, 63, 0, .ro, 0⟩
def F.CNT_COLL_LIVE.DATA : Field := ⟨.CNT_COLL_LIVE, 63, 0, .ro, 0⟩
def F.CNT_LINK_FROZEN.DATA : Field := ⟨.CNT_LINK_FROZEN, 63, 0, .ro, 0⟩
def F.CNT_LINK_LIVE.DATA : Field := ⟨.CNT_LINK_LIVE, 63, 0, .ro, 0⟩

/-- The place of a register. -/
def Reg.place : Reg → Place
  | .TOP_NOC_CONFIG => ⟨0x400, 1, 0, 1, 8⟩
  | .TOP_NOC_ERROR => ⟨0x408, 1, 0, 1, 8⟩
  | .TOP_NOC_DROP_COUNT => ⟨0x410, 1, 0, 1, 8⟩
  | .TOP_SR_SEED => ⟨0x420, 1, 0, 1, 8⟩
  | .CORE_QNT_EVENTS => ⟨0x1000380, 144, 65536, 1, 8⟩
  | .CORE_ARRAY_CONFIG => ⟨0x1000300, 144, 65536, 1, 8⟩
  | .CORE_ARRAY_STATUS => ⟨0x1000308, 144, 65536, 1, 8⟩
  | .CORE_ARRAY_EVENTS => ⟨0x1000310, 144, 65536, 1, 8⟩
  | .HIVE_COUNTER => ⟨0x40E000, 18, 65536, 16, 8⟩
  | .CORE_SEQ_CTRL => ⟨0x1000000, 144, 65536, 1, 8⟩
  | .CORE_SEQ_PC => ⟨0x1000008, 144, 65536, 1, 8⟩
  | .CORE_SEQ_STATUS => ⟨0x1000010, 144, 65536, 1, 8⟩
  | .CORE_SEQ_STEP => ⟨0x1000018, 144, 65536, 1, 8⟩
  | .CORE_TILE_REGS => ⟨0x1000020, 144, 65536, 4, 8⟩
  | .CORE_DESC_TABLE => ⟨0x1000040, 144, 65536, 1, 8⟩
  | .CORE_CC => ⟨0x1000080, 144, 65536, 16, 8⟩
  | .CORE_ERROR_RECORD => ⟨0x1000100, 144, 65536, 1, 8⟩
  | .CORE_ERROR_WHERE => ⟨0x1000108, 144, 65536, 1, 8⟩
  | .CORE_ERROR_PC => ⟨0x1000110, 144, 65536, 1, 8⟩
  | .CORE_SHAPE_EVENTS => ⟨0x1000180, 144, 65536, 1, 8⟩
  | .CORE_DROP_COUNT => ⟨0x1000188, 144, 65536, 1, 8⟩
  | .CORE_BANK_OWNER => ⟨0x1000400, 144, 65536, 32, 8⟩
  | .CORE_SCOUT_EVENTS => ⟨0x1000388, 144, 65536, 1, 8⟩
  | .CORE_SCOUT_SKIP => ⟨0x1000390, 144, 65536, 1, 8⟩
  | .MOW_STATUS => ⟨0x40C000, 18, 65536, 1, 8⟩
  | .MOW_EVENTS => ⟨0x40C008, 18, 65536, 1, 8⟩
  | .CORE_INDEX_EVENTS => ⟨0x1000398, 144, 65536, 1, 8⟩
  | .ANT_SPILL_BASE => ⟨0x40A000, 18, 65536, 1, 8⟩
  | .ANT_SPILL_LIMIT => ⟨0x40A008, 18, 65536, 1, 8⟩
  | .ANT_SORT_BASE => ⟨0x40A010, 18, 65536, 1, 8⟩
  | .ANT_STATUS => ⟨0x40A018, 18, 65536, 1, 8⟩
  | .ANT_EVENTS => ⟨0x40A020, 18, 65536, 1, 8⟩
  | .RAKE_RING_BASE => ⟨0x140000, 1, 0, 1, 8⟩
  | .RAKE_RING_SIZE => ⟨0x140008, 1, 0, 1, 8⟩
  | .RAKE_RING_PTRS => ⟨0x140010, 1, 0, 1, 8⟩
  | .RAKE_CONFIG => ⟨0x140020, 1, 0, 1, 8⟩
  | .RAKE_LOSS_PTR => ⟨0x140028, 1, 0, 1, 8⟩
  | .RAKE_STATUS => ⟨0x140030, 1, 0, 1, 8⟩
  | .RAKE_CTRL => ⟨0x140038, 1, 0, 1, 8⟩
  | .RAKE_EVENTS => ⟨0x140040, 1, 0, 1, 8⟩
  | .RAKE_MISMATCH => ⟨0x140048, 1, 0, 1, 8⟩
  | .RAKE_MISMATCH_STEP => ⟨0x140050, 1, 0, 1, 8⟩
  | .CORE_SHADOW_CONFIG => ⟨0x10003A0, 144, 65536, 1, 8⟩
  | .CORE_SHADOW_HIST => ⟨0x10003A8, 144, 65536, 1, 8⟩
  | .CORE_SHADOW_LAYERS => ⟨0x10003B0, 144, 65536, 1, 8⟩
  | .CORE_SHADOW_EVENTS => ⟨0x10003B8, 144, 65536, 1, 8⟩
  | .MEM_CH_CONFIG => ⟨0x100000, 64, 4096, 1, 8⟩
  | .MEM_CH_STATUS => ⟨0x100008, 64, 4096, 1, 8⟩
  | .MEM_CH_ERR_COUNT => ⟨0x100010, 64, 4096, 1, 8⟩
  | .MEM_CH_UE_LOG => ⟨0x100018, 64, 4096, 1, 8⟩
  | .MEM_CH_CE_LOG => ⟨0x100020, 64, 4096, 1, 8⟩
  | .MEM_TRAIN_STATUS => ⟨0x150000, 1, 0, 1, 8⟩
  | .MEM_SCRUB_CTRL => ⟨0x150008, 1, 0, 1, 8⟩
  | .MEM_SCRUB_STATUS => ⟨0x150010, 1, 0, 1, 8⟩
  | .MEM_MAP_EVENTS => ⟨0x150018, 1, 0, 1, 8⟩
  | .MEM_FILL_BASE => ⟨0x150020, 1, 0, 1, 8⟩
  | .MEM_FILL_CTRL => ⟨0x150028, 1, 0, 1, 8⟩
  | .FAB_CONFIG => ⟨0x200000, 1, 0, 1, 8⟩
  | .FAB_CLASS_WEIGHTS => ⟨0x200008, 1, 0, 1, 8⟩
  | .FAB_LAYOUT => ⟨0x200010, 1, 0, 1, 8⟩
  | .FAB_ERROR => ⟨0x200018, 1, 0, 1, 8⟩
  | .FAB_DROP_COUNT => ⟨0x200020, 1, 0, 1, 8⟩
  | .FAB_TIME_CONFIG => ⟨0x200028, 1, 0, 1, 8⟩
  | .FAB_TIME_STATUS => ⟨0x200030, 1, 0, 1, 8⟩
  | .FAB_ROUTE_DEV => ⟨0x300000, 1, 0, 32768, 8⟩
  | .FAB_TREE => ⟨0x340000, 1, 0, 1024, 16⟩
  | .FAB_TREE_LINKS => ⟨0x340008, 1, 0, 1024, 16⟩
  | .FAB_LINK_CTRL => ⟨0x201000, 64, 4096, 1, 8⟩
  | .FAB_LINK_STATUS => ⟨0x201008, 64, 4096, 1, 8⟩
  | .FAB_LINK_ERR_COUNT => ⟨0x201010, 64, 4096, 1, 8⟩
  | .FAB_LINK_FEC => ⟨0x201018, 64, 4096, 1, 8⟩
  | .FAB_COLL_CONFIG => ⟨0x360000, 1, 0, 1, 8⟩
  | .FAB_COLL_STATUS => ⟨0x360008, 1, 0, 1, 8⟩
  | .FAB_COLL_EVENTS => ⟨0x360010, 1, 0, 1, 8⟩
  | .FAB_POLL_EVENTS => ⟨0x360018, 1, 0, 1, 8⟩
  | .CORE_COLL_WAIT => ⟨0x10003C0, 144, 65536, 1, 8⟩
  | .RST_CMD => ⟨0x10040, 1, 0, 1, 8⟩
  | .HST_PCIE_STATUS => ⟨0x40000, 1, 0, 1, 8⟩
  | .HST_IRQ_CAUSE => ⟨0x40010, 1, 0, 1, 8⟩
  | .HST_IRQ_ENABLE => ⟨0x40018, 1, 0, 1, 8⟩
  | .HST_SITE_CAUSE => ⟨0x40020, 1, 0, 3, 8⟩
  | .HST_ERROR => ⟨0x40040, 1, 0, 1, 8⟩
  | .HST_WIN_BASE => ⟨0x40100, 1, 0, 8, 16⟩
  | .HST_WIN_SIZE => ⟨0x40108, 1, 0, 8, 16⟩
  | .HST_PTM_CTRL => ⟨0x40200, 1, 0, 1, 8⟩
  | .HST_PTM_STATUS => ⟨0x40208, 1, 0, 1, 8⟩
  | .HST_PTM_OFFSET => ⟨0x40210, 1, 0, 1, 8⟩
  | .HST_RING_BASE => ⟨0x41000, 16, 4096, 1, 8⟩
  | .HST_CQ_BASE => ⟨0x41008, 16, 4096, 1, 8⟩
  | .HST_RING_PTRS => ⟨0x41010, 16, 4096, 1, 8⟩
  | .HST_CQ_PTRS => ⟨0x41018, 16, 4096, 1, 8⟩
  | .HST_RING_CTRL => ⟨0x41020, 16, 4096, 1, 8⟩
  | .RST_STRAPS => ⟨0x10000, 1, 0, 1, 8⟩
  | .RST_CAUSE => ⟨0x10008, 1, 0, 1, 8⟩
  | .RST_PHASE => ⟨0x10010, 1, 0, 1, 8⟩
  | .RST_CTRL => ⟨0x10018, 1, 0, 1, 8⟩
  | .RST_SWEEP => ⟨0x10030, 1, 0, 1, 8⟩
  | .OPT_STATUS => ⟨0x10020, 1, 0, 1, 8⟩
  | .OPT_CTRL => ⟨0x10028, 1, 0, 1, 8⟩
  | .OPT_IMAGE => ⟨0x10400, 1, 0, 128, 8⟩
  | .OPT_STAGE => ⟨0x10800, 1, 0, 128, 8⟩
  | .PWR_CAP_LIMIT => ⟨0x20000, 1, 0, 1, 8⟩
  | .PWR_FREQ_CTRL => ⟨0x20008, 1, 0, 1, 8⟩
  | .PWR_STATUS => ⟨0x20010, 1, 0, 1, 8⟩
  | .PWR_EVENT => ⟨0x20018, 1, 0, 1, 8⟩
  | .PWR_MISMATCH_LOG => ⟨0x20020, 1, 0, 1, 8⟩
  | .PWR_DROOP_CONFIG => ⟨0x20028, 1, 0, 1, 8⟩
  | .PWR_HB_CONFIG => ⟨0x20030, 1, 0, 1, 8⟩
  | .PWR_HB_TABLE => ⟨0x20038, 1, 0, 1, 8⟩
  | .PWR_SENSOR => ⟨0x20100, 1, 0, 20, 8⟩
  | .PWR_HB_PEER => ⟨0x20200, 1, 0, 64, 8⟩
  | .CORE_PWR_STATUS => ⟨0x10003C8, 144, 65536, 1, 8⟩
  | .CORE_DROOP_EVENTS => ⟨0x10003D0, 144, 65536, 1, 8⟩
  | .SEC_STATUS => ⟨0x30000, 1, 0, 1, 8⟩
  | .SEC_FW_INFO => ⟨0x30008, 1, 0, 1, 8⟩
  | .SEC_FW_HOST => ⟨0x30010, 1, 0, 1, 8⟩
  | .SEC_FW_CTRL => ⟨0x30018, 1, 0, 1, 8⟩
  | .SEC_ENGINE => ⟨0x30020, 1, 0, 1, 8⟩
  | .TOP_FAULT_CONFIG => ⟨0x800, 1, 0, 1, 8⟩
  | .TOP_FAULT_STATUS => ⟨0x808, 1, 0, 1, 8⟩
  | .TOP_FAULT_PTRS => ⟨0x810, 1, 0, 1, 8⟩
  | .TOP_FENCE_CMD => ⟨0x818, 1, 0, 1, 8⟩
  | .TOP_FENCED => ⟨0x820, 1, 0, 3, 8⟩
  | .TOP_CORE_MAP => ⟨0xC00, 1, 0, 128, 8⟩
  | .CNT_CMD => ⟨0x80000, 1, 0, 1, 8⟩
  | .CNT_SWAP_AT => ⟨0x80008, 1, 0, 1, 8⟩
  | .CNT_STATUS => ⟨0x80010, 1, 0, 1, 8⟩
  | .TBS_TIME => ⟨0x80100, 1, 0, 1, 8⟩
  | .TBS_STATUS => ⟨0x80108, 1, 0, 1, 8⟩
  | .TRC_ENABLE => ⟨0x80200, 1, 0, 1, 8⟩
  | .TRC_LAYER_FILTER => ⟨0x80208, 1, 0, 1, 8⟩
  | .TRC_RING_BASE => ⟨0x80210, 1, 0, 1, 8⟩
  | .TRC_RING_CTRL => ⟨0x80218, 1, 0, 1, 8⟩
  | .TRC_RING_PTRS => ⟨0x80220, 1, 0, 1, 8⟩
  | .TRC_RING_STATUS => ⟨0x80228, 1, 0, 1, 8⟩
  | .TRC_HUSH_CTRL => ⟨0x80400, 1, 0, 1, 8⟩
  | .TRC_HUSH_MARK => ⟨0x80408, 1, 0, 1, 8⟩
  | .TRC_HUSH_STATUS => ⟨0x80410, 1, 0, 1, 8⟩
  | .TRC_HUSH_TIME => ⟨0x80418, 1, 0, 1, 8⟩
  | .TRC_HUSH_SHIP => ⟨0x80420, 1, 0, 1, 8⟩
  | .TRC_SNAP_PAGE => ⟨0x80428, 1, 0, 1, 8⟩
  | .MGT_ID => ⟨0x100000000, 1, 0, 1, 1⟩
  | .MGT_STATE => ⟨0x100000001, 1, 0, 1, 1⟩
  | .MGT_INPUT => ⟨0x100000002, 1, 0, 1, 1⟩
  | .MGT_THERMAL => ⟨0x100000003, 1, 0, 1, 1⟩
  | .MGT_POWER => ⟨0x100000004, 1, 0, 1, 1⟩
  | .MGT_ALERT => ⟨0x100000005, 1, 0, 1, 1⟩
  | .MGT_ALERT_ENABLE => ⟨0x100000006, 1, 0, 1, 1⟩
  | .CORE_DESC_SLOT => ⟨0x1001000, 144, 65536, 512, 8⟩
  | .MSIX_ADDR => ⟨0x60000, 1, 0, 256, 16⟩
  | .MSIX_CTRL => ⟨0x60008, 1, 0, 256, 16⟩
  | .MSIX_PBA => ⟨0x61000, 1, 0, 4, 8⟩
  | .SEC_FW_STATUS => ⟨0x30028, 1, 0, 1, 8⟩
  | .SEC_ATT_STATUS => ⟨0x30068, 1, 0, 1, 8⟩
  | .SEC_DBG_STATUS => ⟨0x300A8, 1, 0, 1, 8⟩
  | .SEC_ATT_NONCE => ⟨0x30040, 1, 0, 4, 8⟩
  | .SEC_ATT_CTRL => ⟨0x30060, 1, 0, 1, 8⟩
  | .SEC_DBG_CHALLENGE => ⟨0x30080, 1, 0, 4, 8⟩
  | .SEC_DBG_CTRL => ⟨0x300A0, 1, 0, 1, 8⟩
  | .SEC_OWNER_CTRL => ⟨0x300C0, 1, 0, 1, 8⟩
  | .SEC_OWNER_KEY => ⟨0x30100, 1, 0, 9, 8⟩
  | .SEC_ID_PUB => ⟨0x30140, 1, 0, 9, 8⟩
  | .SEC_REPORT => ⟨0x31000, 1, 0, 512, 8⟩
  | .SEC_CERT => ⟨0x32000, 1, 0, 512, 8⟩
  | .SEC_TOKEN => ⟨0x33000, 1, 0, 512, 8⟩
  | .TOP_FAULT_LOG => ⟨0x2000, 1, 0, 1024, 8⟩
  | .TRC_SNAP_WINDOW => ⟨0x90000, 1, 0, 8192, 8⟩
  | .CNT_CORE_FROZEN => ⟨0x1002000, 144, 65536, 160, 8⟩
  | .CNT_CORE_LIVE => ⟨0x1002800, 144, 65536, 160, 8⟩
  | .CNT_PEER_FROZEN => ⟨0x1002600, 144, 65536, 9, 8⟩
  | .CNT_PEER_LIVE => ⟨0x1002E00, 144, 65536, 9, 8⟩
  | .CNT_CLUS_FROZEN => ⟨0x408000, 18, 65536, 64, 8⟩
  | .CNT_CLUS_LIVE => ⟨0x408800, 18, 65536, 64, 8⟩
  | .CNT_RAKE_FROZEN => ⟨0x160000, 32, 512, 32, 8⟩
  | .CNT_RAKE_LIVE => ⟨0x160100, 32, 512, 32, 8⟩
  | .CNT_COLL_FROZEN => ⟨0x370000, 1, 0, 32, 8⟩
  | .CNT_COLL_LIVE => ⟨0x370100, 1, 0, 32, 8⟩
  | .CNT_LINK_FROZEN => ⟨0x201100, 64, 4096, 32, 8⟩
  | .CNT_LINK_LIVE => ⟨0x201200, 64, 4096, 32, 8⟩

/-- The fields of a register, from bit 63 down. -/
def Reg.fields : Reg → List Field
  | .TOP_NOC_CONFIG => [F.TOP_NOC_CONFIG.RED_TIMEOUT]
  | .TOP_NOC_ERROR => [F.TOP_NOC_ERROR.LAST_STOP, F.TOP_NOC_ERROR.SEAM_LOCK, F.TOP_NOC_ERROR.BAD_KIND, F.TOP_NOC_ERROR.RED_FORMAT, F.TOP_NOC_ERROR.RED_TIMEOUT, F.TOP_NOC_ERROR.RED_POISON, F.TOP_NOC_ERROR.MC_EMPTY, F.TOP_NOC_ERROR.DROP_FENCED]
  | .TOP_NOC_DROP_COUNT => [F.TOP_NOC_DROP_COUNT.COUNT]
  | .TOP_SR_SEED => [F.TOP_SR_SEED.SEED]
  | .CORE_QNT_EVENTS => [F.CORE_QNT_EVENTS.SATURATE, F.CORE_QNT_EVENTS.NONFINITE, F.CORE_QNT_EVENTS.DEGENERATE, F.CORE_QNT_EVENTS.ZERO_BLOCK]
  | .CORE_ARRAY_CONFIG => [F.CORE_ARRAY_CONFIG.FILL_TIMEOUT, F.CORE_ARRAY_CONFIG.ACC_MODE]
  | .CORE_ARRAY_STATUS => [F.CORE_ARRAY_STATUS.ARRAY3, F.CORE_ARRAY_STATUS.ARRAY2, F.CORE_ARRAY_STATUS.ARRAY1, F.CORE_ARRAY_STATUS.ARRAY0]
  | .CORE_ARRAY_EVENTS => [F.CORE_ARRAY_EVENTS.ACC_UNCORR, F.CORE_ARRAY_EVENTS.BATCH_TIMEOUT, F.CORE_ARRAY_EVENTS.BATCH_SHORT, F.CORE_ARRAY_EVENTS.W_REUSE]
  | .HIVE_COUNTER => [F.HIVE_COUNTER.LIMIT, F.HIVE_COUNTER.VALUE]
  | .CORE_SEQ_CTRL => [F.CORE_SEQ_CTRL.ABORT, F.CORE_SEQ_CTRL.HALT_REQ, F.CORE_SEQ_CTRL.START]
  | .CORE_SEQ_PC => [F.CORE_SEQ_PC.ADDR]
  | .CORE_SEQ_STATUS => [F.CORE_SEQ_STATUS.HALT_CAUSE, F.CORE_SEQ_STATUS.STATE]
  | .CORE_SEQ_STEP => [F.CORE_SEQ_STEP.EPOCH, F.CORE_SEQ_STEP.STEP]
  | .CORE_TILE_REGS => [F.CORE_TILE_REGS.HIGH, F.CORE_TILE_REGS.LOW]
  | .CORE_DESC_TABLE => [F.CORE_DESC_TABLE.BASE]
  | .CORE_CC => [F.CORE_CC.VALUE]
  | .CORE_ERROR_RECORD => [F.CORE_ERROR_RECORD.VALID, F.CORE_ERROR_RECORD.KIND, F.CORE_ERROR_RECORD.OPCODE, F.CORE_ERROR_RECORD.SLOT]
  | .CORE_ERROR_WHERE => [F.CORE_ERROR_WHERE.LAYER, F.CORE_ERROR_WHERE.OPER, F.CORE_ERROR_WHERE.OVERFLOW]
  | .CORE_ERROR_PC => [F.CORE_ERROR_PC.PC]
  | .CORE_SHAPE_EVENTS => [F.CORE_SHAPE_EVENTS.SHAPE_CLAMPED, F.CORE_SHAPE_EVENTS.CLAMP_COUNT, F.CORE_SHAPE_EVENTS.ZERO_SHAPE]
  | .CORE_DROP_COUNT => [F.CORE_DROP_COUNT.LAST_BANK, F.CORE_DROP_COUNT.LAST_REQ, F.CORE_DROP_COUNT.READS, F.CORE_DROP_COUNT.WRITES]
  | .CORE_BANK_OWNER => [F.CORE_BANK_OWNER.CORE, F.CORE_BANK_OWNER.OWNER]
  | .CORE_SCOUT_EVENTS => [F.CORE_SCOUT_EVENTS.MISSES, F.CORE_SCOUT_EVENTS.FALSE_ALARMS, F.CORE_SCOUT_EVENTS.CHECK_PASSES]
  | .CORE_SCOUT_SKIP => [F.CORE_SCOUT_SKIP.SKIPPED, F.CORE_SCOUT_SKIP.LISTED]
  | .MOW_STATUS => [F.MOW_STATUS.LAST_EPOCH, F.MOW_STATUS.QUEUED, F.MOW_STATUS.LAST_OP, F.MOW_STATUS.LAST_POS, F.MOW_STATUS.BUSY]
  | .MOW_EVENTS => [F.MOW_EVENTS.CONFORM, F.MOW_EVENTS.NONFINITE, F.MOW_EVENTS.PAD, F.MOW_EVENTS.LIST_DROP]
  | .CORE_INDEX_EVENTS => [F.CORE_INDEX_EVENTS.COALESCED, F.CORE_INDEX_EVENTS.OOR_READ, F.CORE_INDEX_EVENTS.OOR_WRITE]
  | .ANT_SPILL_BASE => [F.ANT_SPILL_BASE.BASE]
  | .ANT_SPILL_LIMIT => [F.ANT_SPILL_LIMIT.LIMIT]
  | .ANT_SORT_BASE => [F.ANT_SORT_BASE.BASE]
  | .ANT_STATUS => [F.ANT_STATUS.FILL, F.ANT_STATUS.LOST_CTX, F.ANT_STATUS.DRAIN_CTX, F.ANT_STATUS.DRAINING, F.ANT_STATUS.SPILL_LOST, F.ANT_STATUS.BUSY]
  | .ANT_EVENTS => [F.ANT_EVENTS.SPILLS, F.ANT_EVENTS.LOST, F.ANT_EVENTS.DRAINS]
  | .RAKE_RING_BASE => [F.RAKE_RING_BASE.BASE]
  | .RAKE_RING_SIZE => [F.RAKE_RING_SIZE.LOG2]
  | .RAKE_RING_PTRS => [F.RAKE_RING_PTRS.HEAD, F.RAKE_RING_PTRS.TAIL]
  | .RAKE_CONFIG => [F.RAKE_CONFIG.NF_POLICY, F.RAKE_CONFIG.MISMATCH]
  | .RAKE_LOSS_PTR => [F.RAKE_LOSS_PTR.PTR]
  | .RAKE_STATUS => [F.RAKE_STATUS.LAST_STEP, F.RAKE_STATUS.LAST_STATUS, F.RAKE_STATUS.UNITS_BUSY, F.RAKE_STATUS.DRAINING, F.RAKE_STATUS.BUSY]
  | .RAKE_CTRL => [F.RAKE_CTRL.RESUME, F.RAKE_CTRL.ABORT, F.RAKE_CTRL.DRAIN]
  | .RAKE_EVENTS => [F.RAKE_EVENTS.UPDATES, F.RAKE_EVENTS.SKIPS, F.RAKE_EVENTS.ZEROED, F.RAKE_EVENTS.ERRORS, F.RAKE_EVENTS.NONFINITE, F.RAKE_EVENTS.NOT_COMPARED]
  | .RAKE_MISMATCH => [F.RAKE_MISMATCH.VALID, F.RAKE_MISMATCH.DEVICE, F.RAKE_MISMATCH.SHARD_ID]
  | .RAKE_MISMATCH_STEP => [F.RAKE_MISMATCH_STEP.STEP]
  | .CORE_SHADOW_CONFIG => [F.CORE_SHADOW_CONFIG.FLOOR, F.CORE_SHADOW_CONFIG.RATE_LOG2, F.CORE_SHADOW_CONFIG.ENABLE]
  | .CORE_SHADOW_HIST => [F.CORE_SHADOW_HIST.BASE]
  | .CORE_SHADOW_LAYERS => [F.CORE_SHADOW_LAYERS.LAYER_COUNT, F.CORE_SHADOW_LAYERS.LAYER_FIRST]
  | .CORE_SHADOW_EVENTS => [F.CORE_SHADOW_EVENTS.TILES, F.CORE_SHADOW_EVENTS.OUT_OF_RANGE]
  | .MEM_CH_CONFIG => [F.MEM_CH_CONFIG.CE_THRESHOLD, F.MEM_CH_CONFIG.ERASE_EN1, F.MEM_CH_CONFIG.ERASE_PIN1, F.MEM_CH_CONFIG.ERASE_EN0, F.MEM_CH_CONFIG.ERASE_PIN0]
  | .MEM_CH_STATUS => [F.MEM_CH_STATUS.TRAIN_CODE, F.MEM_CH_STATUS.CE_ALERT, F.MEM_CH_STATUS.SELF_REFRESH, F.MEM_CH_STATUS.FAILED, F.MEM_CH_STATUS.USABLE]
  | .MEM_CH_ERR_COUNT => [F.MEM_CH_ERR_COUNT.CORRECTED, F.MEM_CH_ERR_COUNT.UNCORRECTED, F.MEM_CH_ERR_COUNT.POISON]
  | .MEM_CH_UE_LOG => [F.MEM_CH_UE_LOG.VALID, F.MEM_CH_UE_LOG.ORIGIN, F.MEM_CH_UE_LOG.GRANULE]
  | .MEM_CH_CE_LOG => [F.MEM_CH_CE_LOG.VALID, F.MEM_CH_CE_LOG.ORIGIN, F.MEM_CH_CE_LOG.SYM1, F.MEM_CH_CE_LOG.SYM0, F.MEM_CH_CE_LOG.GRANULE]
  | .MEM_TRAIN_STATUS => [F.MEM_TRAIN_STATUS.FAILED]
  | .MEM_SCRUB_CTRL => [F.MEM_SCRUB_CTRL.PERIOD]
  | .MEM_SCRUB_STATUS => [F.MEM_SCRUB_STATUS.PASSES, F.MEM_SCRUB_STATUS.PROGRESS]
  | .MEM_MAP_EVENTS => [F.MEM_MAP_EVENTS.COUNT, F.MEM_MAP_EVENTS.LAST]
  | .MEM_FILL_BASE => [F.MEM_FILL_BASE.BASE]
  | .MEM_FILL_CTRL => [F.MEM_FILL_CTRL.GO, F.MEM_FILL_CTRL.BUSY, F.MEM_FILL_CTRL.LEN]
  | .FAB_CONFIG => [F.FAB_CONFIG.RED_TIMEOUT, F.FAB_CONFIG.HOST_REMOTE, F.FAB_CONFIG.REG_REMOTE, F.FAB_CONFIG.LANES]
  | .FAB_CLASS_WEIGHTS => [F.FAB_CLASS_WEIGHTS.TC3, F.FAB_CLASS_WEIGHTS.TC2, F.FAB_CLASS_WEIGHTS.TC1]
  | .FAB_LAYOUT => [F.FAB_LAYOUT.EPOCH]
  | .FAB_ERROR => [F.FAB_ERROR.LAST_STATUS, F.FAB_ERROR.LAST_LINK, F.FAB_ERROR.SIG_DROP, F.FAB_ERROR.BAD_ADDR, F.FAB_ERROR.REMOTE_STATUS, F.FAB_ERROR.EPOCH, F.FAB_ERROR.RED_COUNT, F.FAB_ERROR.TREE_MISS, F.FAB_ERROR.RED_POISON, F.FAB_ERROR.RED_TIMEOUT, F.FAB_ERROR.RED_MISMATCH, F.FAB_ERROR.HOP_LIMIT, F.FAB_ERROR.UNREACHABLE, F.FAB_ERROR.BAD_OP, F.FAB_ERROR.LINK_LOST, F.FAB_ERROR.MISWIRED]
  | .FAB_DROP_COUNT => [F.FAB_DROP_COUNT.COUNT]
  | .FAB_TIME_CONFIG => [F.FAB_TIME_CONFIG.GM, F.FAB_TIME_CONFIG.PERIOD_US]
  | .FAB_TIME_STATUS => [F.FAB_TIME_STATUS.OFFSET, F.FAB_TIME_STATUS.TRIM, F.FAB_TIME_STATUS.LOCKED, F.FAB_TIME_STATUS.HOLDOVER, F.FAB_TIME_STATUS.STRATUM, F.FAB_TIME_STATUS.PARENT]
  | .FAB_ROUTE_DEV => [F.FAB_ROUTE_DEV.VALID, F.FAB_ROUTE_DEV.ALT_V, F.FAB_ROUTE_DEV.LINK, F.FAB_ROUTE_DEV.ALT_LINK, F.FAB_ROUTE_DEV.ALT_VIA]
  | .FAB_TREE => [F.FAB_TREE.VALID, F.FAB_TREE.KIND, F.FAB_TREE.LOCAL, F.FAB_TREE.OUT, F.FAB_TREE.DEPTH, F.FAB_TREE.TAG, F.FAB_TREE.EXPECT_M1, F.FAB_TREE.SIG, F.FAB_TREE.CORE, F.FAB_TREE.CC]
  | .FAB_TREE_LINKS => [F.FAB_TREE_LINKS.LINKS]
  | .FAB_LINK_CTRL => [F.FAB_LINK_CTRL.RETRAIN, F.FAB_LINK_CTRL.ENABLE]
  | .FAB_LINK_STATUS => [F.FAB_LINK_STATUS.PEER_DEV, F.FAB_LINK_STATUS.PEER_LINK, F.FAB_LINK_STATUS.TC0_OVER, F.FAB_LINK_STATUS.DEGRADED, F.FAB_LINK_STATUS.STATE]
  | .FAB_LINK_ERR_COUNT => [F.FAB_LINK_ERR_COUNT.CRC, F.FAB_LINK_ERR_COUNT.REPLAYS, F.FAB_LINK_ERR_COUNT.RETRAINS, F.FAB_LINK_ERR_COUNT.LOST]
  | .FAB_LINK_FEC => [F.FAB_LINK_FEC.CORRECTED, F.FAB_LINK_FEC.UNCORRECTABLE]
  | .FAB_COLL_CONFIG => [F.FAB_COLL_CONFIG.PF_DELAY, F.FAB_COLL_CONFIG.WINDOW, F.FAB_COLL_CONFIG.WAIT_POLICY]
  | .FAB_COLL_STATUS => [F.FAB_COLL_STATUS.LAST_STATUS, F.FAB_COLL_STATUS.ACTIVE, F.FAB_COLL_STATUS.PERMUTING, F.FAB_COLL_STATUS.BUSY]
  | .FAB_COLL_EVENTS => [F.FAB_COLL_EVENTS.COMPLETED, F.FAB_COLL_EVENTS.NONFINITE, F.FAB_COLL_EVENTS.ERRORS]
  | .FAB_POLL_EVENTS => [F.FAB_POLL_EVENTS.GRANTED, F.FAB_POLL_EVENTS.NEXT, F.FAB_POLL_EVENTS.DROPPED]
  | .CORE_COLL_WAIT => [F.CORE_COLL_WAIT.VALID, F.CORE_COLL_WAIT.KIND, F.CORE_COLL_WAIT.PEER_V, F.CORE_COLL_WAIT.PEER, F.CORE_COLL_WAIT.TAG]
  | .RST_CMD => [F.RST_CMD.KEY, F.RST_CMD.CORE, F.RST_CMD.KIND]
  | .HST_PCIE_STATUS => [F.HST_PCIE_STATUS.DOWNTRAINED, F.HST_PCIE_STATUS.FLIT, F.HST_PCIE_STATUS.WIDTH, F.HST_PCIE_STATUS.RATE]
  | .HST_IRQ_CAUSE => [F.HST_IRQ_CAUSE.CAUSE]
  | .HST_IRQ_ENABLE => [F.HST_IRQ_ENABLE.CAUSE]
  | .HST_SITE_CAUSE => [F.HST_SITE_CAUSE.SITE]
  | .HST_ERROR => [F.HST_ERROR.LAST_RING, F.HST_ERROR.MASK_IGNORED, F.HST_ERROR.HOST_ERR, F.HST_ERROR.WIN_MISS, F.HST_ERROR.BAD_KEY]
  | .HST_WIN_BASE => [F.HST_WIN_BASE.BASE]
  | .HST_WIN_SIZE => [F.HST_WIN_SIZE.ENABLE, F.HST_WIN_SIZE.LOG2]
  | .HST_PTM_CTRL => [F.HST_PTM_CTRL.FOLLOW, F.HST_PTM_CTRL.ENABLE, F.HST_PTM_CTRL.INTERVAL]
  | .HST_PTM_STATUS => [F.HST_PTM_STATUS.HOST_TIME]
  | .HST_PTM_OFFSET => [F.HST_PTM_OFFSET.OFFSET]
  | .HST_RING_BASE => [F.HST_RING_BASE.BASE, F.HST_RING_BASE.LOG2]
  | .HST_CQ_BASE => [F.HST_CQ_BASE.BASE, F.HST_CQ_BASE.LOG2]
  | .HST_RING_PTRS => [F.HST_RING_PTRS.HEAD, F.HST_RING_PTRS.TAIL]
  | .HST_CQ_PTRS => [F.HST_CQ_PTRS.TAIL, F.HST_CQ_PTRS.HEAD]
  | .HST_RING_CTRL => [F.HST_RING_CTRL.CQ_TIME, F.HST_RING_CTRL.CQ_COUNT, F.HST_RING_CTRL.LAST_STATUS, F.HST_RING_CTRL.BUSY, F.HST_RING_CTRL.ABORT, F.HST_RING_CTRL.DRAIN, F.HST_RING_CTRL.ENABLE]
  | .RST_STRAPS => [F.RST_STRAPS.BAD, F.RST_STRAPS.CLK_MODE, F.RST_STRAPS.BOOT_SRC]
  | .RST_CAUSE => [F.RST_CAUSE.SOURCE, F.RST_CAUSE.KIND, F.RST_CAUSE.CORE, F.RST_CAUSE.PHASE, F.RST_CAUSE.LINES_LOST, F.RST_CAUSE.OPT_RESTART]
  | .RST_PHASE => [F.RST_PHASE.FAIL, F.RST_PHASE.HELD, F.RST_PHASE.WAIT_HOST, F.RST_PHASE.PHASE]
  | .RST_CTRL => [F.RST_CTRL.PERST_KIND]
  | .RST_SWEEP => [F.RST_SWEEP.ANT_WAYS_OFF, F.RST_SWEEP.LLC_WAYS_OFF, F.RST_SWEEP.SITES_FENCED]
  | .OPT_STATUS => [F.OPT_STATUS.CRC_READ, F.OPT_STATUS.STAGE, F.OPT_STATUS.FIXED, F.OPT_STATUS.DEFAULTED]
  | .OPT_CTRL => [F.OPT_CTRL.KEY, F.OPT_CTRL.COMMIT]
  | .OPT_IMAGE => [F.OPT_IMAGE.DATA]
  | .OPT_STAGE => [F.OPT_STAGE.DATA]
  | .PWR_CAP_LIMIT => [F.PWR_CAP_LIMIT.WATTS]
  | .PWR_FREQ_CTRL => [F.PWR_FREQ_CTRL.MODE, F.PWR_FREQ_CTRL.LIMIT_MHZ, F.PWR_FREQ_CTRL.FIXED_MHZ]
  | .PWR_STATUS => [F.PWR_STATUS.CEILING_MHZ, F.PWR_STATUS.MEASURED, F.PWR_STATUS.INPUT_W, F.PWR_STATUS.EST_W, F.PWR_STATUS.HOT_MAX, F.PWR_STATUS.THROTTLED]
  | .PWR_EVENT => [F.PWR_EVENT.AGE_SITE, F.PWR_EVENT.TELEMETRY_LOST, F.PWR_EVENT.MEM_HOT, F.PWR_EVENT.AGE_LIMIT, F.PWR_EVENT.INPUT_LOW, F.PWR_EVENT.OVER_ENVELOPE, F.PWR_EVENT.ESTIMATE_MISMATCH, F.PWR_EVENT.THROTTLE_THERMAL, F.PWR_EVENT.THROTTLE_CAP]
  | .PWR_MISMATCH_LOG => [F.PWR_MISMATCH_LOG.VALID, F.PWR_MISMATCH_LOG.WINDOW_END, F.PWR_MISMATCH_LOG.EST, F.PWR_MISMATCH_LOG.MEAS]
  | .PWR_DROOP_CONFIG => [F.PWR_DROOP_CONFIG.HOLD_CYCLES, F.PWR_DROOP_CONFIG.THRESH_MV]
  | .PWR_HB_CONFIG => [F.PWR_HB_CONFIG.COLLECTOR, F.PWR_HB_CONFIG.COLLECTOR_V, F.PWR_HB_CONFIG.COLLECT, F.PWR_HB_CONFIG.ENABLE]
  | .PWR_HB_TABLE => [F.PWR_HB_TABLE.BASE]
  | .PWR_SENSOR => [F.PWR_SENSOR.PEAK, F.PWR_SENSOR.TEMP]
  | .PWR_HB_PEER => [F.PWR_HB_PEER.CEILING_MHZ, F.PWR_HB_PEER.HOT_MAX, F.PWR_HB_PEER.FLAGS, F.PWR_HB_PEER.SEQ]
  | .CORE_PWR_STATUS => [F.CORE_PWR_STATUS.FMAX_MHZ, F.CORE_PWR_STATUS.AGED_MAX_MHZ, F.CORE_PWR_STATUS.FREQ_MHZ, F.CORE_PWR_STATUS.AGE_LIMIT, F.CORE_PWR_STATUS.GUARD_MV, F.CORE_PWR_STATUS.STRETCHED, F.CORE_PWR_STATUS.DUTY]
  | .CORE_DROOP_EVENTS => [F.CORE_DROOP_EVENTS.STRETCH_CYCLES, F.CORE_DROOP_EVENTS.DROOPS]
  | .SEC_STATUS => [F.SEC_STATUS.SIG_REMAINING, F.SEC_STATUS.OWNER_SET, F.SEC_STATUS.KEY_LOW, F.SEC_STATUS.FW_LOCK]
  | .SEC_FW_INFO => [F.SEC_FW_INFO.FW_VERSION, F.SEC_FW_INFO.BODY_LEN]
  | .SEC_FW_HOST => [F.SEC_FW_HOST.BASE]
  | .SEC_FW_CTRL => [F.SEC_FW_CTRL.KEY, F.SEC_FW_CTRL.LEN, F.SEC_FW_CTRL.FLASH, F.SEC_FW_CTRL.LOAD]
  | .SEC_ENGINE => [F.SEC_ENGINE.RESULT, F.SEC_ENGINE.LAST, F.SEC_ENGINE.BUSY]
  | .TOP_FAULT_CONFIG => [F.TOP_FAULT_CONFIG.DRAIN_LIMIT, F.TOP_FAULT_CONFIG.JOB_ACTION]
  | .TOP_FAULT_STATUS => [F.TOP_FAULT_STATUS.LOST, F.TOP_FAULT_STATUS.JOB_ERR]
  | .TOP_FAULT_PTRS => [F.TOP_FAULT_PTRS.TAIL, F.TOP_FAULT_PTRS.HEAD]
  | .TOP_FENCE_CMD => [F.TOP_FENCE_CMD.KEY, F.TOP_FENCE_CMD.SITE]
  | .TOP_FENCED => [F.TOP_FENCED.SITE]
  | .TOP_CORE_MAP => [F.TOP_CORE_MAP.ABSENT, F.TOP_CORE_MAP.SITE]
  | .CNT_CMD => [F.CNT_CMD.AT, F.CNT_CMD.SWAP]
  | .CNT_SWAP_AT => [F.CNT_SWAP_AT.TIME]
  | .CNT_STATUS => [F.CNT_STATUS.SWAP_SEQ, F.CNT_STATUS.AT_PAST, F.CNT_STATUS.PENDING]
  | .TBS_TIME => [F.TBS_TIME.TIME]
  | .TBS_STATUS => [F.TBS_STATUS.STEPPED]
  | .TRC_ENABLE => [F.TRC_ENABLE.GROUPS, F.TRC_ENABLE.TYPES]
  | .TRC_LAYER_FILTER => [F.TRC_LAYER_FILTER.LAST, F.TRC_LAYER_FILTER.FIRST]
  | .TRC_RING_BASE => [F.TRC_RING_BASE.BASE]
  | .TRC_RING_CTRL => [F.TRC_RING_CTRL.WATERMARK, F.TRC_RING_CTRL.MODE, F.TRC_RING_CTRL.ENABLE, F.TRC_RING_CTRL.LOG2]
  | .TRC_RING_PTRS => [F.TRC_RING_PTRS.TAIL, F.TRC_RING_PTRS.HEAD]
  | .TRC_RING_STATUS => [F.TRC_RING_STATUS.OVERWRITTEN, F.TRC_RING_STATUS.LOSS_EVENTS]
  | .TRC_HUSH_CTRL => [F.TRC_HUSH_CTRL.RESUME, F.TRC_HUSH_CTRL.TRIGGER, F.TRC_HUSH_CTRL.ON_MARK, F.TRC_HUSH_CTRL.ON_JOB_ERR, F.TRC_HUSH_CTRL.ON_UE]
  | .TRC_HUSH_MARK => [F.TRC_HUSH_MARK.VALUE]
  | .TRC_HUSH_STATUS => [F.TRC_HUSH_STATUS.SCANNED, F.TRC_HUSH_STATUS.CAUSE, F.TRC_HUSH_STATUS.STATE]
  | .TRC_HUSH_TIME => [F.TRC_HUSH_TIME.TIME]
  | .TRC_HUSH_SHIP => [F.TRC_HUSH_SHIP.ADDR]
  | .TRC_SNAP_PAGE => [F.TRC_SNAP_PAGE.PAGE]
  | .MGT_ID => [F.MGT_ID.STEPPING, F.MGT_ID.PART, F.MGT_ID.DEVICE_ID]
  | .MGT_STATE => [F.MGT_STATE.CAUSE, F.MGT_STATE.RAIL, F.MGT_STATE.FIXED, F.MGT_STATE.DEFAULTED, F.MGT_STATE.FAIL, F.MGT_STATE.PHASE]
  | .MGT_INPUT => [F.MGT_INPUT.VIN, F.MGT_INPUT.IIN, F.MGT_INPUT.PIN]
  | .MGT_THERMAL => [F.MGT_THERMAL.MEM_MAX, F.MGT_THERMAL.LID, F.MGT_THERMAL.HOT_SENSOR, F.MGT_THERMAL.HOT]
  | .MGT_POWER => [F.MGT_POWER.CEILING_MHZ, F.MGT_POWER.CAP_W, F.MGT_POWER.MEASURED, F.MGT_POWER.FIXED, F.MGT_POWER.THROTTLED]
  | .MGT_ALERT => [F.MGT_ALERT.READY, F.MGT_ALERT.FAULT, F.MGT_ALERT.TRIP, F.MGT_ALERT.BROWN_OUT, F.MGT_ALERT.INPUT_LOW, F.MGT_ALERT.THERMAL, F.MGT_ALERT.RAIL_FAIL]
  | .MGT_ALERT_ENABLE => [F.MGT_ALERT_ENABLE.ENABLE]
  | .CORE_DESC_SLOT => [F.CORE_DESC_SLOT.DATA]
  | .MSIX_ADDR => [F.MSIX_ADDR.ADDR]
  | .MSIX_CTRL => [F.MSIX_CTRL.MASK, F.MSIX_CTRL.DATA]
  | .MSIX_PBA => [F.MSIX_PBA.PENDING]
  | .SEC_FW_STATUS => [F.SEC_FW_STATUS.RESULT, F.SEC_FW_STATUS.LAST, F.SEC_FW_STATUS.BUSY]
  | .SEC_ATT_STATUS => [F.SEC_ATT_STATUS.INDEX, F.SEC_ATT_STATUS.RESULT, F.SEC_ATT_STATUS.LAST, F.SEC_ATT_STATUS.BUSY]
  | .SEC_DBG_STATUS => [F.SEC_DBG_STATUS.DENIED, F.SEC_DBG_STATUS.RIGHTS, F.SEC_DBG_STATUS.RESULT, F.SEC_DBG_STATUS.LAST, F.SEC_DBG_STATUS.BUSY]
  | .SEC_ATT_NONCE => [F.SEC_ATT_NONCE.DATA]
  | .SEC_ATT_CTRL => [F.SEC_ATT_CTRL.GO]
  | .SEC_DBG_CHALLENGE => [F.SEC_DBG_CHALLENGE.DATA]
  | .SEC_DBG_CTRL => [F.SEC_DBG_CTRL.CLOSE, F.SEC_DBG_CTRL.VERIFY]
  | .SEC_OWNER_CTRL => [F.SEC_OWNER_CTRL.KEY, F.SEC_OWNER_CTRL.FUSE]
  | .SEC_OWNER_KEY => [F.SEC_OWNER_KEY.DATA]
  | .SEC_ID_PUB => [F.SEC_ID_PUB.DATA]
  | .SEC_REPORT => [F.SEC_REPORT.DATA]
  | .SEC_CERT => [F.SEC_CERT.DATA]
  | .SEC_TOKEN => [F.SEC_TOKEN.DATA]
  | .TOP_FAULT_LOG => [F.TOP_FAULT_LOG.DATA]
  | .TRC_SNAP_WINDOW => [F.TRC_SNAP_WINDOW.DATA]
  | .CNT_CORE_FROZEN => [F.CNT_CORE_FROZEN.DATA]
  | .CNT_CORE_LIVE => [F.CNT_CORE_LIVE.DATA]
  | .CNT_PEER_FROZEN => [F.CNT_PEER_FROZEN.DATA]
  | .CNT_PEER_LIVE => [F.CNT_PEER_LIVE.DATA]
  | .CNT_CLUS_FROZEN => [F.CNT_CLUS_FROZEN.DATA]
  | .CNT_CLUS_LIVE => [F.CNT_CLUS_LIVE.DATA]
  | .CNT_RAKE_FROZEN => [F.CNT_RAKE_FROZEN.DATA]
  | .CNT_RAKE_LIVE => [F.CNT_RAKE_LIVE.DATA]
  | .CNT_COLL_FROZEN => [F.CNT_COLL_FROZEN.DATA]
  | .CNT_COLL_LIVE => [F.CNT_COLL_LIVE.DATA]
  | .CNT_LINK_FROZEN => [F.CNT_LINK_FROZEN.DATA]
  | .CNT_LINK_LIVE => [F.CNT_LINK_LIVE.DATA]

/-- The implemented bits of a register. -/
def Reg.mask : Reg → Nat
  | .TOP_NOC_CONFIG => 0xFFFF
  | .TOP_NOC_ERROR => 0x3F0000007F
  | .TOP_NOC_DROP_COUNT => 0xFFFFFFFF
  | .TOP_SR_SEED => 0xFFFFFFFFFFFFFFFF
  | .CORE_QNT_EVENTS => 0xFFFFFFFFFFFFFFFF
  | .CORE_ARRAY_CONFIG => 0xFFFF01
  | .CORE_ARRAY_STATUS => 0xFFFFFFFFFFFFFFFF
  | .CORE_ARRAY_EVENTS => 0xFFFFFFFFFFFFFFFF
  | .HIVE_COUNTER => 0xFFFFFFFFFFFFFFFF
  | .CORE_SEQ_CTRL => 0x7
  | .CORE_SEQ_PC => 0xFFFFFFFFFFFFFFF0
  | .CORE_SEQ_STATUS => 0xFF03
  | .CORE_SEQ_STEP => 0xFFFFFFFFFFFFFFFF
  | .CORE_TILE_REGS => 0xFFFFFFFFFFFFFFFF
  | .CORE_DESC_TABLE => 0xFFFFFFFFFFFFFFC0
  | .CORE_CC => 0xFFFFFFFF
  | .CORE_ERROR_RECORD => 0x80FFFFFC00000000
  | .CORE_ERROR_WHERE => 0xFFFFFFFF0000FFFF
  | .CORE_ERROR_PC => 0xFFFFFFFFFFFFFFFF
  | .CORE_SHAPE_EVENTS => 0x80000000FFFFFFFF
  | .CORE_DROP_COUNT => 0xFFFFFFFFFFFFFF
  | .CORE_BANK_OWNER => 0x7F7
  | .CORE_SCOUT_EVENTS => 0xFFFFFFFFFFFFFF00
  | .CORE_SCOUT_SKIP => 0xFFFFFFFFFFFFFFFF
  | .MOW_STATUS => 0xFFFFFFFF00FF0371
  | .MOW_EVENTS => 0xFFFFFFFFFFFFFFFF
  | .CORE_INDEX_EVENTS => 0xFFFFFFFFFFFFFFFF
  | .ANT_SPILL_BASE => 0x1FFFFFFFFC0
  | .ANT_SPILL_LIMIT => 0xFFFFFFFF
  | .ANT_SORT_BASE => 0x1FFFFFFFFC0
  | .ANT_STATUS => 0xFFFFFFFFFFFF0007
  | .ANT_EVENTS => 0xFFFFFFFFFFFFFFFF
  | .RAKE_RING_BASE => 0x1FFFFFFFFC0
  | .RAKE_RING_SIZE => 0x1F
  | .RAKE_RING_PTRS => 0xFFFFFFFFFFFFFFFF
  | .RAKE_CONFIG => 0x32
  | .RAKE_LOSS_PTR => 0x1FFFFFFFFE0
  | .RAKE_STATUS => 0xFFFFFFFFFF003F03
  | .RAKE_CTRL => 0x7
  | .RAKE_EVENTS => 0xFFFFFFFFFFFFFFFF
  | .RAKE_MISMATCH => 0x80007FFFFFFFFFFF
  | .RAKE_MISMATCH_STEP => 0xFFFFFFFF
  | .CORE_SHADOW_CONFIG => 0xFFFFFFFF00001F01
  | .CORE_SHADOW_HIST => 0x1FFFFFFFFC0
  | .CORE_SHADOW_LAYERS => 0xFFFFF000FFFFF
  | .CORE_SHADOW_EVENTS => 0xFFFFFFFFFFFFFFFF
  | .MEM_CH_CONFIG => 0xFFFF1F1F
  | .MEM_CH_STATUS => 0xFF0F
  | .MEM_CH_ERR_COUNT => 0xFFFFFFFFFFFFFFFF
  | .MEM_CH_UE_LOG => 0xC000000FFFFFFFFF
  | .MEM_CH_CE_LOG => 0xC0FFF00FFFFFFFFF
  | .MEM_TRAIN_STATUS => 0xFFFFFFFFFFFFFFFF
  | .MEM_SCRUB_CTRL => 0xFF
  | .MEM_SCRUB_STATUS => 0xFFFFFFFF0000FFFF
  | .MEM_MAP_EVENTS => 0xFFFF01FFFFFFFFE0
  | .MEM_FILL_BASE => 0x1FFFFFFFFE0
  | .MEM_FILL_CTRL => 0xC000000FFFFFFFFF
  | .FAB_CONFIG => 0xFFFF000D
  | .FAB_CLASS_WEIGHTS => 0xFFFFFF
  | .FAB_LAYOUT => 0xFFFFFFFF
  | .FAB_ERROR => 0xFFFC0000003FFF
  | .FAB_DROP_COUNT => 0xFFFFFFFF
  | .FAB_TIME_CONFIG => 0x7FFF0000FFFF
  | .FAB_TIME_STATUS => 0xFFFFFFFFFFFFFF3F
  | .FAB_ROUTE_DEV => 0xFFFC7FFF
  | .FAB_TREE => 0xFFFFFFFDFFFFFFC0
  | .FAB_TREE_LINKS => 0xFFFFFFFFFFFFFFFF
  | .FAB_LINK_CTRL => 0x3
  | .FAB_LINK_STATUS => 0xFFFFF80000000607
  | .FAB_LINK_ERR_COUNT => 0xFFFFFFFFFFFFFFFF
  | .FAB_LINK_FEC => 0xFFFFFFFFFFFFFFFF
  | .FAB_COLL_CONFIG => 0xFFFFFF01
  | .FAB_COLL_STATUS => 0xFF00000F03
  | .FAB_COLL_EVENTS => 0xFFFFFFFFFFFFFFFF
  | .FAB_POLL_EVENTS => 0xFFFFFFFFFFFFFFFF
  | .CORE_COLL_WAIT => 0xFFFFFFFFF0000000
  | .RST_CMD => 0xFFFF000000007F03
  | .HST_PCIE_STATUS => 0x1FF
  | .HST_IRQ_CAUSE => 0x1F
  | .HST_IRQ_ENABLE => 0x1F
  | .HST_SITE_CAUSE => 0xFFFFFFFFFFFFFFFF
  | .HST_ERROR => 0xF0F
  | .HST_WIN_BASE => 0xFFFFFFFFFFFFF000
  | .HST_WIN_SIZE => 0x13F
  | .HST_PTM_CTRL => 0x3FFFF
  | .HST_PTM_STATUS => 0xFFFFFFFFFFFFFFFF
  | .HST_PTM_OFFSET => 0xFFFFFFFFFFFFFFFF
  | .HST_RING_BASE => 0xFFFFFFFFFFFFF01F
  | .HST_CQ_BASE => 0xFFFFFFFFFFFFF01F
  | .HST_RING_PTRS => 0xFFFFFFFFFFFFFFFF
  | .HST_CQ_PTRS => 0xFFFFFFFFFFFFFFFF
  | .HST_RING_CTRL => 0xFFFFFFFF0000000F
  | .RST_STRAPS => 0x10F
  | .RST_CAUSE => 0xF37F0F03
  | .RST_PHASE => 0xFF3F
  | .RST_CTRL => 0x1
  | .RST_SWEEP => 0xFFFFFF
  | .OPT_STATUS => 0xFFFFFFFF00000303
  | .OPT_CTRL => 0xFFFF000000000001
  | .OPT_IMAGE => 0xFFFFFFFFFFFFFFFF
  | .OPT_STAGE => 0xFFFFFFFFFFFFFFFF
  | .PWR_CAP_LIMIT => 0x3FF
  | .PWR_FREQ_CTRL => 0x1FFFFFFFF
  | .PWR_STATUS => 0xFFFF83FF03FFFF01
  | .PWR_EVENT => 0xFF03FC
  | .PWR_MISMATCH_LOG => 0xFFFFFFFFFFFFFFFF
  | .PWR_DROOP_CONFIG => 0xFFFF
  | .PWR_HB_CONFIG => 0x7FFF00000007
  | .PWR_HB_TABLE => 0x1FFFFFFFFE0
  | .PWR_SENSOR => 0xFFFFFFFF
  | .PWR_HB_PEER => 0xFFFFFFFFFFFFFFFF
  | .CORE_PWR_STATUS => 0xFFFFFFFFFFFF9FFF
  | .CORE_DROOP_EVENTS => 0xFFFFFFFFFFFFFFFF
  | .SEC_STATUS => 0x1FFFFF000000E0
  | .SEC_FW_INFO => 0xFFFFFFFFFFFFFFFF
  | .SEC_FW_HOST => 0xFFFFFFFFFFFFF000
  | .SEC_FW_CTRL => 0xFFFF00FFFFFF0003
  | .SEC_ENGINE => 0xFF07
  | .TOP_FAULT_CONFIG => 0xFFFF0003
  | .TOP_FAULT_STATUS => 0xFFFF0001
  | .TOP_FAULT_PTRS => 0xFF000000FF
  | .TOP_FENCE_CMD => 0xFFFF0000000000FF
  | .TOP_FENCED => 0xFFFFFFFFFFFFFFFF
  | .TOP_CORE_MAP => 0x1FF
  | .CNT_CMD => 0x3
  | .CNT_SWAP_AT => 0xFFFFFFFFFFFFFFFF
  | .CNT_STATUS => 0xFFFFFFFF00000006
  | .TBS_TIME => 0xFFFFFFFFFFFFFFFF
  | .TBS_STATUS => 0x1
  | .TRC_ENABLE => 0x3F0000FFFF
  | .TRC_LAYER_FILTER => 0xFFFFF000FFFFF
  | .TRC_RING_BASE => 0xFFFFFFFFFFFFFFE0
  | .TRC_RING_CTRL => 0xF7F
  | .TRC_RING_PTRS => 0xFFFFFFFFFFFFFFFF
  | .TRC_RING_STATUS => 0xFFFFFFFFFFFFFFFF
  | .TRC_HUSH_CTRL => 0x37
  | .TRC_HUSH_MARK => 0xFFFFFFFF
  | .TRC_HUSH_STATUS => 0xFFFFFFFF0000FF07
  | .TRC_HUSH_TIME => 0xFFFFFFFFFFFFFFFF
  | .TRC_HUSH_SHIP => 0xFFFFFFFFFFFFFFE0
  | .TRC_SNAP_PAGE => 0x7FF
  | .MGT_ID => 0xFFFFFF00007FFF
  | .MGT_STATE => 0xFFFFFFFFFF03FF0F
  | .MGT_INPUT => 0xFFFFFFFFFFFF0000
  | .MGT_THERMAL => 0xFF00FFFF001FFFFF
  | .MGT_POWER => 0xFFFF03FF00000007
  | .MGT_ALERT => 0x7F
  | .MGT_ALERT_ENABLE => 0x7F
  | .CORE_DESC_SLOT => 0xFFFFFFFFFFFFFFFF
  | .MSIX_ADDR => 0xFFFFFFFFFFFFFFFF
  | .MSIX_CTRL => 0x1FFFFFFFF
  | .MSIX_PBA => 0xFFFFFFFFFFFFFFFF
  | .SEC_FW_STATUS => 0xFF07
  | .SEC_ATT_STATUS => 0xFFFFFFFF0000FF07
  | .SEC_DBG_STATUS => 0xFFFF00000007FF07
  | .SEC_ATT_NONCE => 0xFFFFFFFFFFFFFFFF
  | .SEC_ATT_CTRL => 0x1
  | .SEC_DBG_CHALLENGE => 0xFFFFFFFFFFFFFFFF
  | .SEC_DBG_CTRL => 0x3
  | .SEC_OWNER_CTRL => 0xFFFF000000000001
  | .SEC_OWNER_KEY => 0xFFFFFFFFFFFFFFFF
  | .SEC_ID_PUB => 0xFFFFFFFFFFFFFFFF
  | .SEC_REPORT => 0xFFFFFFFFFFFFFFFF
  | .SEC_CERT => 0xFFFFFFFFFFFFFFFF
  | .SEC_TOKEN => 0xFFFFFFFFFFFFFFFF
  | .TOP_FAULT_LOG => 0xFFFFFFFFFFFFFFFF
  | .TRC_SNAP_WINDOW => 0xFFFFFFFFFFFFFFFF
  | .CNT_CORE_FROZEN => 0xFFFFFFFFFFFFFFFF
  | .CNT_CORE_LIVE => 0xFFFFFFFFFFFFFFFF
  | .CNT_PEER_FROZEN => 0xFFFFFFFFFFFFFFFF
  | .CNT_PEER_LIVE => 0xFFFFFFFFFFFFFFFF
  | .CNT_CLUS_FROZEN => 0xFFFFFFFFFFFFFFFF
  | .CNT_CLUS_LIVE => 0xFFFFFFFFFFFFFFFF
  | .CNT_RAKE_FROZEN => 0xFFFFFFFFFFFFFFFF
  | .CNT_RAKE_LIVE => 0xFFFFFFFFFFFFFFFF
  | .CNT_COLL_FROZEN => 0xFFFFFFFFFFFFFFFF
  | .CNT_COLL_LIVE => 0xFFFFFFFFFFFFFFFF
  | .CNT_LINK_FROZEN => 0xFFFFFFFFFFFFFFFF
  | .CNT_LINK_LIVE => 0xFFFFFFFFFFFFFFFF

/-- The value of a register after a cold reset. -/
def Reg.resetVal : Reg → Nat
  | .TOP_NOC_CONFIG => 0x40
  | .TOP_NOC_ERROR => 0x0
  | .TOP_NOC_DROP_COUNT => 0x0
  | .TOP_SR_SEED => 0x0
  | .CORE_QNT_EVENTS => 0x0
  | .CORE_ARRAY_CONFIG => 0x4000
  | .CORE_ARRAY_STATUS => 0x0
  | .CORE_ARRAY_EVENTS => 0x0
  | .HIVE_COUNTER => 0x0
  | .CORE_SEQ_CTRL => 0x0
  | .CORE_SEQ_PC => 0x0
  | .CORE_SEQ_STATUS => 0x0
  | .CORE_SEQ_STEP => 0x0
  | .CORE_TILE_REGS => 0x0
  | .CORE_DESC_TABLE => 0x0
  | .CORE_CC => 0x0
  | .CORE_ERROR_RECORD => 0x0
  | .CORE_ERROR_WHERE => 0x0
  | .CORE_ERROR_PC => 0x0
  | .CORE_SHAPE_EVENTS => 0x0
  | .CORE_DROP_COUNT => 0x0
  | .CORE_BANK_OWNER => 0x1
  | .CORE_SCOUT_EVENTS => 0x0
  | .CORE_SCOUT_SKIP => 0x0
  | .MOW_STATUS => 0x0
  | .MOW_EVENTS => 0x0
  | .CORE_INDEX_EVENTS => 0x0
  | .ANT_SPILL_BASE => 0x0
  | .ANT_SPILL_LIMIT => 0x0
  | .ANT_SORT_BASE => 0x0
  | .ANT_STATUS => 0x0
  | .ANT_EVENTS => 0x0
  | .RAKE_RING_BASE => 0x0
  | .RAKE_RING_SIZE => 0x4
  | .RAKE_RING_PTRS => 0x0
  | .RAKE_CONFIG => 0x0
  | .RAKE_LOSS_PTR => 0x0
  | .RAKE_STATUS => 0x0
  | .RAKE_CTRL => 0x0
  | .RAKE_EVENTS => 0x0
  | .RAKE_MISMATCH => 0x0
  | .RAKE_MISMATCH_STEP => 0x0
  | .CORE_SHADOW_CONFIG => 0x3380000000000A00
  | .CORE_SHADOW_HIST => 0x0
  | .CORE_SHADOW_LAYERS => 0x0
  | .CORE_SHADOW_EVENTS => 0x0
  | .MEM_CH_CONFIG => 0x1000000
  | .MEM_CH_STATUS => 0x0
  | .MEM_CH_ERR_COUNT => 0x0
  | .MEM_CH_UE_LOG => 0x0
  | .MEM_CH_CE_LOG => 0x0
  | .MEM_TRAIN_STATUS => 0x0
  | .MEM_SCRUB_CTRL => 0x0
  | .MEM_SCRUB_STATUS => 0x0
  | .MEM_MAP_EVENTS => 0x0
  | .MEM_FILL_BASE => 0x0
  | .MEM_FILL_CTRL => 0x0
  | .FAB_CONFIG => 0xC3500000
  | .FAB_CLASS_WEIGHTS => 0x20408
  | .FAB_LAYOUT => 0x0
  | .FAB_ERROR => 0x0
  | .FAB_DROP_COUNT => 0x0
  | .FAB_TIME_CONFIG => 0xA
  | .FAB_TIME_STATUS => 0x3F00
  | .FAB_ROUTE_DEV => 0x0
  | .FAB_TREE => 0x0
  | .FAB_TREE_LINKS => 0x0
  | .FAB_LINK_CTRL => 0x1
  | .FAB_LINK_STATUS => 0x0
  | .FAB_LINK_ERR_COUNT => 0x0
  | .FAB_LINK_FEC => 0x0
  | .FAB_COLL_CONFIG => 0x4004000
  | .FAB_COLL_STATUS => 0x0
  | .FAB_COLL_EVENTS => 0x0
  | .FAB_POLL_EVENTS => 0x0
  | .CORE_COLL_WAIT => 0x0
  | .RST_CMD => 0x0
  | .HST_PCIE_STATUS => 0x0
  | .HST_IRQ_CAUSE => 0x0
  | .HST_IRQ_ENABLE => 0x1F
  | .HST_SITE_CAUSE => 0x0
  | .HST_ERROR => 0x0
  | .HST_WIN_BASE => 0x0
  | .HST_WIN_SIZE => 0xC
  | .HST_PTM_CTRL => 0xA
  | .HST_PTM_STATUS => 0x0
  | .HST_PTM_OFFSET => 0x0
  | .HST_RING_BASE => 0x4
  | .HST_CQ_BASE => 0x4
  | .HST_RING_PTRS => 0x0
  | .HST_CQ_PTRS => 0x0
  | .HST_RING_CTRL => 0x4010000000000
  | .RST_STRAPS => 0x0
  | .RST_CAUSE => 0x10000900
  | .RST_PHASE => 0x1
  | .RST_CTRL => 0x0
  | .RST_SWEEP => 0x0
  | .OPT_STATUS => 0x0
  | .OPT_CTRL => 0x0
  | .OPT_IMAGE => 0x0
  | .OPT_STAGE => 0x0
  | .PWR_CAP_LIMIT => 0x0
  | .PWR_FREQ_CTRL => 0x79E06A4
  | .PWR_STATUS => 0x6A4000000000000
  | .PWR_EVENT => 0x0
  | .PWR_MISMATCH_LOG => 0x0
  | .PWR_DROOP_CONFIG => 0x2028
  | .PWR_HB_CONFIG => 0x1
  | .PWR_HB_TABLE => 0x0
  | .PWR_SENSOR => 0x0
  | .PWR_HB_PEER => 0x0
  | .CORE_PWR_STATUS => 0x6A40040
  | .CORE_DROOP_EVENTS => 0x0
  | .SEC_STATUS => 0x0
  | .SEC_FW_INFO => 0x0
  | .SEC_FW_HOST => 0x0
  | .SEC_FW_CTRL => 0x0
  | .SEC_ENGINE => 0x0
  | .TOP_FAULT_CONFIG => 0x640000
  | .TOP_FAULT_STATUS => 0x0
  | .TOP_FAULT_PTRS => 0x0
  | .TOP_FENCE_CMD => 0x0
  | .TOP_FENCED => 0x0
  | .TOP_CORE_MAP => 0x1FF
  | .CNT_CMD => 0x0
  | .CNT_SWAP_AT => 0x0
  | .CNT_STATUS => 0x0
  | .TBS_TIME => 0x0
  | .TBS_STATUS => 0x0
  | .TRC_ENABLE => 0x0
  | .TRC_LAYER_FILTER => 0xFFFFF00000000
  | .TRC_RING_BASE => 0x0
  | .TRC_RING_CTRL => 0x810
  | .TRC_RING_PTRS => 0x0
  | .TRC_RING_STATUS => 0x0
  | .TRC_HUSH_CTRL => 0x0
  | .TRC_HUSH_MARK => 0x0
  | .TRC_HUSH_STATUS => 0x0
  | .TRC_HUSH_TIME => 0x0
  | .TRC_HUSH_SHIP => 0x0
  | .TRC_SNAP_PAGE => 0x0
  | .MGT_ID => 0xB0410000000000
  | .MGT_STATE => 0x10000900FF000001
  | .MGT_INPUT => 0x0
  | .MGT_THERMAL => 0x0
  | .MGT_POWER => 0x6A4000000000000
  | .MGT_ALERT => 0x0
  | .MGT_ALERT_ENABLE => 0x7F
  | .CORE_DESC_SLOT => 0x0
  | .MSIX_ADDR => 0x0
  | .MSIX_CTRL => 0x100000000
  | .MSIX_PBA => 0x0
  | .SEC_FW_STATUS => 0x0
  | .SEC_ATT_STATUS => 0x0
  | .SEC_DBG_STATUS => 0x0
  | .SEC_ATT_NONCE => 0x0
  | .SEC_ATT_CTRL => 0x0
  | .SEC_DBG_CHALLENGE => 0x0
  | .SEC_DBG_CTRL => 0x0
  | .SEC_OWNER_CTRL => 0x0
  | .SEC_OWNER_KEY => 0x0
  | .SEC_ID_PUB => 0x0
  | .SEC_REPORT => 0x0
  | .SEC_CERT => 0x0
  | .SEC_TOKEN => 0x0
  | .TOP_FAULT_LOG => 0x0
  | .TRC_SNAP_WINDOW => 0x0
  | .CNT_CORE_FROZEN => 0x0
  | .CNT_CORE_LIVE => 0x0
  | .CNT_PEER_FROZEN => 0x0
  | .CNT_PEER_LIVE => 0x0
  | .CNT_CLUS_FROZEN => 0x0
  | .CNT_CLUS_LIVE => 0x0
  | .CNT_RAKE_FROZEN => 0x0
  | .CNT_RAKE_LIVE => 0x0
  | .CNT_COLL_FROZEN => 0x0
  | .CNT_COLL_LIVE => 0x0
  | .CNT_LINK_FROZEN => 0x0
  | .CNT_LINK_LIVE => 0x0

def Reg.part0 : List Reg :=
  [.TOP_NOC_CONFIG, .TOP_NOC_ERROR, .TOP_NOC_DROP_COUNT, .TOP_SR_SEED, .CORE_QNT_EVENTS, .CORE_ARRAY_CONFIG, .CORE_ARRAY_STATUS, .CORE_ARRAY_EVENTS, .HIVE_COUNTER, .CORE_SEQ_CTRL, .CORE_SEQ_PC, .CORE_SEQ_STATUS, .CORE_SEQ_STEP, .CORE_TILE_REGS, .CORE_DESC_TABLE, .CORE_CC, .CORE_ERROR_RECORD, .CORE_ERROR_WHERE, .CORE_ERROR_PC, .CORE_SHAPE_EVENTS, .CORE_DROP_COUNT, .CORE_BANK_OWNER, .CORE_SCOUT_EVENTS, .CORE_SCOUT_SKIP, .MOW_STATUS, .MOW_EVENTS, .CORE_INDEX_EVENTS, .ANT_SPILL_BASE, .ANT_SPILL_LIMIT, .ANT_SORT_BASE]
def Reg.part1 : List Reg :=
  [.ANT_STATUS, .ANT_EVENTS, .RAKE_RING_BASE, .RAKE_RING_SIZE, .RAKE_RING_PTRS, .RAKE_CONFIG, .RAKE_LOSS_PTR, .RAKE_STATUS, .RAKE_CTRL, .RAKE_EVENTS, .RAKE_MISMATCH, .RAKE_MISMATCH_STEP, .CORE_SHADOW_CONFIG, .CORE_SHADOW_HIST, .CORE_SHADOW_LAYERS, .CORE_SHADOW_EVENTS, .MEM_CH_CONFIG, .MEM_CH_STATUS, .MEM_CH_ERR_COUNT, .MEM_CH_UE_LOG, .MEM_CH_CE_LOG, .MEM_TRAIN_STATUS, .MEM_SCRUB_CTRL, .MEM_SCRUB_STATUS, .MEM_MAP_EVENTS, .MEM_FILL_BASE, .MEM_FILL_CTRL, .FAB_CONFIG, .FAB_CLASS_WEIGHTS, .FAB_LAYOUT]
def Reg.part2 : List Reg :=
  [.FAB_ERROR, .FAB_DROP_COUNT, .FAB_TIME_CONFIG, .FAB_TIME_STATUS, .FAB_ROUTE_DEV, .FAB_TREE, .FAB_TREE_LINKS, .FAB_LINK_CTRL, .FAB_LINK_STATUS, .FAB_LINK_ERR_COUNT, .FAB_LINK_FEC, .FAB_COLL_CONFIG, .FAB_COLL_STATUS, .FAB_COLL_EVENTS, .FAB_POLL_EVENTS, .CORE_COLL_WAIT, .RST_CMD, .HST_PCIE_STATUS, .HST_IRQ_CAUSE, .HST_IRQ_ENABLE, .HST_SITE_CAUSE, .HST_ERROR, .HST_WIN_BASE, .HST_WIN_SIZE, .HST_PTM_CTRL, .HST_PTM_STATUS, .HST_PTM_OFFSET, .HST_RING_BASE, .HST_CQ_BASE, .HST_RING_PTRS]
def Reg.part3 : List Reg :=
  [.HST_CQ_PTRS, .HST_RING_CTRL, .RST_STRAPS, .RST_CAUSE, .RST_PHASE, .RST_CTRL, .RST_SWEEP, .OPT_STATUS, .OPT_CTRL, .OPT_IMAGE, .OPT_STAGE, .PWR_CAP_LIMIT, .PWR_FREQ_CTRL, .PWR_STATUS, .PWR_EVENT, .PWR_MISMATCH_LOG, .PWR_DROOP_CONFIG, .PWR_HB_CONFIG, .PWR_HB_TABLE, .PWR_SENSOR, .PWR_HB_PEER, .CORE_PWR_STATUS, .CORE_DROOP_EVENTS, .SEC_STATUS, .SEC_FW_INFO, .SEC_FW_HOST, .SEC_FW_CTRL, .SEC_ENGINE, .TOP_FAULT_CONFIG, .TOP_FAULT_STATUS]
def Reg.part4 : List Reg :=
  [.TOP_FAULT_PTRS, .TOP_FENCE_CMD, .TOP_FENCED, .TOP_CORE_MAP, .CNT_CMD, .CNT_SWAP_AT, .CNT_STATUS, .TBS_TIME, .TBS_STATUS, .TRC_ENABLE, .TRC_LAYER_FILTER, .TRC_RING_BASE, .TRC_RING_CTRL, .TRC_RING_PTRS, .TRC_RING_STATUS, .TRC_HUSH_CTRL, .TRC_HUSH_MARK, .TRC_HUSH_STATUS, .TRC_HUSH_TIME, .TRC_HUSH_SHIP, .TRC_SNAP_PAGE, .MGT_ID, .MGT_STATE, .MGT_INPUT, .MGT_THERMAL, .MGT_POWER, .MGT_ALERT, .MGT_ALERT_ENABLE, .CORE_DESC_SLOT, .MSIX_ADDR]
def Reg.part5 : List Reg :=
  [.MSIX_CTRL, .MSIX_PBA, .SEC_FW_STATUS, .SEC_ATT_STATUS, .SEC_DBG_STATUS, .SEC_ATT_NONCE, .SEC_ATT_CTRL, .SEC_DBG_CHALLENGE, .SEC_DBG_CTRL, .SEC_OWNER_CTRL, .SEC_OWNER_KEY, .SEC_ID_PUB, .SEC_REPORT, .SEC_CERT, .SEC_TOKEN, .TOP_FAULT_LOG, .TRC_SNAP_WINDOW, .CNT_CORE_FROZEN, .CNT_CORE_LIVE, .CNT_PEER_FROZEN, .CNT_PEER_LIVE, .CNT_CLUS_FROZEN, .CNT_CLUS_LIVE, .CNT_RAKE_FROZEN, .CNT_RAKE_LIVE, .CNT_COLL_FROZEN, .CNT_COLL_LIVE, .CNT_LINK_FROZEN, .CNT_LINK_LIVE]

/-- Every register. -/
def Reg.all : List Reg := Reg.part0 ++ Reg.part1 ++ Reg.part2 ++ Reg.part3 ++ Reg.part4 ++ Reg.part5

/-- The address of a register word. -/
def Reg.addr (r : Reg) (i j : Nat) : Nat := r.place.base + i * r.place.istride + j * r.place.stride

/-- The register, instance and array index at an offset that a register occupies. -/
def Reg.find (a : Nat) : Option (Reg × Nat × Nat) :=
  Reg.all.findSome? (fun r =>
    let p := r.place
    if a < p.base then none
    else
      let d := a - p.base
      let i := if p.istride = 0 then 0 else d / p.istride
      let e := if p.istride = 0 then d else d % p.istride
      -- clusters 8 and 17 hold no Hive counters (01 R23)
      let absent := r == .HIVE_COUNTER && (i == 8 || i == 17)
      if i < p.insts && e % p.stride = 0 && e / p.stride < p.cnt && !absent then some (r, i, e / p.stride) else none)

end Sys2Proof.Machine
end

