-- ==== Sys2Proof/Machine/State.lean ====
section
/-!
DEFINITION. The state of the block as plain data: the register file, memory with its check codes, the sites, clusters and
engines with what they hold between commands, the messages emitted, and the queue of waiting commands; the state after
reset; the closed types of faults and refusals.
-/
namespace Sys2Proof.Machine

/-- Ways a step may stop with a fault. Nobody raises one: no rule of the spec stops the block, every error it describes is
recorded in State and the block goes on. -/
inductive Fault where
  /-- Raised by no meaning; safe, since a model without faults stops nowhere. -/
  | none
deriving DecidableEq, Repr

/-- Ways a command may be refused. -/
inductive Refusal where
  /-- Raised by an arm of `exec` for a command that has no meaning yet; safe: nothing is claimed of it. -/
  | notModelled (mnemonic : String)
deriving DecidableEq, Repr

/-- A register word: the register, its instance and its index within the instance. -/
structure RegKey where
  reg  : Reg
  inst : Nat
  idx  : Nat
deriving DecidableEq, Repr

/-- The order in which the register file lists its entries. -/
def RegKey.lt (a b : RegKey) : Bool :=
  decide (a.reg.ctorIdx < b.reg.ctorIdx) ||
    (a.reg.ctorIdx == b.reg.ctorIdx && (decide (a.inst < b.inst) || (a.inst == b.inst && decide (a.idx < b.idx))))

/-- A descriptor, eight words (05 R141). -/
abbrev DescWords := List Word

/-- Who awaits the answer of a request that left the device: an instruction of a core, a host ring, the collective engine, the
trace merger, Hush, the heartbeat, the prefetch engine, the memory-window path of the host or a fabric packet. -/
inductive Origin where
  | core (s : SiteId) (u : CoreUnit) (pc : Word)
  | ring (r : RingId)
  | fetch (r : RingId)
  /-- nobody any longer -/
  | gone
  | coll (id : Nat)
  | trace
  | hush
  | heartbeat
  | prefetch (s : SiteId)
  | firmware
  | fabric (p : Packet)
  /-- a flush read of a core's FENCE, with the consumer unit code of the writes -/
  | flush (s : SiteId) (unit : Nat)
deriving DecidableEq, Repr

/-- Where an instruction in flight stands: its effects are made and its completion is awaited; it waits in its unit's queue;
or it waits for granules of other devices or of the host, with those that have arrived. -/
inductive FPhase where
  | done
  | queued
  | remote (want : List Nat) (got : List (Nat × Gran))
deriving DecidableEq, Repr

/-- An instruction that has issued and not completed, with what it copied at issue (05 R131 to R133). -/
structure Flight where
  unit  : CoreUnit
  word  : IWord
  pc    : Word
  step  : Nat
  epoch : Nat
  tregs : List Nat
  descs : List DescWords
  phase : FPhase
  /-- the number of a COLL at the collective engine -/
  tag   : Nat := 0
  /-- its place in the order of issue among the core's instructions in flight -/
  seq   : Nat := 0
  /-- the granules (local offset ÷ 32) that its action changed, before and after: should it be aborted, they hold whatever part was
  written -/
  touched : List (Nat × Gran × Gran) := []
  /-- the number of the head of the batch that it belongs to (04 R121) -/
  batch   : Option Nat := none
  /-- granules of other devices, host windows or registers that it needs and that a lost seam channel keeps it from asking (01 R17) -/
  unasked : List Nat := []
deriving DecidableEq, Repr

/-- A tile active in the cells of an array, with what the last MMA that named it copied for its park adds (04 R115, R116). -/
structure Active where
  tile  : Nat
  int   : Bool
  cells : List (BitVec 32)
  step  : Nat
  /-- per row of the array: the Y descriptor words of its MMA, its row number in it, and the step that this MMA copied -/
  rows  : List (DescWords × Nat × Nat)
  nbase : Nat
  /-- ACC_MODE as the tile became active (04 R120) -/
  mode  : Bool
deriving DecidableEq, Repr

/-- The transfer registers of an array (04 R115, R127). -/
structure Xfer where
  busy  : Bool := false
  dir   : Bool := false
  held  : Bool := false
  tile  : Nat := 0
  /-- the elements of an unparked tile; none where their granule failed (04 R105) -/
  cells : List (Option (BitVec 32)) := []
deriving DecidableEq, Repr

/-- One array: its active tile, its transfer registers, the pass counts of its 32 tiles (02 R67) and the tiles that start anew. -/
structure ArrayState where
  act  : Option Active := none
  xfer : Xfer := {}
  pass : List Nat := List.replicate 32 0
  /-- tiles that ZERO made active in LONG and that no park add has written since: the next one takes the parked value as +0 (04 R116) -/
  zeroed : List Nat := []
deriving DecidableEq, Repr

/-- One column entry of the weight buffers: two values with their offsets in the K-group, the scale of its HB4 block, and
whether the entry closes that block (04 R100, R103). -/
structure WEntry where
  v0    : FVal
  o0    : Nat
  v1    : FVal
  o1    : Nat
  scale : FVal
  close : Bool
deriving DecidableEq, Repr

/-- The weights of an array instruction: its K-groups in the order in which they enter, each with its first reduction position
and, for each of the 32 columns, its entries in cycle order (04 R101, R102). -/
abbrev WGroups := List (Nat × List (List WEntry))

/-- The weights of an MMA whose whole K fits one copy, and what a new MMA must match to use them (04 R108). -/
structure Resident where
  opcode : Nat
  slot   : Nat
  xfmt   : Nat
  first  : Nat
  kfirst : Nat
  klen   : Nat
  groups : WGroups
deriving DecidableEq, Repr

/-- An outstanding HIVE.TAKE (05 R134, R152): `reply` holds the reply once the counter has served it. -/
structure Take where
  tn    : Nat
  hive  : Nat
  set   : Bool
  arg   : Nat
  reply : Option Nat
deriving DecidableEq, Repr

/-- What a core or a collective waits on (12 R369): its kind, whether a peer is named, the peer and the tag. -/
structure WaitOn where
  kind  : Nat
  peerV : Bool
  peer  : Nat
  tag   : Nat
deriving DecidableEq, Repr

/-- A range of local offsets in which granules of a collective's results must still be written on this device. -/
structure Landing where
  lo   : Nat
  hi   : Nat
  left : Nat
deriving DecidableEq, Repr

/-- A choice of the Pollinator (12 R357 to R360): token, choice index, home rank, local index, gate (its FP32 bits), and
the slot that it was granted in its round. -/
structure Choice where
  tok   : Nat
  i     : Nat
  home  : Nat
  x     : Nat
  gate  : Nat
  slot  : Option Nat
  round : Nat
deriving DecidableEq, Repr

/-- A collective in execution (12 R336 to R345): its queue entry, its record and tables as read at its start, how far it is,
and what it still awaits. -/
structure CollRun where
  id     : Nat
  site   : SiteId
  flight : Flight
  record : List Word
  /-- the time of its issue (12 R353) -/
  issued : Nat := 0
  group  : List Nat := []
  rank   : Nat := 0
  /-- FIRST, COUNT and DEST of each segment -/
  segs   : List (Nat × Nat × Nat) := []
  /-- the four words of each tree entry -/
  trees  : List (List Nat) := []
  round  : Nat := 0
  stage  : Nat := 0
  /-- SEQ of its barrier key -/
  seq    : Nat := 0
  /-- REDUCE packets that wait for their round and the window (12 R344, R346), each with its round -/
  todo   : List (Nat × Packet) := []
  /-- MCAST trees whose source part is still to be sent: round and tag -/
  casts  : List (Nat × Nat) := []
  /-- the barrier key that it waits on: tag, SEQ, round -/
  bkey   : Option (Nat × Nat × Nat) := none
  need   : List Landing := []
  /-- fingerprint granules that must still land, counted from its start (12 R354) -/
  fp     : List Landing := []
  poison : Nat := 0
  status : Nat := 0
  wait   : WaitOn := ⟨0, false, 0, 0⟩
  choices : List Choice := []
  /-- fallbacks: per token, the experts of rank K onwards -/
  spare  : List Choice := []
  /-- as a home: first free slot of each local expert (12 R358) -/
  used   : List Nat := []
  /-- deferred gradient headers that its NFSYNC barrier writes (12 R349) -/
  nfs    : List (Word × List Byte × Bool) := []
  /-- of a copy that reads other devices: the granules that it needs and those that have arrived -/
  want   : List Nat := []
  got    : List (Nat × Gran) := []
  /-- complete, but an earlier collective of its core is not -/
  ended  : Bool := false
  /-- a copy that runs beside the core's order and writes no record: of HINT, or a slot replaced under ADOPT (09 R268) -/
  bg     : Bool := false
deriving DecidableEq, Repr

/-- A core site beside its registers (04, 05). -/
structure Site where
  flights  : List Flight := []
  rows     : List Flight := []
  arrays   : Vector ArrayState 4 := Vector.replicate 4 {}
  resident : Option Resident := none
  takes    : List Take := []
  /-- the armed hint (12 R370, R371): the run that its copy will be -/
  hint     : Option CollRun := none
  /-- Mower instructions in flight that did their work without error, with their WEPOCH (07 R221) -/
  mowed    : List (Nat × Nat) := []
  /-- host windows written since the last flush, each with the consumer unit that wrote it (14 R392) -/
  unseen   : List (Nat × Nat) := []
  /-- the clock is stretched (16 R430), and HOLD_CYCLES as the droop began (16 R438) -/
  stretched : Bool := false
  hold     : Nat := 0
  /-- the addresses of the instructions in the instruction buffer, oldest first (05 R129, R130) -/
  buffer   : List Nat := []
  /-- the draw of the free values that its cycle counters held when it was fenced (the model's own; 01 R41, R43), and when its clock then
  stopped -/
  heldAt   : Nat := 0
  stopAt   : Nat := 0
  /-- the instruction that CORE_COLL_WAIT speaks of: its tags go into the WAIT event (19 R479) -/
  waits    : IWord := 0
  /-- FAB_COLL_CONFIG.WAIT_POLICY as that wait began (12 R370, 20 R497) -/
  policy   : Nat := 0
deriving DecidableEq, Repr

/-- An Anthill entry (08 R237). -/
structure AntEntry where
  ctx     : Nat
  granule : Nat
  lane    : Nat
  lanes   : Nat
  ord     : Bool
  order   : Nat
  run     : Nat
  index   : Nat
  count   : Nat
  age     : Nat
  way     : Nat
  val     : Gran
deriving DecidableEq, Repr

/-- A line of the last-level cache that its slice has written since LPDDR6 held what it holds (01 R35): its number, and what LPDDR6 may
hold of its four granules, oldest first: the slice writes a line back when it likes, so that any content since is possible (log 126). -/
structure LlcLine where
  line : Nat
  olds : List (List Gran)
deriving DecidableEq, Repr

/-- A cluster beside its registers: its Anthill and the disabled ways of its Anthill and cache slice (08, 15). -/
structure Cluster where
  ant     : List AntEntry := []
  /-- ways of the Anthill and of the cache slice that the sweep disabled in every set (15 R405) -/
  antOff  : List Nat := []
  llcOff  : List Nat := []
  /-- lines that its cache slice may hold dirty (01 R35) -/
  llc     : List LlcLine := []
  /-- the next allocation age of the Anthill (08 R237) -/
  age     : Nat := 0
  /-- records written since the Anthill's last reset (08 R239 SEQ) -/
  seq     : Nat := 0
  /-- records of the spill region that are dead (08 R242, R520), by index -/
  dead    : List Nat := []
  /-- the Mower's instructions in order of arrival, the first in execution: site and number (07 R196) -/
  mow     : List (Nat × Nat) := []
deriving DecidableEq, Repr

/-- Contributions of an on-chip reduction held at a stop, or at the destination core (none), with their inputs in the order of the
fold (01 R28 to R33). -/
structure NocHold where
  stop  : Option Nat
  parts : List (Nat × NocPacket)
  /-- RED_TIMEOUT as the wait began (01 R44) -/
  limit : Nat
  /-- the tree as the wait began (01 R33): the inputs of the stop that carry contributions -/
  ins   : List Nat := []
  /-- at the destination, the number of present contributors as the wait began -/
  need  : Nat := 0
deriving DecidableEq, Repr

/-- A reduction packet that waits in the input buffer of a stop for a merge slot, or behind one that does (01 R34). -/
structure NocStall where
  stop   : Nat
  input  : Nat
  packet : NocPacket
deriving DecidableEq, Repr

/-- A contribution of SCATTER.ADD on its way to its home Anthill: the site and the number of the instruction that sent it (01 R22,
08 R241). -/
structure NocInsert where
  site : SiteId
  seq  : Nat
  pkt  : Contribution
deriving DecidableEq, Repr

/-- What waits in the queue of a core whose clock Hush has stopped (01 R41): granules of a multicast or reduction for its scratchpad, from a
first one on, with whether they are recorded as POISON; a granule for its window that the fabric brings; a signal to a counter. -/
inductive NocDeliver where
  | grans (site : SiteId) (gran : Nat) (gs : List Gran) (record : Bool)
  | land (off : Nat) (g : Gran)
  | signal (core cc : Nat)
deriving DecidableEq, Repr

/-- A packet held before a seam channel that has lost lock (01 R17): the row and plane of the channel, the stop that it goes to and
the input it enters by, or, for a multicast, the cores that it goes to beyond the seam. -/
structure NocWait where
  row    : Nat
  plane  : Nat
  stop   : Nat
  input  : Nat
  dests  : List Nat
  packet : NocPacket
deriving DecidableEq, Repr

/-- The on-chip network: held reductions, seam channels that lost lock, what they hold, what waits in input buffers or stands at a stop in
this cycle, contributions on their way, and deliveries to stopped cores (01 R17, R22, R28, R31, R34, R41). -/
structure Noc where
  holds   : List NocHold := []
  seams   : List (Nat × Nat) := []
  waits   : List NocWait := []
  stalls  : List NocStall := []
  /-- packets of ORD = 0 that a stop holds in the present network cycle (01 R31) -/
  cycle   : List NocStall := []
  inserts : List NocInsert := []
  cores   : List NocDeliver := []
deriving DecidableEq, Repr

/-- What a memory channel holds beside its registers. -/
structure Channel where
  powerDown : Bool := false
  refresh   : Nat := 0
  /-- the training result that the always-on domain keeps (10 R294): the erased lines of sub-channels 0 and 1 -/
  trained   : Option (Fin 12) × Option (Fin 12) := (none, none)
  /-- next scrub position on each sub-channel -/
  scrub     : Nat := 0
deriving DecidableEq, Repr

/-- A packet that waits at an output link (11 R305, R312): the input that it came by, a link or 64 for this device, and, while it stands
in the receive buffer of that link, its virtual channel there. -/
structure TxEntry where
  input  : Nat
  packet : Packet
  vc     : Option Nat := none
  /-- of a copy of an MCAST: the number that its copies share, the last of which leaves the receive buffer (11 R305, R327) -/
  cast   : Option Nat := none
deriving DecidableEq, Repr

/-- A packet that waits at an input: for a merge slot (11 R326), a barrier key (12 R353), a core that Hush has stopped (01 R41), or
before a seam channel that has lost lock (01 R17, 11 R311), there with the output link of a tree copy or a routed packet; `vc` as of a
waiting packet of an output link. -/
structure FWait where
  input  : Nat
  out    : Option Nat
  packet : Packet
  vc     : Option Nat
  cast   : Option Nat := none
deriving DecidableEq, Repr

/-- A fabric link beside its registers (11 R302 to R305, R312, R332). -/
structure Link where
  nextSeq   : Nat := 0
  ackedSeq  : Nat := 4095
  expectSeq : Nat := 0
  lastRx    : Nat := 4095
  nakSent   : Bool := false
  replay    : List (Nat × BitVec 2048) := []
  /-- how often each flit of the replay buffer was replayed, oldest first (11 R304) -/
  replays   : List Nat := []
  credits   : List Nat := List.replicate 48 640
  /-- the part of the peer's buffer that any virtual channel may use -/
  pool      : Nat := 100352
  /-- bytes of this device's receive buffer, per virtual channel, that are free again and not yet returned as credit -/
  owed      : List Nat := List.replicate 48 0
  partialRx : List Byte := []
  /-- packets that wait for credit (11 R305, R312) -/
  txq       : List TxEntry := []
  /-- flits sent since the last link-management flit, modulo 256 (11 R302; log 152), and the lane command that the next one carries
  (11 R303, R333) -/
  slot      : Nat := 0
  command   : Nat := 0
  /-- the class in service and the deficits of the round robin; the last channel group of each class and the last input of
  each group (11 R312) -/
  turn      : Nat := 1
  deficit   : List Nat := [0, 0, 0, 0]
  groupTurn : List Nat := [2, 2, 2, 2]
  inputTurn : List Nat := List.replicate 12 64
  /-- trainings in a row that failed -/
  fails     : Nat := 0
  /-- TC0 bytes sent in the present window (11 R314) -/
  tc0Bytes  : Nat := 0
  /-- a change of lanes agreed and not yet made: 1 to HALF, 2 to FULL -/
  laneCmd   : Nat := 0
  /-- HALF as this end, and as the peer, asks for it -/
  peerHalf  : Bool := false
  /-- the link holds SEQ numbers that a training must keep: it has been up since it was last DOWN or FAILED -/
  synced    : Bool := false
  /-- the receive time of the last TIME message, its T_TX, and the stratum of the peer (11 R329) -/
  rxStamp   : Nat := 0
  echo      : Nat := 0
  peerStratum : Nat := 63
deriving DecidableEq, Repr

/-- A request that left for another device and whose answer is awaited (11 R317 to R320). -/
structure FReq where
  origin : Origin
  rtag   : Nat
  stream : Nat
  op     : Nat
  addr   : Nat
  len    : Nat
  acq    : Bool := false
deriving DecidableEq, Repr

/-- A request that the order of its stream holds at its source (11 R320). -/
structure HeldReq where
  req    : FReq
  packet : Packet
  waits  : Bool
deriving DecidableEq, Repr

/-- Contributions of a fabric reduction held at this device (11 R323 to R326). -/
structure FHold where
  tag   : Nat
  parts : List (Option Nat × Packet)
deriving DecidableEq, Repr

/-- The fabric router beside its registers and links. -/
structure Fabric where
  reqs   : List FReq := []
  held   : List HeldReq := []
  rtag   : Nat := 0
  holds  : List FHold := []
  /-- requests for windows of cores whose clock Hush has stopped: they wait in the queues of those cores (01 R41) -/
  parked : List FWait := []
  /-- packets held at a seam channel that has lost lock (01 R17, 11 R311) -/
  transit : List FWait := []
  /-- packets that wait on their channel for a merge slot or a barrier key (11 R326, 12 R353) -/
  stalls : List FWait := []
  /-- the virtual channel of the packet that is taken from a link's receive buffer now (the model's own; 11 R305) -/
  rx     : Option Nat := none
  /-- the number of the next MCAST that is copied from a receive buffer (the model's own) -/
  casts  : Nat := 0
deriving DecidableEq, Repr

/-- A barrier key of this device (12 R353): what its children have sent (device, word, LAST_DEV, LAST_TIME), and its own part
with the entry's CHILDREN, ROOT and PARENT. -/
structure BarrierKey where
  tag    : Nat
  seq    : Nat
  round  : Nat
  kids   : List (Nat × Nat × Nat × Nat)
  mine   : Option (Nat × Nat × Nat)
  entry  : Nat
  status : Nat
  sent   : Bool
  /-- the release word, with LAST_DEV, once the key is released -/
  done   : Option (Nat × Nat)
deriving DecidableEq, Repr

/-- A COLL that has reached the engine and not started (12 R336): its number, its time of issue (12 R353), and the deferred gradient
headers that it takes with it as a BARRIER with NFSYNC (12 R349). -/
structure CollEntry where
  id     : Nat
  issued : Nat
  nfs    : List (Word × List Byte × Bool)
deriving DecidableEq, Repr

/-- The collective engine and Pollinator (12). -/
structure Coll where
  /-- COLLs that have reached the engine and not started, oldest first -/
  queue   : List CollEntry := []
  runs    : List CollRun := []
  nextId  : Nat := 1
  keys    : List BarrierKey := []
  /-- BARRIERs issued with each TAG_BASE since the last reset -/
  seqs    : List (Nat × Nat) := []
  /-- gradient headers deferred (12 R349): where, the 32 bytes with JOB_NF clear, SHARD_NF -/
  nfs     : List (Word × List Byte × Bool) := []
  /-- slots granted by this home, by RECV_PTR (12 R358) -/
  granted : List (Nat × List Nat) := []
deriving DecidableEq, Repr

/-- The Rake command in execution (09 R259, R261): its eight words, whether a granule of its ring entry was uncorrectable, and NF_POLICY of
RAKE_CONFIG as it started (09 R275). -/
structure RakeRun where
  cmd : List Word
  bad : Bool
  policy : Nat := 0
deriving DecidableEq, Repr

/-- The Rake beside its registers (09). -/
structure Rake where
  run      : Option RakeRun := none
  draining : Bool := false
  /-- shards being replaced under ADOPT before their next UPDATE (09 R268): the record, and the number of the copy -/
  adopt    : List (Nat × Nat) := []
deriving DecidableEq, Repr

/-- A read of host memory that awaits its completion (14 R391). -/
structure HRead where
  tag    : Nat
  origin : Origin
  addr   : Nat
  len    : Nat
  dest   : Nat
  /-- of a copy: the number of its 4 KiB chunk (14 R384) -/
  chunk  : Nat := 0
deriving DecidableEq, Repr

/-- A command ring and its completion queue beside their registers (14 R382 to R389). -/
structure Ring where
  /-- commands fetched and not yet started, oldest first; the command in execution is the first one while BUSY -/
  queue     : List RingCmd := []
  /-- commands of the ring asked from host memory and not yet arrived -/
  asked     : Nat := 0
  /-- the command in execution has been carried out as far as this device goes -/
  acted     : Bool := false
  /-- first status other than OK of the command in execution, and its failing address -/
  status    : Nat := 0
  detail    : Nat := 0
  /-- of COPY_D2H: granules that have arrived for its present chunk, and how many it has moved (14 R384) -/
  got       : List (Nat × Gran) := []
  moved     : Nat := 0
  /-- of COPY_H2D: granules that have arrived and that a lost seam channel, or a core whose clock Hush has stopped, holds (01 R17, R41):
  address, bytes, and whether their read failed -/
  late      : List (Nat × List Byte × Bool) := []
  /-- of the commands asked: the parts that have arrived, by their offset, none where the read failed -/
  parts     : List (Nat × Option (List Byte)) := []
  /-- a record that waits for room in the queue -/
  record    : Option (List Byte) := none
  /-- records written since the last message -/
  unsignal  : Nat := 0
  phase     : Bool := true
  draining  : Bool := false
deriving DecidableEq, Repr

/-- A LOAD of another device in a host window (14 R390): its granules as far as they are known, and its status. -/
structure Served where
  packet : Packet
  grans  : List (Option Gran)
  status : Nat
deriving DecidableEq, Repr

/-- The host interface (14). -/
structure HostIf where
  rings    : Vector Ring 16 := Vector.replicate 16 {}
  /-- reads sent and not completed, at most 768 (14 R376) -/
  reads    : List HRead := []
  /-- reads that wait for a tag, oldest first -/
  waiting  : List HRead := []
  /-- ring and chunk of the last read sent for a copy, and the last of rings 0 to 14 that moved a chunk (14 R384) -/
  lastCopy : Nat × Nat := (15, 0)
  turn     : Nat := 14
  served   : List Served := []
  /-- number of the next read request (the model's own name for its tag, log 32) -/
  nextTag  : Nat := 0
  linkUp   : Bool := false
  d3       : Bool := false
  memEn    : Bool := false
  bar2Log2 : Nat := 30
  /-- Max Payload Size and Max Read Request Size as 2^(7 + code) bytes, and Relaxed Ordering (14 R376, R392); reset values of the
  standard (PRESUMED, log 153) -/
  payload  : Nat := 0
  request  : Nat := 2
  relaxed  : Bool := true
  /-- AER's uncorrectable error status, bits as the standard places them (14 R376; PRESUMED, log 153) -/
  aer      : Nat := 0
  /-- AER's correctable error status (14 R376; PRESUMED, log 153) -/
  aerCor   : Nat := 0
deriving DecidableEq, Repr

/-- Messages that leave the block. -/
inductive Out where
  /-- a flit on a link (11 R302) -/
  | flit (l : Nat) (f : BitVec 2048)
  /-- a packet sent on a link (11 R316), before it is cut into flits -/
  | packet (l : Nat) (p : Packet)
  /-- a packet that the router delivers on this device; it arrives as a packet command without a link -/
  | loop (p : Packet)
  /-- an MSI-X message: address and data of its vector's table entry (14 R389) -/
  | msix (v : Nat) (addr : Nat) (data : Nat)
  /-- a posted write to host memory (14 R391), with or without Relaxed Ordering (14 R392) -/
  | hostWrite (addr : Nat) (bytes : List Byte) (relaxed : Bool)
  /-- a poisoned write to host memory (14 R386, 18 R459) -/
  | hostWritePoisoned (addr : Nat) (bytes : List Byte) (relaxed : Bool)
  /-- a read request to host memory, or a zero-length flush read (14 R392) -/
  | hostRead (tag : Nat) (addr : Nat) (len : Nat)
  /-- the completion of a BAR2 or register read: data and whether each 32-byte part is poisoned -/
  | completion (bytes : List Byte) (poisoned : Bool)
  /-- a read response on the network: the local offset and the granules (01 R26 KIND 0x2) -/
  | nocResponse (off : Nat) (g : List (BitVec 288))
  /-- a contribution packet sent to its home Anthill (08 R236); it arrives as ANTHILL_INSERT -/
  | contribution (p : Contribution)
  /-- a multicast or reduction packet injected at a site's stop (01 R25 to R28) -/
  | nocPacket (src : Nat) (p : NocPacket)
  /-- a register access packet on this device's own mesh (01 R26 KIND 0x6): offset and the word written, if it writes; it
  arrives as NOC_REGISTER_ACCESS -/
  | nocReg (off : Nat) (wr : Option Nat)
  /-- the value of a register read -/
  | regValue (off : Nat) (v : Nat)
  /-- a configuration request answered with Retry Status (15 R404) -/
  | retryStatus
  | configData (v : Nat)
  /-- an in-band interrupt of the management port, with the register bytes of a read (21 R512) -/
  | ibi (bytes : List Byte)
  /-- what the management port answers, from the bus address at which it stands: its dynamic address, or 0x4C (21 R512) -/
  | mgmtData (addr : Nat) (bytes : List Byte)
  | mgmtAck (addr : Nat)
  /-- a write of flash: what region (0 firmware, 1 option image, 2 a record of the index log), and its bytes (15 R412, 17 R445, R449) -/
  | flashWrite (region : Nat) (bytes : List Byte)
  /-- a fuse burnt (17 R452) -/
  | fuseWrite (bytes : List Byte)
  /-- the reply of a Hive take to a core (05 R152) -/
  | hiveReply (s : Nat) (tn : Nat) (v : Nat)
deriving DecidableEq, Repr

/-- A source's trace FIFO (19 R484, R486): its sequence count, its events, and what it has lost. -/
structure Fifo where
  kind   : Nat
  num    : Nat
  seq    : Nat
  events : List (List Word)
  lost   : Nat
  lostAt : Nat
deriving DecidableEq, Repr

/-- Counters, trace and Hush beside their registers (19). -/
structure Obs where
  fifos   : List Fifo := []
  /-- the source that the merger took an event from last (19 R484) -/
  lastSrc : Nat × Nat := (7, 255)
  /-- an entry that the merger has written to another device and whose COMPLETE it awaits (19 R485) -/
  writing : Bool := false
  /-- the swap target, whether AT named a time too near, and the instances that have yet to swap (19 R476) -/
  target  : Nat := 0
  atPast  : Bool := false
  due     : List SwapInst := []
  /-- swaps of earlier targets that have passed and that an instance still owes: its clock has stopped since (19 R476); the target and
  AT_PAST of each -/
  owed    : List (SwapInst × Nat × Bool) := []
  /-- when Hush last resumed (19 R476, R493) -/
  resumed : Nat := 0
  /-- the draw of the free values that cycle counters of cores held when Hush stopped them (the model's own; 01 R43) -/
  heldAt  : Nat := 0
  /-- CORE_PWR_STATUS of every site as Hush stopped the core clocks (16 R439) -/
  power   : List Nat := []
deriving DecidableEq, Repr

/-- The fuse map (15 R403, 16 R422, 17 R441): its bytes, each site's maximum clock and the defective sites, whose places in the
bytes the spec does not give (log 31). -/
structure Fuses where
  bytes     : List Byte := List.replicate 1024 0
  fmax      : List Nat := List.replicate 144 1700
  defective : List Nat := []
  /-- the owner key is fused (17 R452) -/
  owned     : Bool := false
deriving DecidableEq, Repr

/-- A reset that took effect (15 R417): its kind (0 cold, 1 warm, 2 core), its source, the phase that it met and the one that it left. -/
structure ResetSeen where
  kind   : Nat
  source : Nat
  phase  : Nat
  left   : Nat
deriving DecidableEq, Repr

/-- Reset, straps, option image and start-up beside their registers (15). -/
structure Rst where
  /-- the 48 V input has risen through 40 V and not fallen below 38 V -/
  inputUp  : Bool := true
  /-- the module has lost its power, and the input has not risen through 40 V since (21 R517) -/
  dark     : Bool := false
  /-- PERST# is asserted -/
  perst    : Bool := true
  /-- phase 1 follows a thermal trip, and the sensors whose last reading since is 105 °C or more (15 R413) -/
  tripped  : Bool := false
  hot      : List Nat := []
  /-- the reset that took effect in the present always-on cycle, if any (15 R417) -/
  cycle    : Option ResetSeen := none
  /-- resets that RST_CMD has requested: 0 cold, 1 warm, 2 + c of core c -/
  requests : List Nat := []
  /-- the start-up under way follows a warm reset -/
  warm     : Bool := false
  fuses    : Fuses := {}
  /-- the option region of the flash; empty where it holds no image -/
  image    : List Byte := []
  /-- the image of a COMMIT on its way to the flash -/
  staged   : List Byte := []
deriving DecidableEq, Repr

/-- Power and thermal control beside its registers (16). -/
structure Pwr where
  fdev     : Nat := 1700
  /-- PWR_FREQ_CTRL as it acts since option load or the last control tick (16 R424, R425): MODE, LIMIT_MHZ and FIXED_MHZ -/
  boost    : Bool := false
  limit    : Nat := 1950
  fixed    : Nat := 1700
  /-- the cap or the envelope rule keeps F_dev below its top (16 R435) -/
  capped   : Bool := false
  /-- F_clu[0] to F_clu[17], then F_half of west and east -/
  ceilings : List Nat := List.replicate 20 1950
  /-- an envelope event found at the end of the last window -/
  envelope : Bool := false
  /-- in units of 0.1 W: the sum and number of the estimates of the present window; those of the last valid window, and its P_meas -/
  sum      : Nat := 0
  ticks    : Nat := 0
  winSum   : Nat := 0
  winTicks : Nat := 0
  winMeas  : Nat := 0
  /-- ageing checks until AGED_MAX and the guard are learned again (16 R423) -/
  learn    : Nat := 10
  /-- windows in a row that agree, disagree, or have no report -/
  agree    : Nat := 0
  disagree : Nat := 0
  silent   : Nat := 0
  /-- why the device is throttled: by the cap or the envelope rule, by a thermal ceiling -/
  byCap    : Bool := false
  byHeat   : Bool := false
  /-- packages that read 95 °C and not yet below 90 °C (16 R433) -/
  memHot   : List Nat := []
  /-- temperature of each package in °C (10 R278) -/
  memTemp  : List Nat := List.replicate 16 0
  /-- heartbeats sent, conditions since the last one, µs throttled (16 R436) -/
  seq      : Nat := 0
  flags    : Nat := 0
  throttledUs : Nat := 0
deriving DecidableEq, Repr

/-- What the security engine executes (17 R455). -/
inductive SecCmd where
  | load (len : Nat)
  | flash (len : Nat)
  | attest (leaf : Nat) (nonce : List Byte)
  | verify
  | fuse
deriving DecidableEq, Repr

/-- The security engine beside its registers (17). -/
structure Sec where
  command  : Option SecCmd := none
  /-- a result that the command met before its work began -/
  early    : Option Nat := none
  /-- what has arrived of the image in host memory: offset and bytes; a read of it failed -/
  loaded   : List (Nat × List Byte) := []
  hostErr  : Bool := false
  /-- the running image -/
  running  : List Byte := []
  /-- the debug token in force -/
  token    : List Byte := []
  /-- the firmware region of the flash (17 R442) -/
  flash    : List Byte := []
  /-- the records programmed in the index log, by 256 × sector + record; every other one is erased (17 R449) -/
  log      : List (Nat × List Byte) := []
  /-- NEXT -/
  next     : Nat := 0
  /-- an erase or program of the firmware region was cut off, or read back wrong (17 R445) -/
  torn     : Bool := false
deriving DecidableEq, Repr

/-- The management port beside its registers (21 R512, R513). -/
structure Mgmt where
  index : Nat := 0
  addr  : Option Nat := none
  on    : Bool := true
deriving DecidableEq, Repr

/-- The state of the block. -/
structure State where
  regs     : List (RegKey × Word)
  /-- data bytes by local offset (10 R287), strictly rising; see `Mem.rest` for what an unlisted offset reads as -/
  mem      : List Host.Cell
  /-- error patterns of granules (local offset ÷ 32) whose check bytes differ from the code of their data -/
  chk      : List (Nat × BitVec 32)
  sites    : Vector Site 144
  clusters : Vector Cluster 18
  noc      : Noc
  channels : Vector Channel 64
  links    : Vector Link 64
  fabric   : Fabric
  coll     : Coll
  rake     : Rake
  host     : HostIf
  rst      : Rst
  pwr      : Pwr
  sec      : Sec
  obs      : Obs
  mgmt     : Mgmt
  /-- the timebase in ns (01 R42) -/
  now      : Nat
  /-- messages emitted, oldest first -/
  out      : List Out
  /-- how often the contents of LPDDR6 were lost (the model's own; 10 R293) -/
  lost     : Nat
  /-- free values drawn so far (the model's own; log 1) -/
  freeCtr  : Nat
  /-- granules of other devices or of the host that an instruction needs before it can act (the model's own) -/
  want     : List Nat
  /-- granules of other devices or of the host that have arrived for the instruction that acts now (the model's own) -/
  got      : List (Nat × Gran)
  /-- commands that wait, first in, first out -/
  pending  : List Instr
deriving DecidableEq, Repr

/-- The block right after a power-on (a cold reset): every register at the value of its table, phase 1 of start-up, every
core halted, no link up, nothing in memory. -/
def State.reset : State where
  regs := []
  mem := []
  chk := []
  sites := Vector.replicate 144 {}
  clusters := Vector.replicate 18 {}
  noc := {}
  channels := Vector.replicate 64 {}
  links := Vector.replicate 64 {}
  fabric := {}
  coll := {}
  rake := {}
  host := {}
  rst := {}
  pwr := {}
  sec := {}
  obs := {}
  mgmt := {}
  now := 0
  out := []
  lost := 0
  freeCtr := 0
  want := []
  got := []
  pending := []

end Sys2Proof.Machine
end

