-- ==== Sys2Proof/Machine/Prog.lean ====
section
/-!
DEFINITION. Programs over the state: a meaning is a tree of reads of the state and primitive updates, so that what any
meaning can do is said once, by the primitive updates. No primitive touches the queue of waiting commands.
-/
namespace Sys2Proof.Machine

/-- What an unlisted local offset reads as: zero in the core-local windows (the sweep writes zeros, 15 R405), no value in
LPDDR6 (10 R293; a reader then takes a free byte, log 2). -/
def Mem.rest (a : Nat) : Option Byte := if 0x01C000000000 ≤ a then some 0 else none

/-- A byte stored: the list stays strictly rising and never lists what an unlisted offset reads as. -/
def Mem.put (a : Nat) (v : Byte) : List Host.Cell → List Host.Cell
  | [] => if Mem.rest a = some v then [] else [(a, v)]
  | (b, x) :: t =>
    if a < b then (if Mem.rest a = some v then (b, x) :: t else (a, v) :: (b, x) :: t)
    else if a = b then (if Mem.rest a = some v then t else (a, v) :: t)
    else (b, x) :: Mem.put a v t

/-- The byte listed at an offset, or what an unlisted one reads as. -/
def Mem.get (a : Nat) : List Host.Cell → Option Byte
  | [] => Mem.rest a
  | (b, x) :: t => if a = b then some x else Mem.get a t

/-- The canonical form of memory: strictly rising offsets, no entry equal to what an unlisted offset reads as. -/
def Mem.wf : List Host.Cell → Bool
  | [] => true
  | (a, v) :: t =>
    decide (Mem.rest a ≠ some v) && (match t with | [] => true | (b, _) :: _ => decide (a < b)) && Mem.wf t

/-- An error pattern stored for a granule; 0 is not listed. -/
def Chk.put (g : Nat) (e : BitVec 32) : List (Nat × BitVec 32) → List (Nat × BitVec 32)
  | [] => if e = 0 then [] else [(g, e)]
  | (b, x) :: t =>
    if g < b then (if e = 0 then (b, x) :: t else (g, e) :: (b, x) :: t)
    else if g = b then (if e = 0 then t else (g, e) :: t)
    else (b, x) :: Chk.put g e t

/-- The error pattern of a granule: 0 where none is listed. -/
def Chk.get (g : Nat) : List (Nat × BitVec 32) → BitVec 32
  | [] => 0
  | (b, x) :: t => if g = b then x else Chk.get g t

/-- A register word stored in the register file. -/
def RegFile.put (k : RegKey) (v : Word) : List (RegKey × Word) → List (RegKey × Word)
  | [] => [(k, v)]
  | (b, x) :: t =>
    if k = b then (k, v) :: t
    else if k.lt b then (k, v) :: (b, x) :: t
    else (b, x) :: RegFile.put k v t

/-- A register word: its value in the file, or its value after a cold reset. -/
def RegFile.get (k : RegKey) : List (RegKey × Word) → Word
  | [] => BitVec.ofNat 64 k.reg.resetVal
  | (b, x) :: t => if k = b then x else RegFile.get k t

/-- The primitive updates. -/
inductive Prim where
  | byte (a : Nat) (v : Byte)
  | code (g : Nat) (e : BitVec 32)
  /-- a register word; bits that the register does not implement stay zero -/
  | reg (r : Reg) (i j : Nat) (v : Word)
  /-- registers of the list (of one instance, or of every instance) back at their cold-reset values -/
  | resetRegs (l : List Reg) (inst : Option Nat)
  /-- the contents of a range of local offsets back to what is unlisted -/
  | forget (lo hi : Nat)
  | site (i : SiteId) (x : Site)
  | cluster (i : ClusterId) (x : Cluster)
  | noc (x : Noc)
  | channel (i : ChannelId) (x : Channel)
  | link (i : LinkId) (x : Link)
  | fabric (x : Fabric)
  | coll (x : Coll)
  | rake (x : Rake)
  | host (x : HostIf)
  | rst (x : Rst)
  | pwr (x : Pwr)
  | sec (x : Sec)
  | obs (x : Obs)
  | mgmt (x : Mgmt)
  | now (t : Nat)
  | out (o : Out)
  | lost
  | free
  | want (l : List Nat)
  | got (l : List (Nat × Gran))

/-- What a primitive update does to the state. -/
def Prim.apply : Prim → State → State
  | .byte a v, s => { s with mem := Mem.put a v s.mem }
  | .code g e, s => { s with chk := Chk.put g e s.chk }
  | .reg r i j v, s => { s with regs := RegFile.put ⟨r, i, j⟩ (v &&& BitVec.ofNat 64 r.mask) s.regs }
  | .resetRegs l n, s =>
    { s with regs := s.regs.filter (fun e =>
        !(l.contains e.1.reg && (match n with | none => true | some i => e.1.inst == i))) }
  | .forget lo hi, s =>
    { s with mem := s.mem.filter (fun c => decide (c.1 < lo) || decide (hi ≤ c.1)),
             chk := s.chk.filter (fun c => decide (32 * c.1 < lo) || decide (hi ≤ 32 * c.1)) }
  | .site i x, s => { s with sites := s.sites.set i x }
  | .cluster i x, s => { s with clusters := s.clusters.set i x }
  | .noc x, s => { s with noc := x }
  | .channel i x, s => { s with channels := s.channels.set i x }
  | .link i x, s => { s with links := s.links.set i x }
  | .fabric x, s => { s with fabric := x }
  | .coll x, s => { s with coll := x }
  | .rake x, s => { s with rake := x }
  | .host x, s => { s with host := x }
  | .rst x, s => { s with rst := x }
  | .pwr x, s => { s with pwr := x }
  | .sec x, s => { s with sec := x }
  | .obs x, s => { s with obs := x }
  | .mgmt x, s => { s with mgmt := x }
  | .now t, s => { s with now := t }
  | .out o, s => { s with out := s.out ++ [o] }
  | .lost, s => { s with lost := s.lost + 1 }
  | .free, s => { s with freeCtr := s.freeCtr + 1 }
  | .want l, s => { s with want := l }
  | .got l, s => { s with got := l }

/-- A program: an answer, a read of the state, or a primitive update followed by a program. -/
inductive Prog (α : Type) where
  | pure (a : α)
  | get (k : State → Prog α)
  | op (p : Prim) (k : Prog α)

namespace Prog

/-- One program after another. -/
def bind {α β : Type} (m : Prog α) (f : α → Prog β) : Prog β :=
  match m with
  | .pure a => f a
  | .get k => .get (fun s => (k s).bind f)
  | .op p k => .op p (k.bind f)

/-- Running a program: its answer and the state it leaves. -/
def run {α : Type} : Prog α → State → α × State
  | .pure a, s => (a, s)
  | .get k, s => (k s).run s
  | .op p k, s => k.run (p.apply s)

/-- The monad of programs, made available in each definition that is written with it. -/
@[reducible] def monad : Monad Prog where
  pure := .pure
  bind := .bind

/-- A primitive update as a program. -/
def act (p : Prim) : Prog Unit := .op p (.pure ())

/-- What the state says. -/
def ask {α : Type} (f : State → α) : Prog α := .get (fun s => .pure (f s))

/-- Nothing. -/
def skip : Prog Unit := .pure ()

/-- A program under a condition. -/
def when (b : Bool) (p : Prog Unit) : Prog Unit := if b then p else skip

/-- A program for each element of a list, in order. -/
def each {α : Type} (l : List α) (f : α → Prog Unit) : Prog Unit :=
  match l with
  | [] => skip
  | x :: xs => (f x).bind (fun _ => each xs f)

/-- The answers of a program for each element of a list, in order. -/
def collect {α β : Type} (l : List α) (f : α → Prog β) : Prog (List β) :=
  match l with
  | [] => .pure []
  | x :: xs => (f x).bind (fun y => (collect xs f).bind (fun ys => .pure (y :: ys)))

/-- A value carried through a list by a program. -/
def fold {α β : Type} (l : List α) (b : β) (f : β → α → Prog β) : Prog β :=
  match l with
  | [] => .pure b
  | x :: xs => (f b x).bind (fun b' => fold xs b' f)

/-- The outcome of a command whose effect is a program: always a next state. -/
def next (p : Prog Unit) (s : State) : Host.Outcome State Fault Refusal := .next (p.run s).2

end Prog
end Sys2Proof.Machine
end

