-- ==== Sys2Proof/Machine/Ops.lean ====
section
/-!
DEFINITION. The named operations over registers, event counts, interrupts, trace events, fault records and core halts, which
every meaning calls (spec 00 R9 to R12, 05 R135, R165, R170, 14 R388, R389, 18 R457 to R461, 19 R482 to R487).
-/
namespace Sys2Proof.Machine
open Prog hiding pure bind get op run monad

/-! Reading registers and fields. -/

/-- A register word of a state. -/
def State.reg (s : State) (r : Reg) (i j : Nat) : Nat := (RegFile.get ⟨r, i, j⟩ s.regs).toNat

/-- A field of a register word. -/
def State.field (s : State) (f : Field) (i j : Nat) : Nat := fld (s.reg f.reg i j) f.hi f.lo

/-- A one-bit field. -/
def State.flag (s : State) (f : Field) (i j : Nat) : Bool := s.field f i j != 0

/-- The largest value of a field. -/
def Field.top (f : Field) : Nat := 2 ^ (f.hi + 1 - f.lo) - 1

def getF (f : Field) (i j : Nat := 0) : Prog Nat := ask (fun s => s.field f i j)
def getR (r : Reg) (i j : Nat := 0) : Prog Nat := ask (fun s => s.reg r i j)

/-- A register word set by the device. -/
def setR (r : Reg) (i j : Nat) (v : Nat) : Prog Unit := act (.reg r i j (BitVec.ofNat 64 v))

/-- A field set by the device. -/
def setF (f : Field) (i j : Nat) (v : Nat) : Prog Unit :=
  .get (fun s => setR f.reg i j (setFld (s.reg f.reg i j) f.hi f.lo v))

/-- A counting field that stops at its maximum. -/
def incF (f : Field) (i j : Nat) (n : Nat) : Prog Unit :=
  .get (fun s => setF f i j (satAdd f.top (s.field f i j) n))

/-- A counting field that wraps. -/
def addF (f : Field) (i j : Nat) (n : Nat) : Prog Unit :=
  .get (fun s => setF f i j (s.field f i j + n))

/-! Sub-states. -/

def getSite (i : SiteId) : Prog Site := ask (fun s => s.sites[i])
def modSite (i : SiteId) (f : Site → Site) : Prog Unit := .get (fun s => act (.site i (f s.sites[i])))
def modCluster (i : ClusterId) (f : Cluster → Cluster) : Prog Unit := .get (fun s => act (.cluster i (f s.clusters[i])))
def modLink (i : LinkId) (f : Link → Link) : Prog Unit := .get (fun s => act (.link i (f s.links[i])))
def modChannel (i : ChannelId) (f : Channel → Channel) : Prog Unit := .get (fun s => act (.channel i (f s.channels[i])))
def modNoc (f : Noc → Noc) : Prog Unit := .get (fun s => act (.noc (f s.noc)))
def modFabric (f : Fabric → Fabric) : Prog Unit := .get (fun s => act (.fabric (f s.fabric)))
def modColl (f : Coll → Coll) : Prog Unit := .get (fun s => act (.coll (f s.coll)))
def modRake (f : Rake → Rake) : Prog Unit := .get (fun s => act (.rake (f s.rake)))
def modHost (f : HostIf → HostIf) : Prog Unit := .get (fun s => act (.host (f s.host)))
def modRst (f : Rst → Rst) : Prog Unit := .get (fun s => act (.rst (f s.rst)))
def modPwr (f : Pwr → Pwr) : Prog Unit := .get (fun s => act (.pwr (f s.pwr)))
def modSec (f : Sec → Sec) : Prog Unit := .get (fun s => act (.sec (f s.sec)))
def modObs (f : Obs → Obs) : Prog Unit := .get (fun s => act (.obs (f s.obs)))
def modMgmt (f : Mgmt → Mgmt) : Prog Unit := .get (fun s => act (.mgmt (f s.mgmt)))
def modRing (r : RingId) (f : Ring → Ring) : Prog Unit :=
  modHost (fun h => { h with rings := h.rings.set r (f h.rings[r]) })
def emit (o : Out) : Prog Unit := act (.out o)
def getNow : Prog Nat := ask (·.now)

/-- A free value below 2^n, drawn afresh (log 1). -/
def fresh (n : Nat) : Prog Nat :=
  .get (fun s => .op .free (.pure (Config.free s.freeCtr % 2 ^ n)))

/-! Sites, clusters and logical cores. -/

/-- The device's own ID (15 R409: the option image gives it; MGT_ID shows it). -/
def State.ownId (s : State) : Nat := s.field F.MGT_ID.DEVICE_ID 0 0

/-- The site of a present logical core (00 R4, 18 R468). -/
def State.siteOf (s : State) (core : Nat) : Option SiteId :=
  if s.flag F.TOP_CORE_MAP.ABSENT 0 core then none
  else
    let v := s.field F.TOP_CORE_MAP.SITE 0 core
    if h : v < 144 then some ⟨v, h⟩ else none

/-- The logical core that a site holds (00 R4). -/
def State.coreOf (s : State) (site : SiteId) : Option Nat :=
  (List.range 128).find? (fun c => s.siteOf c == some site)

/-- The cluster of a site (00 R3). -/
def clusterOf (s : SiteId) : ClusterId := ⟨s.val / 8, by have := s.isLt; omega⟩

/-- The half of a site: 0 west, 1 east (00 R3). -/
def halfOf (s : SiteId) : Nat := if s.val < 72 then 0 else 1

/-- Whether a site is fenced (18 R462). -/
def State.fenced (s : State) (i : SiteId) : Bool := (s.reg .TOP_FENCED 0 (i.val / 64)).testBit (i.val % 64)

/-- Whether a site's cluster stop discards what is sent to it (01 R41): while it is fenced. A core reset is one command, so that no
command finds a site in reset (log 6). -/
def State.deaf (s : State) (i : SiteId) : Bool := s.fenced i

/-- Whether Hush holds the device (19 R488, R493). -/
def State.hushed (s : State) : Bool := s.field F.TRC_HUSH_STATUS.STATE 0 0 != 0

/-- Present logical cores of a 128-bit mask, ascending. -/
def State.presentOf (s : State) (mask : Nat) : List Nat :=
  (onesOf 128 mask).filter (fun c => (s.siteOf c).isSome)

/-- Where Hive counter h resides: its cluster and its index (01 R23). -/
def hiveHome (h : Fin 256) : ClusterId × Nat :=
  (if h.val < 128 then ⟨h.val / 16, by have := h.isLt; omega⟩ else ⟨h.val / 16 + 1, by have := h.isLt; omega⟩, h.val % 16)

/-! Interrupts (14 R388, R389). -/

/-- A vector sent, or held pending while it is masked, in D3hot or without a link. -/
def sendVector (v : Nat) : Prog Unit :=
  .get (fun s =>
    if s.flag F.MSIX_CTRL.MASK 0 v || s.host.d3 || !s.host.linkUp then
      setR .MSIX_PBA 0 (v / 64) (s.reg .MSIX_PBA 0 (v / 64) ||| (1 <<< (v % 64)))
    else emit (.msix v (s.field F.MSIX_ADDR.ADDR 0 v) (s.field F.MSIX_CTRL.DATA 0 v)))

/-- A source of vector 0 to 4: its cause bit sets, and the vector is sent if the bit goes from 0 to 1 while enabled. -/
def raise (v : Nat) : Prog Unit :=
  .get (fun s =>
    let c := s.reg .HST_IRQ_CAUSE 0 0
    (setR .HST_IRQ_CAUSE 0 0 (c ||| (1 <<< v))).bind (fun _ =>
      when (!c.testBit v && (s.reg .HST_IRQ_ENABLE 0 0).testBit v) (sendVector v)))

/-- An error bit whose setting signals vector 0: it signals as it goes from 0 to 1 (14 R388, 11 R334). -/
def errorBit (f : Field) (i j : Nat) : Prog Unit :=
  .get (fun s => when (!s.flag f i j) ((setF f i j 1).bind (fun _ => raise 0)))

/-- A halt or an error record of a site: its cause bit, and vector 32 + s if it goes from 0 to 1. -/
def raiseSite (i : SiteId) : Prog Unit :=
  .get (fun s =>
    let c := s.reg .HST_SITE_CAUSE 0 (i.val / 64)
    (setR .HST_SITE_CAUSE 0 (i.val / 64) (c ||| (1 <<< (i.val % 64)))).bind (fun _ =>
      when (!c.testBit (i.val % 64)) (sendVector (32 + i.val))))

/-! Trace events (19 R482 to R486). -/

/-- The source-group bit of TRC_ENABLE.GROUPS for a SRC_KIND. -/
def traceGroup (kind : Nat) : Nat := if kind < 5 then kind else 5

/-- An event into its source's FIFO of 16, or counted as lost where the FIFO is full (19 R484, R486). -/
def Fifo.push (f : Fifo) (ev : Nat → List Word) (now : Nat) : Fifo :=
  let f' := { f with seq := (f.seq + 1) % 256 }
  if f.events.length < 16 then { f' with events := f.events ++ [ev f.seq] }
  else { f' with lost := f.lost + 1, lostAt := if f.lost = 0 then now else f.lostAt }

/-- The FIFO of a source, updated in a list kept in the order of SRC_KIND and SRC_NUM. -/
def Fifo.upd (kind num : Nat) (g : Fifo → Fifo) : List Fifo → List Fifo
  | [] => [g ⟨kind, num, 0, [], 0, 0⟩]
  | f :: t =>
    if f.kind = kind && f.num == num then g f :: t
    else if kind < f.kind || (kind == f.kind && num < f.num) then g ⟨kind, num, 0, [], 0, 0⟩ :: f :: t
    else f :: Fifo.upd kind num g t

/-- The four words of an event (19 R482). -/
def eventWords (type kind num layer oper engine now w2 w3 seq : Nat) : List Word :=
  [ BitVec.ofNat 64 (place 63 60 type + place 59 56 kind + place 55 48 num + place 47 40 seq + place 39 20 layer +
      place 19 8 oper + place 7 0 engine),
    BitVec.ofNat 64 now, BitVec.ofNat 64 w2, BitVec.ofNat 64 w3 ]

/-- An event formed by a source, if its type and group are enabled and the ring accepts events; an INSTR event also needs its
layer in the filter (19 R483). -/
def traceEvent (type kind num engine layer oper w2 w3 : Nat) : Prog Unit :=
  .get (fun s =>
    let on := s.flag F.TRC_RING_CTRL.ENABLE 0 0 && (s.field F.TRC_ENABLE.TYPES 0 0).testBit type &&
      (s.field F.TRC_ENABLE.GROUPS 0 0).testBit (traceGroup kind) &&
      (type != 1 || (decide (s.field F.TRC_LAYER_FILTER.FIRST 0 0 ≤ layer) &&
        decide (layer ≤ s.field F.TRC_LAYER_FILTER.LAST 0 0)))
    let add (f : Fifo) : Fifo := f.push (eventWords type kind num layer oper engine s.now w2 w3) s.now
    when on (modObs (fun o => { o with fifos := Fifo.upd kind num add o.fifos })))

/-! Hush triggers (19 R487). -/

/-- A trigger: it acts only in state RUNNING. -/
def hushTrigger (cause : Nat) : Prog Unit :=
  .get (fun s =>
    when (!s.hushed)
      ((modObs (fun o => { o with heldAt := s.freeCtr, power := (List.range 144).map (fun i => s.reg .CORE_PWR_STATUS i 0) })).bind (fun _ => (act .free).bind (fun _ =>
      (setF F.TRC_HUSH_STATUS.STATE 0 0 1).bind (fun _ =>
        (setF F.TRC_HUSH_STATUS.CAUSE 0 0 cause).bind (fun _ =>
          (setR .TRC_HUSH_TIME 0 0 s.now).bind (fun _ =>
            traceEvent 0xD 7 0 0xFF 0 0 cause s.now)))))))

/-! Alerts of the management port (21 R513) and power events (16 R435). -/

/-- A bit of MGT_ALERT set: in I3C mode an enabled bit that goes from 0 to 1 raises an in-band interrupt. -/
def mgtAlert (f : Field) : Prog Unit :=
  .get (fun s => (setF f 0 0 1).bind (fun _ => .get (fun s1 =>
    when (!s.flag f 0 0 && (s.reg .MGT_ALERT_ENABLE 0 0).testBit f.lo && s.mgmt.addr.isSome && s.mgmt.on)
      (emit (.ibi [BitVec.ofNat 8 (s1.reg .MGT_ALERT 0 0)])))))

/-- A bit of PWR_EVENT set: the host is signalled and a POWER event formed when it was clear (16 R435, 19 R483). -/
def pwrEvent (f : Field) : Prog Unit :=
  .get (fun s => when (!s.flag f 0 0) ((setF f 0 0 1).bind (fun _ => (raise 1).bind (fun _ => .get (fun s1 =>
    traceEvent 8 5 0 0xFF 0 0 (place 63 48 (s1.field F.PWR_STATUS.CEILING_MHZ 0 0) + s1.reg .PWR_EVENT 0 0 % 2 ^ 10)
      (place 31 16 (s1.field F.PWR_STATUS.EST_W 0 0) + s1.field F.PWR_STATUS.INPUT_W 0 0))))))

/-! Fault records (18 R457 to R461). -/

/-- The location fields of a record (18 R458). -/
structure Where where
  level   : Nat := 7
  half    : Nat := 0
  cluster : Nat := 0
  site    : Nat := 0xFF
  array   : Nat := 0
  address : Nat := 0
  layer   : Nat := 0
  oper    : Nat := 0
  struct  : Nat := 0
  bit     : Nat := 0
  /-- the device, where it is not the one that the register names now -/
  device  : Option Nat := none
deriving DecidableEq, Repr

/-- The location of a site (18 R458: every enclosing level). -/
def Where.ofSite (i : SiteId) : Where :=
  { level := 4, half := halfOf i, cluster := (clusterOf i).val, site := i.val }

/-- The location of a cluster. -/
def Where.ofCluster (c : Nat) : Where := { level := 5, half := if c < 9 then 0 else 1, cluster := c }

/-- A record written at TAIL, or discarded and counted where the log is full (18 R461); Hush and the trace see it (19 R487,
R483). -/
def faultRecord (kind detail : Nat) (w : Where) : Prog Unit :=
  letI := Prog.monad
  do
  let s ← ask id
  let tail := s.field F.TOP_FAULT_PTRS.TAIL 0 0
  let head := s.field F.TOP_FAULT_PTRS.HEAD 0 0
  let w0 := place 63 56 kind + place 55 48 detail + place 47 45 w.level + place 44 44 w.half + place 43 39 w.cluster +
    place 38 31 w.site + place 30 29 w.array + place 14 0 (w.device.getD s.ownId)
  if (tail + 1) % 256 = head then incF F.TOP_FAULT_STATUS.LOST 0 0 1
  else do
    setR .TOP_FAULT_LOG 0 (4 * tail) w0
    setR .TOP_FAULT_LOG 0 (4 * tail + 1) w.address
    setR .TOP_FAULT_LOG 0 (4 * tail + 2) (place 63 44 w.layer + place 43 32 w.oper + place 31 24 w.struct + place 2 0 w.bit)
    setR .TOP_FAULT_LOG 0 (4 * tail + 3) s.now
    setF F.TOP_FAULT_PTRS.TAIL 0 0 (tail + 1)
    traceEvent 0xA 6 0 0xFF 0 0 w0 w.address
    mgtAlert F.MGT_ALERT.FAULT
    when (kind == 1 && s.flag F.TRC_HUSH_CTRL.ON_UE 0 0) (hushTrigger 2)

/-- A bit of TOP_NOC_ERROR set by an event at a stop (01 R45). Of the events of one command the last one made is the most recent, which is
the model's choice (log 85). -/
def nocError (f : Field) (stop : Nat) : Prog Unit :=
  (errorBit f 0 0).bind (fun _ => setF F.TOP_NOC_ERROR.LAST_STOP 0 0 stop)

/-- A packet discarded on the network, counted (01 R46). -/
def nocDrop (f : Field) (stop : Nat) : Prog Unit :=
  (nocError f stop).bind (fun _ => incF F.TOP_NOC_DROP_COUNT.COUNT 0 0 1)

/-- A bit of FAB_ERROR set (11 R334). -/
def fabError (f : Field) : Prog Unit := errorBit f 0 0

/-- A packet or signal discarded on the fabric, counted (11 R334). -/
def fabDrop (f : Field) : Prog Unit :=
  (fabError f).bind (fun _ => incF F.FAB_DROP_COUNT.COUNT 0 0 1)

/-- A response status other than OK (11 R320). -/
def remoteStatus (st : Nat) : Prog Unit :=
  when (st != 0) ((setF F.FAB_ERROR.LAST_STATUS 0 0 st).bind (fun _ => fabError F.FAB_ERROR.REMOTE_STATUS))

/-! Core errors and event counts. -/

/-- An error into a core's error record (05 R170): the first fills it, later ones count; each signals the host. -/
def coreError (i : SiteId) (kind : Nat) (w : IWord) (slot : Nat) (pc : Nat) : Prog Unit :=
  letI := Prog.monad
  do
  let s ← ask id
  let v := w.toNat
  if s.flag F.CORE_ERROR_RECORD.VALID i 0 then incF F.CORE_ERROR_WHERE.OVERFLOW i 0 1
  else do
    setR .CORE_ERROR_RECORD i 0 (place 63 63 1 + place 55 48 kind + place 47 40 (fld v 127 120) + place 39 34 slot)
    setR .CORE_ERROR_WHERE i 0
      (place 63 44 (fld v 31 12) + place 43 32 (fld v 11 0) + s.field F.CORE_ERROR_WHERE.OVERFLOW i 0)
    setR .CORE_ERROR_PC i 0 pc
  raiseSite i

/-- What conversions count for the site that issued them (02 R75). -/
def qntEvents (i : SiteId) (e : QEv) : Prog Unit :=
  letI := Prog.monad
  do
  incF F.CORE_QNT_EVENTS.SATURATE i 0 e.saturate
  incF F.CORE_QNT_EVENTS.NONFINITE i 0 e.nonfinite
  incF F.CORE_QNT_EVENTS.DEGENERATE i 0 e.degenerate
  incF F.CORE_QNT_EVENTS.ZERO_BLOCK i 0 e.zeroBlock

/-! Halting a core (05 R135, R165). -/

/-- The core halts with a cause; every halt signals the host and forms a HALT event, which carries the tags of the instruction that
caused it, zero where none did (19 R479). -/
def haltCore (i : SiteId) (cause layer oper : Nat) : Prog Unit :=
  letI := Prog.monad
  do
  setR .CORE_SEQ_STATUS i 0 (place 15 8 cause)
  let pc ← getR .CORE_SEQ_PC i
  traceEvent 5 0 i.val 0 layer oper (place 15 8 cause) pc
  raiseSite i

/-- The engine code (19 R469) of a unit. -/
def unitEngine : CoreUnit → Nat
  | .arrays => 1 | .dmaRd => 2 | .dmaWr => 3 | .lacewing => 4 | .mower => 5 | .coll => 8

/-- The queue depth of a unit (05 R131). -/
def unitDepth : CoreUnit → Nat
  | .mower => 8 | .coll => 8 | _ => 16

/-- Whether an instruction is a member of a batch other than its head (19 R479, R483). -/
def Flight.member (f : Flight) : Bool := f.batch.any (· != f.seq)

/-- The INSTR event of a completion; its cycle counts are free values (19 R483, log 5). -/
def instrEvent (i : SiteId) (f : Flight) (aborted batch : Bool) : Prog Unit :=
  letI := Prog.monad
  do
  let busy ← fresh 64
  let wait ← fresh 32
  let w := f.word.toNat
  traceEvent 1 0 i.val (unitEngine f.unit) (fld w 31 12) (fld w 11 0) busy
    (place 63 56 (fld w 127 120) + place 55 55 (b2n aborted) + place 54 54 (b2n batch) + wait)

/-- Whether a site's core is running (05 R165). -/
def State.running (s : State) (i : SiteId) : Bool := s.field F.CORE_SEQ_STATUS.STATE i 0 == 1

/-- Instructions of a unit of a core that have issued and not completed. -/
def Site.inFlight (x : Site) (u : CoreUnit) : List Flight :=
  x.flights.filter (fun f => f.unit == u) ++ (if u = .arrays then x.rows else [])

/-- A draining core halts once nothing of it is in flight (05 R135). -/
def drainCheck (i : SiteId) : Prog Unit :=
  .get (fun s =>
    when (s.field F.CORE_SEQ_STATUS.STATE i 0 == 2 && s.sites[i].flights.isEmpty && s.sites[i].rows.isEmpty)
      (haltCore i 2 0 0))


/-! Register writes (15 R404, 19 R493). -/

/-- Whether BAR0 decodes an offset in the present phase of start-up (15 R404): the TOP, RST and SEC blocks from the end of phase 3,
all blocks once ready. -/
def State.decodes (s : State) (off : Nat) : Bool :=
  let ph := s.field F.RST_PHASE.PHASE 0 0
  let early := decide (off < 0x20000) || (decide (0x30000 ≤ off) && decide (off < 0x40000))
  ph == 9 || (decide (4 ≤ ph) && early)

/-- Whether Hush lets a register write act (19 R493): outside RUNNING it needs the REGDBG right, but in the TRC and SEC blocks. -/
def State.mayWrite (s : State) (off : Nat) : Bool :=
  !s.hushed || (s.reg .SEC_DBG_STATUS 0 0).testBit 18 ||
    (decide (0x80000 ≤ off) && decide (off < 0xA0000)) || (decide (0x30000 ≤ off) && decide (off < 0x40000))

/-- An access without its right is dropped and counted (17 R454). -/
def denied : Prog Unit := incF F.SEC_DBG_STATUS.DENIED 0 0 1

end Sys2Proof.Machine
end

