-- ==== Sys2Proof/Machine/Mesh.lean ====
section
/-!
DEFINITION. The mesh: the stops and what sits at them, the planes, dimension-ordered routes, and the seam channels that a route crosses
(spec/01_organisation.md R17 to R22).
-/
namespace Sys2Proof.Machine
open Prog hiding pure bind get op run monad

/-! Stops (01 R18, R19). A stop's number is row × 12 + column. -/

/-- The stop Cn of a cluster. -/
def clusterStop (c : Nat) : Nat :=
  if c < 5 then 12 + c else if c < 9 then 24 + (c - 5) else if c < 14 then 12 + 7 + (c - 9) else 24 + 8 + (c - 14)

/-- The memory stop Mj. -/
def memoryStop (j : Nat) : Nat :=
  if j < 4 then 1 + j else if j < 8 then 37 + (j - 4) else if j < 12 then 7 + (j - 8) else 43 + (j - 12)

/-- The fabric-router stop Fj. -/
def fabricStop (j : Nat) : Nat := nth [0, 36, 11, 47] j 0

/-- The west hub: PCIe controller, control processor and security engine; host register accesses enter there. -/
def hubWest : Nat := 28
/-- The east hub: trace merger, Hush controller and global counter block. -/
def hubEast : Nat := 31

/-- The seam stops of a row, west and east. -/
def seamStops (row : Nat) : Nat × Nat := (12 * row + 5, 12 * row + 6)

/-- The stop of a site. -/
def siteStop (i : SiteId) : Nat := clusterStop (clusterOf i).val
/-- The stop of an LPDDR6 channel: controllers 2j and 2j + 1, each of two channels, sit at Mj, with their Rake units. -/
def channelStop (ch : Nat) : Nat := memoryStop (ch / 4)
/-- The stop of a fabric link: Fj carries links 16j to 16j + 15. -/
def linkStop (l : Nat) : Nat := fabricStop (l / 16)

/-- The stop that a register access travels to (01 R19), where the spec places what the register belongs to: core, cluster, channel and
link blocks (00 R14); HE for counters, trace and Hush; HW for the PCIe controller, the control processor and the security engine. The
blocks that it does not place answer none (log 140). -/
def registerStop (off : Nat) : Option Nat :=
  if 0x1000000 ≤ off then
    if h : (off - 0x1000000) / 0x10000 < 144 then some (siteStop ⟨(off - 0x1000000) / 0x10000, h⟩) else none
  else if 0x400000 ≤ off then
    if (off - 0x400000) / 0x10000 < 18 then some (clusterStop ((off - 0x400000) / 0x10000)) else none
  else if 0x201000 ≤ off then
    if (off - 0x201000) / 0x1000 < 64 then some (linkStop ((off - 0x201000) / 0x1000)) else none
  else if 0x200000 ≤ off then none
  else if 0x100000 ≤ off then
    if (off - 0x100000) / 0x1000 < 64 then some (channelStop ((off - 0x100000) / 0x1000)) else none
  else if 0x80000 ≤ off && decide (off < 0xA0000) then some hubEast
  else if off < 0x80000 then some hubWest
  else none

/-! Planes (01 R20). -/

/-- The plane of read, write and Rake traffic to a local address, and of an Anthill insert to its destination granule's address. -/
def addressPlane (off : Nat) : Nat := fld off 9 7
/-- The plane of a Hive take. -/
def hivePlane (h : Nat) : Nat := h % 8
/-- The plane of register accesses. -/
def registerPlane : Nat := 0

/-! Routes (01 R20, R21). -/

/-- The next stop of a dimension-ordered route, along the row first, and the input by which the packet enters it: 128 west, 129
east, 130 north, 131 south; row 0 is the northernmost (log 29). -/
def hop (at' dest : Nat) : Nat × Nat :=
  let c := at' % 12
  let d := dest % 12
  if c < d then (at' + 1, 128) else if d < c then (at' - 1, 129)
  else if at' / 12 < dest / 12 then (at' + 12, 130) else (at' - 12, 131)

/-- The route from a stop: each next stop with the input entered. -/
def meshRoute : Nat → Nat → Nat → List (Nat × Nat)
  | 0, _, _ => []
  | n + 1, at', dest => if at' = dest then [] else let h := hop at' dest; h :: meshRoute n h.1 dest

/-- The seam channel of a hop, if it crosses the seam: its row. -/
def seamOf (a b : Nat) : Option Nat :=
  if (a % 12 == 5 && b % 12 == 6) || (a % 12 == 6 && b % 12 == 5) then some (a / 12) else none

/-- Whether a seam channel has lost lock. -/
def State.seamLost (s : State) (row plane : Nat) : Bool := s.noc.seams.contains (row, plane)

/-- Whether the route between two stops crosses, in the row of the first, a seam channel that has lost lock: what travels it is held
there (01 R17). -/
def State.seamCut (s : State) (a b plane : Nat) : Bool :=
  !s.noc.seams.isEmpty && (decide (a % 12 < 6) != decide (b % 12 < 6)) && s.seamLost (a / 12) plane

/-- The same for a request and its answer. -/
def State.seamCut2 (s : State) (a b plane : Nat) : Bool := s.seamCut a b plane || s.seamCut b a plane

/-- The host's register accesses reach the device (14 R378, R380, R389): its link is up, Memory Space Enable is 1 (log 64) and the function
is not in D3hot. -/
def State.hostUp (s : State) : Bool := s.host.linkUp && s.host.memEn && !s.host.d3

/-- Whether a host access of a register reaches its stop (01 R19). A command whose packet a lost seam channel holds has not reached its
target: it has no effect and comes again (log 140). -/
def State.registerCut (s : State) (off : Nat) : Bool :=
  match registerStop off with
  | some t => s.seamCut hubWest t registerPlane
  | none => false

/-- Whether a register access on the network, with its answer where it reads, is held on its way, or, of the host, does not reach the
device at all. -/
def State.accessCut (s : State) (src : RegSource) (off : Nat) (reads : Bool) : Bool :=
  let stop := match src with | .host => hubWest | .stop n => n.val
  (src == .host && !s.hostUp) || (match registerStop off with
    | some t => s.seamCut stop t registerPlane || (reads && s.seamCut t stop registerPlane)
    | none => false)

/-- A write of the register at an offset that has reached it, with what it does. -/
def decoded (off : Nat) (p : Prog Unit) : Prog Unit :=
  .get (fun s => if !s.decodes off then skip else if s.mayWrite off then p else denied)

/-- A host's write of the register at an offset, with what it does: it reaches the device (14 R378, R389) and the register's stop. -/
def gated (off : Nat) (p : Prog Unit) : Prog Unit := .get (fun s => if !s.hostUp || s.registerCut off then skip else decoded off p)

end Sys2Proof.Machine
end

