-- ==== Sys2Proof/Machine/Router.lean ====
section
/-!
DEFINITION. The fabric router's sending side: packet fields, routing, flits, credits and the requests whose answers are
awaited (spec/11_fabric.md R302 to R321).
-/
namespace Sys2Proof.Machine
open Prog hiding pure bind get op run monad

/-! Packet fields (11 R316, R317). -/

def pOp (p : Packet) : Nat := fld p.w0.toNat 63 60
def pTc (p : Packet) : Nat := fld p.w0.toNat 59 58
def pLen (p : Packet) : Nat := fld p.w0.toNat 57 54
def pHop (p : Packet) : Nat := fld p.w0.toNat 53 51
def pOrd (p : Packet) : Bool := p.w0.toNat.testBit 50
def pPoison (p : Packet) : Bool := p.w0.toNat.testBit 49
def pFmt (p : Packet) : Nat := fld p.w0.toNat 48 47
def pRel (p : Packet) : Bool := p.w0.toNat.testBit 46
def pAcq (p : Packet) : Bool := p.w0.toNat.testBit 45
def pSrc (p : Packet) : Nat := fld p.w0.toNat 44 30
def pViaV (p : Packet) : Bool := p.w0.toNat.testBit 29
def pVia (p : Packet) : Nat := fld p.w0.toNat 28 14
def pStream (p : Packet) : Nat := fld p.w0.toNat 7 0
def pDst (p : Packet) : Nat := fld p.w1.toNat 56 42
def pOff (p : Packet) : Nat := fld p.w1.toNat 40 0
def pSpace (p : Packet) : Nat := fld p.w1.toNat 63 62
def pRtag (p : Packet) : Nat := fld p.w2.toNat 15 0
def pStatus (p : Packet) : Nat := fld p.w2.toNat 23 16

/-- A granule from the 36 bytes of a packet. -/
def granOf (b : BitVec 288) : Gran := Gran.ofBurst (toBytes 36 b.toNat)
/-- The 36 bytes of a granule. -/
def burstOf (g : Gran) : BitVec 288 := BitVec.ofNat 288 (ofBytes (g.data ++ g.check))

/-- The length of a packet in bytes (11 R316). -/
def pBytes (p : Packet) : Nat := 32 + 36 * p.grans.length

/-- The bytes of a packet. -/
def packetBytes (p : Packet) : List Byte :=
  toBytes 8 p.w0.toNat ++ toBytes 8 p.w1.toNat ++ toBytes 8 p.w2.toNat ++ toBytes 8 p.w3.toNat ++
    (p.grans.map (fun b => toBytes 36 b.toNat)).flatten

/-- Whether a link counts as up (11 R308). -/
def State.linkIsUp (s : State) (n : Nat) : Bool :=
  let st := s.field F.FAB_LINK_STATUS.STATE n 0
  st == 2 || st == 3

/-- Where the router sends a packet (11 R308). -/
inductive Port where
  | here
  | link (n : Nat)
  | unreachable
deriving DecidableEq, Repr

/-- Header word 0 with its VIA fields set. -/
def setVia (w : Word) (v : Bool) (via : Nat) : Word :=
  BitVec.ofNat 64 (setFld (setFld w.toNat 29 29 (b2n v)) 28 14 via)

/-- One decision of the routing function with the VIA fields settled: the entry of device t, then its alternate (11 R308). -/
def State.routeTo (s : State) (p : Packet) (t : Nat) : Port × Packet :=
  let r i := s.field i 0 t
  if r F.FAB_ROUTE_DEV.VALID = 1 && s.linkIsUp (r F.FAB_ROUTE_DEV.LINK) then (.link (r F.FAB_ROUTE_DEV.LINK), p)
  else if r F.FAB_ROUTE_DEV.VALID = 1 && r F.FAB_ROUTE_DEV.ALT_V == 1 && !pViaV p &&
      s.linkIsUp (r F.FAB_ROUTE_DEV.ALT_LINK) then
    let p' := if r F.FAB_ROUTE_DEV.ALT_VIA = pDst p then p
      else { p with w0 := setVia p.w0 true (r F.FAB_ROUTE_DEV.ALT_VIA) }
    (.link (r F.FAB_ROUTE_DEV.ALT_LINK), p')
  else (.unreachable, p)

/-- The routing function (11 R308): a VIA that names this device is dropped, a packet for this device stays here. -/
def State.route (s : State) (p : Packet) : Port × Packet :=
  let p1 := if pViaV p && pVia p == s.ownId then { p with w0 := setVia p.w0 false (pVia p) } else p
  let t := if pViaV p1 then pVia p1 else pDst p1
  if t = s.ownId then (.here, p1) else s.routeTo p1 t

/-- The channel group of a packet: 0 request, 1 response, 2 tree (11 R305, R312, R317). -/
def pGroup (p : Packet) : Nat :=
  match pOp p with
  | 7 | 8 => 2
  | 1 | 5 | 6 => 1
  | _ => 0

/-- The virtual channel of a packet on a link, its HOP counting that link (11 R305: the channel is that of the HOP it had before
the link). -/
def pVc (p : Packet) : Nat :=
  let k := match pOp p with
    | 7 => 10
    | 8 => 11
    | 1 | 5 | 6 => 5 + min (pHop p - 1) 4
    | _ => min (pHop p - 1) 4
  12 * pTc p + k

/-- A data flit: header, body padded with words of ones, CRC (11 R302, R303). -/
def dataFlit (seq ack start : Nat) (body : List Byte) : BitVec 2048 :=
  let h := place 59 48 seq + place 47 36 ack + place 34 29 start
  let bs := toBytes 8 h ++ body ++ List.replicate (244 - body.length) 0xFF
  BitVec.ofNat 2048 (ofBytes (bs ++ toBytes 4 (crc32c bs)))

/-- A link-management flit (11 R303). -/
def mgmtFlit (ack own link cmd : Nat) : BitVec 2048 :=
  let h := place 63 60 2 + place 47 36 ack
  let bs := toBytes 8 h ++ toBytes 2 own ++ toBytes 1 link ++ toBytes 1 cmd ++ zeroBytes 240
  BitVec.ofNat 2048 (ofBytes (bs ++ toBytes 4 (crc32c bs)))

/-- An idle flit that carries an ACK and, where asked, a NAK (11 R302, R304). -/
def idleFlit (ack : Nat) (nak : Bool) : BitVec 2048 :=
  let h := place 63 60 1 + place 47 36 ack + place 35 35 (b2n nak)
  let bs := toBytes 8 h ++ zeroBytes 244
  BitVec.ofNat 2048 (ofBytes (bs ++ toBytes 4 (crc32c bs)))

/-- An idle flit that returns credit of a virtual channel, in units of 32 bytes (11 R302, R305). -/
def creditFlit (ack vc n : Nat) : BitVec 2048 :=
  let h := place 63 60 1 + place 47 36 ack + place 28 23 vc + place 22 12 n
  let bs := toBytes 8 h ++ zeroBytes 244
  BitVec.ofNat 2048 (ofBytes (bs ++ toBytes 4 (crc32c bs)))

/-- Packets that follow one another cut into data flits (11 R303): START names the first word at which a packet begins; each flit enters
the replay buffer (11 R304). -/
def Link.cut (k : Link) (ps : List Packet) : Link × List (BitVec 2048) :=
  let starts := (ps.foldl (fun (acc : List Nat × Nat) p => (acc.1 ++ [acc.2], acc.2 + pBytes p)) ([], 0)).1
  let bodies := chunksOf 244 (ps.flatMap packetBytes)
  let start (i : Nat) : Nat := match starts.find? (fun a => decide (244 * i ≤ a) && decide (a < 244 * (i + 1))) with
    | some a => (a - 244 * i) / 4
    | none => 63
  let fl := (List.range bodies.length).map (fun i =>
    let seq := (k.nextSeq + i) % 4096
    (seq, dataFlit seq k.lastRx (start i) (nth bodies i [])))
  ({ k with nextSeq := (k.nextSeq + bodies.length) % 4096, replay := k.replay ++ fl,
            tc0Bytes := k.tc0Bytes + (ps.map (fun p => if pTc p = 0 then pBytes p else 0)).sum }, fl.map (·.2))

/-- Whether a link holds credit for a packet and room in its replay buffer (11 R304, R305). -/
def Link.canSend (k : Link) (p : Packet) : Bool :=
  decide (pBytes p ≤ nth k.credits (pVc p) 0 + k.pool) && decide (k.replay.length + (pBytes p + 243) / 244 ≤ 512)

/-- The credit a packet takes: first its channel's own, then the shared part. -/
def Link.spend (k : Link) (p : Packet) : Link :=
  let c := nth k.credits (pVc p) 0
  let a := min c (pBytes p)
  { k with credits := k.credits.set (pVc p) (c - a), pool := k.pool - (pBytes p - a) }

/-- Whether the waiting packet at an index may leave: the link can send it, and none of its channel and input waits before it (11
R305, R310). -/
def Link.mayGo (k : Link) (i : Nat) : Bool :=
  match k.txq[i]? with
  | none => false
  | some p => k.canSend p.packet && (k.txq.take i).all (fun q => q.input != p.input || pVc q.packet != pVc p.packet)

/-- The next in turn after `last`, cyclically among the numbers below `n`. -/
def nextTurn (n last : Nat) (ok : Nat → Bool) : Option Nat :=
  ((List.range n).map (fun k => (last + 1 + k) % n)).find? ok

/-- The candidate of a class: its channel groups take turns by packet, and within a group the inputs (11 R312). -/
def Link.candidate (k : Link) (tc : Nat) : Option (Nat × Nat × Nat) :=
  let is := (List.range k.txq.length).filter k.mayGo
  let of' (g : Nat) (x : Nat) : Option Nat := is.find? (fun i => match k.txq[i]? with
    | some p => pTc p.packet == tc && pGroup p.packet == g && p.input == x
    | none => false)
  match nextTurn 3 (nth k.groupTurn tc 0) (fun g => (List.range 65).any (fun x => (of' g x).isSome)) with
  | none => none
  | some g =>
    match nextTurn 65 (nth k.inputTurn (3 * tc + g) 0) (fun x => (of' g x).isSome) with
    | none => none
    | some x => (of' g x).map (fun i => (i, g, x))

/-- The length of the waiting packet at an index. -/
def Link.lenAt (k : Link) (i : Nat) : Nat := match k.txq[i]? with | some p => pBytes p.packet | none => 0

/-- Deficit round robin over TC1 to TC3 with quanta of weight × 256 bytes (11 R312); `fuel` bounds the visits. -/
def Link.robin (quantum : Nat → Nat) : Nat → Link → Option (Nat × Nat × Nat × Link)
  | 0, _ => none
  | n + 1, k =>
    let c := k.turn
    let on (k : Link) : Link :=
      let c' := if c = 3 then 1 else c + 1
      { k with turn := c', deficit := k.deficit.set c' (nth k.deficit c' 0 + quantum c') }
    match k.candidate c with
    | none => (on { k with deficit := k.deficit.set c 0 }).robin quantum n
    | some (i, g, x) =>
      if k.lenAt i ≤ nth k.deficit c 0 then
        some (i, g, x, { k with deficit := k.deficit.set c (nth k.deficit c 0 - k.lenAt i) })
      else (on k).robin quantum n

/-- The packet that leaves next: TC0 has strict priority (11 R312). What it answers carries the link with its turns moved on. -/
def Link.pick (quantum : Nat → Nat) (k : Link) : Option (Nat × Link) :=
  let moved (k : Link) (tc g x : Nat) : Link :=
    { k with groupTurn := k.groupTurn.set tc g, inputTurn := k.inputTurn.set (3 * tc + g) x }
  match k.candidate 0 with
  | some (i, g, x) => some (i, moved k 0 g x)
  | none => (k.robin quantum 8).map (fun r => (r.1, moved r.2.2.2 (pTc ((k.txq[r.1]?).map (·.packet) |>.getD ⟨0, 0, 0, 0, []⟩)) r.2.1 r.2.2.1))

/-- The quantum of a class in bytes: its weight × 256, a weight of 0 acting as 1 (11 R312, R334). -/
def State.quantum (s : State) (tc : Nat) : Nat :=
  let w := if tc = 1 then s.field F.FAB_CLASS_WEIGHTS.TC1 0 0 else if tc = 2 then s.field F.FAB_CLASS_WEIGHTS.TC2 0 0
    else s.field F.FAB_CLASS_WEIGHTS.TC3 0 0
  256 * max 1 w

/-- The packets that leave now, in order: the turns and the credit of the link move on with each; all of them must fit the replay buffer
with those before (`acc` bytes). `fuel` bounds how many. -/
def Link.select (quantum : Nat → Nat) : Nat → Link → Nat → Link × List TxEntry
  | 0, k, _ => (k, [])
  | n + 1, k, acc =>
    match k.pick quantum with
    | none => (k, [])
    | some (i, k0) =>
      match k.txq[i]? with
      | none => (k, [])
      | some e =>
        let bytes := acc + pBytes e.packet
        if 512 < k.replay.length + ceilDiv bytes 244 then (k, [])
        else
          let (k2, es) := (({ k0 with txq := k0.txq.eraseIdx i }).spend e.packet).select quantum n bytes
          (k2, e :: es)

/-- The link-management flit of slot 255, with the lane command that waits for it; the slots before it that the model does not show were
idle (11 R302, R303; log 152). -/
def mgmtSlot (l : LinkId) : Prog Unit :=
  .get (fun s => (emit (.flit l.val (mgmtFlit s.links[l].lastRx s.ownId l.val s.links[l].command))).bind (fun _ =>
    modLink l (fun k => { k with slot := 0, command := 0 })))

/-- A data or idle flit sent in the next slot; a link-management flit follows slot 254. -/
def sendFlit (l : LinkId) (f : BitVec 2048) : Prog Unit :=
  (emit (.flit l.val f)).bind (fun _ => .get (fun s =>
    if s.links[l].slot = 254 then mgmtSlot l else modLink l (fun k => { k with slot := k.slot + 1 })))

/-- Free parts of the receive buffer returned as credit, in idle flits that also acknowledge (11 R304, R305). -/
def creditsOut (l : LinkId) : Prog Unit :=
  letI := Prog.monad
  do
  let s ← ask id
  each ((List.range 48).filter (fun v => decide (32 ≤ nth s.links[l].owed v 0))) (fun v => do
    let n := min 2047 (nth s.links[l].owed v 0 / 32)
    modLink l (fun k => { k with owed := k.owed.set v (nth k.owed v 0 - 32 * n) })
    sendFlit l (creditFlit s.links[l].lastRx v n))

/-- A packet has left the receive buffer of its input: its bytes are owed to the peer as credit (11 R305). -/
def rxFree (input vc bytes : Nat) : Prog Unit :=
  if h : input < 64 then
    (modLink ⟨input, h⟩ (fun k => { k with owed := k.owed.set vc (nth k.owed vc 0 + bytes) })).bind (fun _ =>
      .get (fun s => when (s.linkIsUp input) (creditsOut ⟨input, h⟩)))
  else skip

/-- The packet that is taken from a receive buffer now goes on standing there: what makes it wait remembers its channel. -/
def rxKeep (input : Nat) (f : Option Nat → Prog Unit) : Prog Unit :=
  .get (fun s => if input < 64 then (modFabric (fun x => { x with rx := none })).bind (fun _ => f s.fabric.rx) else f none)

/-- Whether a copy of an MCAST still waits at a link or at the seam. -/
def State.castWaits (s : State) (id : Nat) : Bool :=
  (List.finRange 64).any (fun l => s.links[l].txq.any (fun q => q.cast == some id)) || s.fabric.transit.any (fun w => w.cast == some id)

/-- A packet leaves an output queue: what it held of a receive buffer is free, of an MCAST with its last copy. -/
def entryFree (e : TxEntry) : Prog Unit :=
  match e.vc with
  | none => skip
  | some v => match e.cast with
    | none => rxFree e.input v (pBytes e.packet)
    | some id => .get (fun s => when (!s.castWaits id) (rxFree e.input v (pBytes e.packet)))

/-- The packet that was taken from a receive buffer has been served: unless it waits, it leaves the buffer. -/
def rxDone (input bytes : Nat) : Prog Unit :=
  .get (fun s => match s.fabric.rx with
    | none => skip
    | some v => (modFabric (fun x => { x with rx := none })).bind (fun _ => rxFree input v bytes))

/-- Waiting packets of a link sent while credit and the replay buffer last (11 R303 to R305, R312); with 512 flits unacknowledged an
idle flit goes out in their place. -/
def pump (l : LinkId) : Prog Unit :=
  letI := Prog.monad
  do
  let s ← ask id
  when (s.linkIsUp l.val) do
    let (k1, es) := s.links[l].select s.quantum s.links[l].txq.length 0
    if es.isEmpty then
      when (decide (512 ≤ s.links[l].replay.length) && !s.links[l].txq.isEmpty) (sendFlit l (idleFlit s.links[l].lastRx false))
    else do
      let (k2, fs) := k1.cut (es.map (·.packet))
      act (.link l k2)
      each es (fun e => emit (.packet l.val e.packet))
      each fs (sendFlit l)
      each es entryFree

/-- A packet sent on a link, HOP one more (it stops at 7); `input` is the link that it arrived on, 64 for what this device
injects. -/
def sendFrom (input n : Nat) (p : Packet) : Prog Unit :=
  if h : n < 64 then
    let p' := { p with w0 := BitVec.ofNat 64 (setFld p.w0.toNat 53 51 (min 7 (pHop p + 1))) }
    (rxKeep input (fun vc => modLink ⟨n, h⟩ (fun k => { k with txq := k.txq ++ [{ input := input, packet := p', vc := vc }] }))).bind (fun _ => pump ⟨n, h⟩)
  else skip

/-- A packet of this device sent on a link. -/
def sendOn (n : Nat) (p : Packet) : Prog Unit := sendFrom 64 n p

/-- A packet held before a seam channel that has lost lock (01 R17). -/
def holdTransit (input : Nat) (out : Option Nat) (p : Packet) : Prog Unit :=
  rxKeep input (fun vc => modFabric (fun x => { x with transit := x.transit ++ [{ input := input, out := out, packet := p, vc := vc }] }))

/-- Whether transit from an input link to an output link is held at the seam: between different router stops it crosses the mesh on
plane n[2:0] of the arrival link n (11 R311). -/
def State.transitCut (s : State) (input out : Nat) : Bool :=
  decide (input < 64) && s.seamCut (linkStop input) (linkStop out) (input % 8)

/-- A packet that arrived by an input leaves on a link, across the mesh where the two sit at different stops. -/
def transitOn (input n : Nat) (p : Packet) : Prog Unit :=
  .get (fun s => if s.transitCut input n then holdTransit input (some n) p else sendFrom input n p)

/-- A copy of an MCAST enters an output queue, HOP one more. -/
def queueCopy (input n : Nat) (p : Packet) (vc cast : Option Nat) : Prog Unit :=
  if h : n < 64 then
    let p' := { p with w0 := BitVec.ofNat 64 (setFld p.w0.toNat 53 51 (min 7 (pHop p + 1))) }
    modLink ⟨n, h⟩ (fun k => { k with txq := k.txq ++ [⟨input, p', vc, cast⟩] })
  else skip

/-- What an output link can send goes out. -/
def pumpAt (n : Nat) : Prog Unit := if h : n < 64 then pump ⟨n, h⟩ else skip

/-- An MCAST from an input is copied to links (11 R327): each copy takes the turn of that input (11 R312); a copy that a lost seam channel
holds waits there. The packet stands in its receive buffer until its last copy leaves (11 R305). -/
def copyOut (input : Nat) (p : Packet) (links : List Nat) : Prog Unit :=
  letI := Prog.monad
  when (!links.isEmpty) (rxKeep input (fun vc => do
    let s ← ask id
    let cast := vc.map (fun _ => s.fabric.casts)
    when vc.isSome (modFabric (fun x => { x with casts := x.casts + 1 }))
    each links (fun l =>
      if s.transitCut input l then modFabric (fun x => { x with transit := x.transit ++ [⟨input, some l, p, vc, cast⟩] })
      else queueCopy input l p vc cast)
    each links pumpAt))

/-- The response or COMPLETE to a request packet (11 R317): request word 1 with the device field replaced by its source, the
request's class and stream. -/
def responseTo (s : State) (p : Packet) (op status npkt old : Nat) (gs : List (BitVec 288)) : Packet :=
  { w0 := BitVec.ofNat 64 (place 63 60 op + place 59 58 (pTc p) + place 57 54 gs.length + place 44 30 s.ownId +
      place 7 0 (pStream p)),
    w1 := BitVec.ofNat 64 (setFld p.w1.toNat 56 42 (pSrc p)),
    w2 := BitVec.ofNat 64 (place 47 32 npkt + place 23 16 status + place 15 0 (pRtag p)),
    w3 := BitVec.ofNat 64 old, grans := gs }

/-- An address-routed packet sent on its way, its way not leading here: HOP_LIMIT and the discard of an unreachable packet are
counted (11 R308, R309). What it answers says whether the packet left. -/
def sendPlain (input : Nat) (p : Packet) : Prog Bool :=
  .get (fun s =>
    match s.route p with
    | (.link n, p') =>
      if 5 ≤ pHop p' then (fabDrop F.FAB_ERROR.HOP_LIMIT).bind (fun _ => .pure true)
      else (transitOn input n p').bind (fun _ => .pure true)
    | (.unreachable, _) => (fabDrop F.FAB_ERROR.UNREACHABLE).bind (fun _ => .pure false)
    | (.here, p') => (emit (.loop p')).bind (fun _ => .pure true))

/-- The granules of a failed answer, as many as its OP has: poison-marked, their data free (11 R317, R320, log 30). -/
def failGrans (p : Packet) : Prog (List (BitVec 288)) :=
  if pOp p = 2 then .pure []
  else collect (List.range (if pOp p = 0 then pLen p else 1)) (fun _ =>
    (fresh 256).bind (fun v => .pure (burstOf (.poisoned (toBytes 32 v)))))

/-- The old value that the answer of a failed atomic carries: the spec states none (log 1). -/
def failOld (p : Packet) : Prog Nat := if pOp p = 3 || pOp p == 4 then fresh 64 else .pure 0

/-- The OP that answers a request: LOAD_RESP, COMPLETE or ATOMIC_RESP. -/
def answerOp (p : Packet) : Nat := if pOp p = 0 then 1 else if pOp p = 2 then 6 else 5

/-- An address-routed packet sent on its way, from an input; a request that is unreachable is answered to its source (11 R309). -/
def forward (input : Nat) (p : Packet) : Prog Unit :=
  letI := Prog.monad
  do
  let s ← ask id
  let ok ← sendPlain input p
  let request := pOp p == 0 || pOp p == 2 || pOp p == 3 || pOp p == 4
  if !ok && request then do
    let gs ← failGrans p
    let old ← failOld p
    let answer := responseTo s p (answerOp p) 4 (if pOp p = 2 then 1 else 0) old gs
    if pSrc p = s.ownId then emit (.loop answer)
    else when ((s.route answer).1 != .unreachable) do
      let _ ← sendPlain 64 answer

/-- An address-routed packet of this device sent. -/
def sendPacket (p : Packet) : Prog Unit := forward 64 p

/-- Whether a request may leave its source now (11 R320): none of its stream is held before it or waits as an acquire, and one
that releases, or carries the signal of its store, waits for every earlier write of its stream. -/
def mayLeave (reqs : List FReq) (before : List HeldReq) (stream : Nat) (waits : Bool) : Bool :=
  !(before.any (fun h => h.req.stream == stream)) &&
    reqs.all (fun r => r.stream != stream || (!r.acq && !(waits && r.op != 0)))

/-- A request that leaves for another device, entered among those whose answer is awaited, or held by the order of its
stream. -/
def sendRequest (o : Origin) (op tc stream addr w2 w3 : Nat) (extra : Nat) (gs : List (BitVec 288)) (len : Nat) : Prog Unit :=
  letI := Prog.monad
  do
  let s ← ask id
  let rtag := s.fabric.rtag
  let p : Packet := {
    w0 := BitVec.ofNat 64 (place 63 60 op + place 59 58 tc + place 57 54 len + place 44 30 s.ownId + place 7 0 stream + extra),
    w1 := BitVec.ofNat 64 addr,
    w2 := BitVec.ofNat 64 (if op = 2 then w2 else w2 + rtag), w3 := BitVec.ofNat 64 w3, grans := gs }
  let q : FReq := ⟨o, rtag, stream, op, addr, len, extra.testBit 45⟩
  let waits := extra.testBit 46 || (op == 2 && w2.testBit 63)
  if mayLeave s.fabric.reqs s.fabric.held stream waits then do
    modFabric (fun f => { f with rtag := (rtag + 1) % 2 ^ 16, reqs := f.reqs ++ [q] })
    sendPacket p
  else modFabric (fun f => { f with rtag := (rtag + 1) % 2 ^ 16, held := f.held ++ [⟨q, p, waits⟩] })

/-- Held requests that may leave, in order (`fuel` bounds how many). -/
def releaseHeld : Nat → Prog Unit
  | 0 => skip
  | n + 1 => .get (fun s =>
      let hs := s.fabric.held
      match (List.range hs.length).find? (fun k => match hs[k]? with
        | some h => mayLeave s.fabric.reqs (hs.take k) h.req.stream h.waits
        | none => false) with
      | none => skip
      | some k => match hs[k]? with
        | none => skip
        | some h =>
          (modFabric (fun f => { f with held := f.held.eraseIdx k, reqs := f.reqs ++ [h.req] })).bind (fun _ =>
            (sendPacket h.packet).bind (fun _ => releaseHeld n)))

/-- A request answered: it leaves the list, and what its stream held may leave (11 R320). -/
def answered (q : FReq) : Prog Unit :=
  (modFabric (fun f => { f with reqs := f.reqs.erase q })).bind (fun _ => .get (fun s => releaseHeld s.fabric.held.length))

end Sys2Proof.Machine
end

