-- ==== Sys2Proof/Machine/Memory.lean ====
section
/-!
DEFINITION. Reads and writes through global addresses: the local address map, bank ownership, the granule code where it is
consumed, partial-granule merges, accumulator memory, host windows and requests to other devices (spec 04 R112 to R119, 05 R155
to R161, 10 R282 to R297, 11 R315 to R321, 14 R390 to R392, 18 R521).
-/
namespace Sys2Proof.Machine
open Prog hiding pure bind get op run monad

/-- What an access is made for: its requester class (05 R157), its consumer unit code (18 R459), the logical core's site, and
the tags of its instruction. -/
structure Req where
  cls   : ReqClass
  unit  : Nat
  site  : Option SiteId := none
  /-- the stop that it sends from, where it is no core's storage unit (01 R19) -/
  stop  : Option Nat := none
  /-- the core that a unit outside it accesses for: its FENCE covers what is written to the host (05 R139, 14 R392) -/
  owner : Option SiteId := none
  /-- the cluster of the Anthill that accesses (18 R521) -/
  ant   : Option Nat := none
  /-- the address of the spill record that the granule belongs to (18 R521) -/
  record : Option Nat := none
  /-- the location of a granule that arrived in a packet and is folded (18 R521) -/
  pkt   : Option Where := none
  /-- it reaches the channel whatever the last-level cache holds, as a Rake access does (01 R37, 10 R292) -/
  direct : Bool := false
  layer : Nat := 0
  oper  : Nat := 0
deriving DecidableEq, Repr

/-- Where a local offset or global address leads (10 R287, 11 R315, 04 R114). -/
inductive Target where
  | lpddr (off : Nat)
  | scratch (i : SiteId) (x : Nat)
  | acc (i : SiteId) (a : Fin 4) (x : Nat)
  | passes (i : SiteId) (a : Fin 4)
  | blank (i : SiteId)
  | unmapped (off : Nat)
  | remote (addr : Nat)
  | window (addr : Nat)
  | regs (off : Nat)
  | bad
deriving DecidableEq, Repr

/-- Base of a site's core-local window (10 R287). -/
def windowBase (i : Nat) : Nat := 0x01C000000000 + i * 0x400000

/-- The local address map (10 R287): LPDDR6 available to jobs; the firmware range and the holes are treated as unmapped (R288);
the windows. -/
def localTarget (off : Nat) : Target :=
  if off < 0x013F80000000 then .lpddr off
  else if off < 0x01C000000000 then .unmapped off
  else if h : (off - 0x01C000000000) / 0x400000 < 144 then
    let i : SiteId := ⟨(off - 0x01C000000000) / 0x400000, h⟩
    let x := (off - 0x01C000000000) % 0x400000
    if x < 0x200000 then .scratch i x
    else if x < 0x280000 then
      let a : Fin 4 := ⟨(x - 0x200000) / 0x20000 % 4, Nat.mod_lt _ (by decide)⟩
      let y := (x - 0x200000) % 0x20000
      if y < 0x18000 then .acc i a y
      else if y < 0x18020 then .passes i a
      else .blank i
    else .blank i
  else .unmapped off

/-- Where a global address leads on this device (11 R315). -/
def State.target (s : State) (addr : Nat) : Target :=
  let dev := fld addr 56 42
  let off := fld addr 40 0
  if fld addr 61 57 != 0 || addr.testBit 41 then .bad
  else match fld addr 63 62 with
    | 0 => localTarget off
    | 1 => if dev = s.ownId then localTarget off else .remote addr
    | 2 => if dev = s.ownId then .window addr else .remote addr
    | _ => if dev = s.ownId then .regs off else .remote addr

/-- Whether the route of an access from a stop to a local offset, by its home slice for LPDDR6 (01 R35), or back, crosses a seam channel
that has lost lock (01 R17, R20). -/
def State.pathCut (s : State) (stop off : Nat) : Bool :=
  !s.noc.seams.isEmpty && (match localTarget off with
    | .lpddr o =>
      let slice := clusterStop (homeSlice o)
      s.seamCut2 stop slice (addressPlane o) || s.seamCut2 slice (channelStop (channelOf o)) (addressPlane o)
    | .scratch i _ | .acc i _ _ | .passes i _ | .blank i => s.seamCut2 stop (siteStop i) (addressPlane off)
    | _ => false)

/-- Whether an access to an address from a stop is held at the seam (01 R17, R20): on its way to its slice, window or register, to HW for
the host's memory, or to the router stop of the link that leads to another device. The plane to the last two is not given; it is free
(log 158). -/
def State.cutFrom (s : State) (stop addr : Nat) : Bool :=
  !s.noc.seams.isEmpty && (match s.target addr with
    | .window a => s.seamCut2 stop hubWest (Config.openPlane a % 8)
    | .regs off => (match registerStop off with
      | some t => s.seamCut2 stop t registerPlane
      | none => false)
    | .remote a => (match s.route ⟨0, BitVec.ofNat 64 a, 0, 0, []⟩ with
      | (.link n, _) => s.seamCut2 stop (linkStop n) (Config.openPlane a % 8)
      | _ => false)
    | .bad | .unmapped _ => false
    | _ => s.pathCut stop (fld addr 40 0))

/-- The stop that a requester sends from; of the collective engine, which the spec places at no stop, none (log 140). -/
def Req.home (rq : Req) : Option Nat := rq.stop.orElse (fun _ => rq.site.map siteStop)

/-- Whether the access of a requester is held at the seam. -/
def State.reqCut (s : State) (rq : Req) (addr : Nat) : Bool := rq.home.any (fun j => s.cutFrom j addr)

/-- Whether an access from HW goes to the window of a core whose clock Hush has stopped: it waits in that core's queue (01 R41). -/
def State.coreWaits (s : State) (addr : Nat) : Bool :=
  s.hushed && (match s.target addr with
    | .scratch i _ | .acc i _ _ | .passes i _ | .blank i => !s.deaf i
    | _ => false)

/-- Whether an access of the host interface is held: at the seam, or in the queue of a stopped core. -/
def State.reqHeld (s : State) (rq : Req) (addr : Nat) : Bool := s.reqCut rq addr || (rq.stop == some hubWest && s.coreWaits addr)

/-! Reads of stored granules. -/

/-- The granule stored at a local offset (a multiple of 32); bytes of LPDDR6 that nothing has written are free (log 2). -/
def State.stored (s : State) (off : Nat) : Gran :=
  let data := (List.range 32).map (fun i => (Mem.get (off + i) s.mem).getD (Config.freeByte s.lost (off + i)))
  let err := if (Mem.get off s.mem).isSome then Chk.get (off / 32) s.chk else Config.freeErr s.lost (off / 32)
  ⟨data, err.toNat⟩

/-- The erased line of an offset's sub-channel, where its erasure mode is on (10 R285). -/
def State.erased (s : State) (off : Nat) : Option Nat :=
  let ch := channelOf off
  let en := if subChannelOf off = 0 then s.flag F.MEM_CH_CONFIG.ERASE_EN0 ch 0 else s.flag F.MEM_CH_CONFIG.ERASE_EN1 ch 0
  let pin := if subChannelOf off = 0 then s.field F.MEM_CH_CONFIG.ERASE_PIN0 ch 0 else s.field F.MEM_CH_CONFIG.ERASE_PIN1 ch 0
  if en && decide (pin < 12) then some pin else none

/-- What a usable LPDDR6 channel passes on of a granule: decoded with erasures where the sub-channel's erasure mode is on (10
R285). -/
def State.passOn (s : State) (off : Nat) (g : Gran) : Gran :=
  match s.erased off with
  | some pin => (g.erasureDecode pin).2
  | none => g

/-- The granule that a usable LPDDR6 channel passes on. -/
def State.lpddrGran (s : State) (off : Nat) : Gran := s.passOn off (s.stored off)

/-- Whether a requester owns a bank (05 R157). -/
def State.owns (s : State) (c : ReqClass) (i : SiteId) (b : Nat) : Bool :=
  let o := s.field F.CORE_BANK_OWNER.OWNER i b
  match c with
  | .seq => o == 0
  | .dma => o == 1
  | .remote k => o == 2 && s.field F.CORE_BANK_OWNER.CORE i b == k.val
  | .lacewing => o == 3
  | .rake => o == 4

/-- The owner code of a requester class. -/
def classCode : ReqClass → Nat
  | .seq => 0 | .dma => 1 | .remote _ => 2 | .lacewing => 3 | .rake => 4

/-- The class of a core's storage unit at a bank: DMA at its own banks, REMOTE at another site's (05 R157). -/
def classAt (s : State) (rq : Req) (i : SiteId) : ReqClass :=
  match rq.cls, rq.site with
  | .dma, some j =>
    if i = j then .dma
    else match s.coreOf j with
      | some k => if h : k < 128 then .remote ⟨k, h⟩ else .dma
      | none => .dma
  | c, _ => c

/-- The eight words 0xDEAD_BEEF that a non-owner reads (05 R158). -/
def deadBeef : List Byte := (List.replicate 8 [(0xEF : Byte), 0xBE, 0xAD, 0xDE]).flatten

/-- An access that met an unmapped or reserved granule, counted (10 R288). -/
def mapEvent (off : Nat) : Prog Unit :=
  (incF F.MEM_MAP_EVENTS.COUNT 0 0 1).bind (fun _ => setF F.MEM_MAP_EVENTS.LAST 0 0 (off / 32))

/-- What stands for a granule whose request was answered with a failure (11 R320): marked beyond any pattern of check bytes; its
data bytes are free (log 30). -/
def failedGran : Prog Gran := (fresh 256).bind (fun v => .pure ⟨toBytes 32 v, 2 ^ 32 + poisonErr⟩)

/-- Whether a granule stands for a failed request. -/
def Gran.failed (g : Gran) : Bool := decide (2 ^ 32 ≤ g.err)

/-- A wanted granule of another device, of the host or of register space: what has arrived, or a note that it is wanted. Of several answers
for one granule each read takes the next, and the last serves every further read. -/
def wanted (addr : Nat) : Prog Gran :=
  .get (fun s => match s.got.find? (fun e => e.1 == addr) with
    | some e =>
      if (s.got.erase e).any (fun x => x.1 == addr) then .op (.got (s.got.erase e)) (.pure e.2) else .pure e.2
    | none => (act (.want (s.want ++ [addr]))).bind (fun _ => .pure (.valid (zeroBytes 32))))

/-- A poison-marked granule that a unit answers with; its data bytes are free (01 R41, 10 R296, log 30). -/
def poisonGran : Prog Gran := (fresh 256).bind (fun v => .pure (.poisoned (toBytes 32 v)))

/-- A corrected granule counted at its channel, with its log and its alert (10 R297, R298). -/
def noteCorrected (off : Nat) (syms : List Nat) (origin : Nat) : Prog Unit :=
  letI := Prog.monad
  let ch := channelOf off
  do
  incF F.MEM_CH_ERR_COUNT.CORRECTED ch 0 1
  setR .MEM_CH_CE_LOG ch 0 (place 63 63 1 + place 62 62 origin + place 55 50 (nth syms 1 63) +
    place 49 44 (nth syms 0 63) + place 35 0 (off / 32))
  let n ← getF F.MEM_CH_ERR_COUNT.CORRECTED ch
  let th ← getF F.MEM_CH_CONFIG.CE_THRESHOLD ch
  when (th != 0 && n == th) (errorBit F.MEM_CH_STATUS.CE_ALERT ch 0)

/-! Reports of consumers (10 R297, R298, 18 R457 to R459, R521). -/

/-- The record location of a granule that a consumer met. -/
def State.granWhere (s : State) (rq : Req) (addr : Nat) : Where :=
  let base : Where := match s.target addr with
    | .scratch i x => { Where.ofSite i with struct := 1, address := windowBase i + x }
    | .acc i a _ => { Where.ofSite i with level := 3, array := a.val, struct := 2, address := fld addr 40 0 }
    | .lpddr off => { struct := 5, address := off }
    | .unmapped off => { struct := if off < 0x014000000000 then 5 else 0, address := off }
    | .window _ => { struct := 8 }
    | .remote a => { address := a }
    | _ => { address := fld addr 40 0 }
  let base : Where := match rq.ant with
    | some c => { Where.ofCluster c with struct := 4, address := fld (rq.record.getD addr) 40 0 }
    | none => base
  let base : Where := match rq.pkt with
    | some w => w
    | none => base
  { base with layer := rq.layer, oper := rq.oper }

/-- The record location of a granule that a consumer met, by the structure that holds it (18 R521): for LPDDR6 read through its home slice,
the slice or LPDDR6, as the slice holds the line or not, which is free (log 126). -/
def granPlace (rq : Req) (addr : Nat) : Prog Where :=
  .get (fun s =>
    let w := s.granWhere rq addr
    match s.target addr with
    | .lpddr off =>
      if rq.direct || rq.cls == .rake || rq.pkt.isSome || rq.ant.isSome then .pure w
      else (fresh 1).bind (fun v => .pure (if v == 0 then w
        else { Where.ofCluster (homeSlice off) with struct := 3, address := off, layer := w.layer, oper := w.oper }))
    | _ => .pure w)

/-- The report of a granule to its channel, if it is LPDDR6-backed here, and its fault record. -/
def reportGran (rq : Req) (addr : Nat) (o : GOut) (origin : Nat) : Prog Unit :=
  letI := Prog.monad
  do
  let s ← ask id
  let off := fld addr 40 0
  let ch := channelOf off
  let isMem := rq.pkt.isNone && (match s.target addr with
    | .lpddr _ => true
    | .unmapped off => decide (off < 0x014000000000)
    | _ => false)
  -- a granule of accumulator memory that is not correctable counts at its core, whoever reads it (04 R105, R128)
  let inAcc : Prog Unit := match rq.pkt, s.target addr with
    | none, .acc i _ _ => incF F.CORE_ARRAY_EVENTS.ACC_UNCORR i 0 1
    | _, _ => skip
  match o with
  | .clean => skip
  | .corrected syms =>
    when isMem (noteCorrected off syms origin)
  | .uncorr => do
    inAcc
    when isMem do
      incF F.MEM_CH_ERR_COUNT.UNCORRECTED ch 0 1
      when (!s.flag F.MEM_CH_UE_LOG.VALID ch 0)
        (setR .MEM_CH_UE_LOG ch 0 (place 63 63 1 + place 62 62 origin + place 35 0 (off / 32)))
    let w ← granPlace rq addr
    faultRecord 1 rq.unit w
  | .poison => do
    inAcc
    when isMem (incF F.MEM_CH_ERR_COUNT.POISON ch 0 1)
    let w ← granPlace rq addr
    faultRecord 2 rq.unit w

/-- The channel of an offset is in power-down (10 R278). -/
def State.asleep (s : State) (off : Nat) : Bool :=
  if h : channelOf off < 64 then s.channels[channelOf off].powerDown else false

/-- A channel leaves power-down for a request (10 R278). -/
def wake (off : Nat) : Prog Unit :=
  if h : channelOf off < 64 then
    .get (fun s => when (s.channels[channelOf off].powerDown) (modChannel ⟨channelOf off, h⟩ (fun c => { c with powerDown := false })))
  else skip

/-- The line of the last-level cache that holds an offset, while its slice may hold it dirty (01 R35, R36). -/
def State.dirtyLine (s : State) (off : Nat) : Option LlcLine :=
  if h : homeSlice off < 18 then s.clusters[homeSlice off].llc.find? (fun e => e.line == off / 128) else none

/-- The four granules of an offset's line as its slice holds them. -/
def State.lineGrans (s : State) (off : Nat) : List Gran := (List.range 4).map (fun k => s.stored (off / 128 * 128 + 32 * k))

/-- What an offset's slice knows of its line, replaced: LPDDR6 may hold any of these contents; with none it holds what the slice holds. -/
def setLine (off : Nat) (olds : List (List Gran)) : Prog Unit :=
  if h : homeSlice off < 18 then
    let now : List LlcLine := if olds.isEmpty then [] else [⟨off / 128, olds⟩]
    modCluster ⟨homeSlice off, h⟩ (fun c => { c with llc := now ++ c.llc.filter (fun e => e.line != off / 128) })
  else skip

/-- A write through the home slice is about to change a line: LPDDR6 may go on holding what it held, or what the line held until now (01
R35). -/
def dirtied (off : Nat) : Prog Unit :=
  .get (fun s =>
    let olds := match s.dirtyLine off with | some e => e.olds | none => []
    setLine off (olds.filter (· != s.lineGrans off) ++ [s.lineGrans off]))

/-- The home slice writes a line back and invalidates it, as a Rake access and a fill ask it to (01 R37, 10 R292). -/
def flushLine (off : Nat) : Prog Unit := .get (fun s => when (s.dirtyLine off).isSome (setLine off []))

/-- A write of LPDDR6 comes: through the home slice, or past it. -/
def cached (rq : Req) (off : Nat) : Prog Unit := if rq.direct || rq.cls == .rake then flushLine off else dirtied off

/-- What LPDDR6 itself holds of an offset's line: which of the contents that are possible is drawn, and is then known. -/
def settleLine (off : Nat) : Prog (List Gran) :=
  letI := Prog.monad
  do
  let s ← ask id
  match s.dirtyLine off with
  | none => pure (s.lineGrans off)
  | some e => do
    let v ← fresh 32
    let n := v % (e.olds.length + 1)
    if n = e.olds.length then do
      setLine off []
      pure (s.lineGrans off)
    else do
      setLine off [nth e.olds n []]
      pure (nth e.olds n [])

/-- Whether an access reaches its channel, or its home slice serves it from the last-level cache (01 R35). Which lines a slice holds the
spec leaves open, so that it is free, also of a line that it may hold dirty and may have written back (log 126); it is drawn only where the channel would show it, in power-down or in erasure mode. A Rake
access and a fill always reach the channel (01 R37, 10 R292). -/
def reaches (rq : Req) (off : Nat) : Prog Bool :=
  .get (fun s =>
    if rq.direct || rq.cls == .rake || !(s.asleep off || (s.erased off).isSome) then .pure true
    else (fresh 1).bind (fun v => .pure (v == 0)))

/-- An access of LPDDR6 that ends its channel's power-down where it reaches it. -/
def wakeFor (rq : Req) (off : Nat) : Prog Unit := (reaches rq off).bind (fun b => when b (wake off))

/-- A read at its controller: the channel wakes, and a controller in erasure mode reports what it corrects and what it cannot, as the
consumer does that it reads for (10 R278, R284, R285). -/
def channelRead (rq : Req) (off : Nat) : Prog Gran :=
  letI := Prog.monad
  do
  wake off
  let s ← ask id
  match (s.erased off).map (s.stored off).erasureDecode with
  | some (o, _) => reportGran { rq with direct := true } off o 0
  | none => skip
  pure (s.lpddrGran off)

/-- A read of LPDDR6 through its home slice: the controller reads unless the slice holds the line. -/
def readLpddr (rq : Req) (off : Nat) : Prog Gran :=
  letI := Prog.monad
  do
  when (rq.direct || rq.cls == .rake) (flushLine off)
  let miss ← reaches rq off
  if miss then channelRead rq off else ask (fun s => s.lpddrGran off)

/-- One granule read at a global address, as it travels, before any decoder. A read that a lost seam channel holds is awaited like
one of another device (01 R17, log 140). -/
def readRaw (rq : Req) (addr : Nat) : Prog Gran :=
  letI := Prog.monad
  do
  let s ← ask id
  if s.reqHeld rq addr then wanted addr else match s.target addr with
  | .lpddr off => if s.flag F.MEM_CH_STATUS.FAILED (channelOf off) 0 then poisonGran else readLpddr rq off
  | .scratch i x =>
    if s.deaf i then do
      nocDrop F.TOP_NOC_ERROR.DROP_FENCED (clusterStop (clusterOf i).val)
      poisonGran
    else if s.owns (classAt s rq i) i (x / 0x10000) then pure (s.stored (windowBase i + x))
    else do
      incF F.CORE_DROP_COUNT.READS i 0 1
      pure (.valid deadBeef)
  | .acc i _ _ =>
    if s.deaf i then do
      nocDrop F.TOP_NOC_ERROR.DROP_FENCED (clusterStop (clusterOf i).val)
      poisonGran
    else pure (s.stored (fld addr 40 0))
  | .passes i a =>
    if s.deaf i then do
      nocDrop F.TOP_NOC_ERROR.DROP_FENCED (clusterStop (clusterOf i).val)
      poisonGran
    else pure (.valid ((s.sites[i].arrays[a].pass).map (BitVec.ofNat 8)))
  | .blank i =>
    if s.deaf i then do
      nocDrop F.TOP_NOC_ERROR.DROP_FENCED (clusterStop (clusterOf i).val)
      poisonGran
    else pure (.valid (zeroBytes 32))
  | .unmapped off => do
    mapEvent off
    pure (.valid (zeroBytes 32))
  | .remote a => wanted a
  | .window a =>
    let w := fld a 40 38
    let pos := fld a 37 0
    let lg := min 38 (max 12 (s.field F.HST_WIN_SIZE.LOG2 0 w))
    if s.flag F.HST_WIN_SIZE.ENABLE 0 w && decide (pos < 2 ^ lg) then wanted a
    else do
      errorBit F.HST_ERROR.WIN_MISS 0 0
      pure (.valid (zeroBytes 32))
  | .regs off => wanted (place 63 62 3 + place 56 42 s.ownId + off)
  | .bad => do
    fabDrop F.FAB_ERROR.BAD_ADDR
    remoteStatus 3
    failedGran

/-! Granules where they are consumed (10 R297, 18 R457). -/

/-- A granule consumed: its data, corrected where possible, or none where it is uncorrectable or POISON. -/
def consume (rq : Req) (addr : Nat) (g : Gran) : Prog (Option (List Byte)) :=
  letI := Prog.monad
  do
  if g.failed then pure none
  else do
  let (o, d) := g.decode
  reportGran rq addr o 0
  match o with
  | .clean | .corrected _ => pure (some d)
  | _ => pure none

/-- A granule taken by a same-format copy (05 R161, 18): its corrected data, or the data as received and a mark; POISON is
copied as it is, without a record. -/
def consumeCopy (rq : Req) (addr : Nat) (g : Gran) : Prog (List Byte × Bool) :=
  letI := Prog.monad
  if g.failed then pure (g.data, true)
  else do
  let (o, d) := g.decode
  match o with
  | .poison => do
    let s ← ask id
    let isMem := match s.target addr with | .lpddr _ => true | _ => false
    when isMem (incF F.MEM_CH_ERR_COUNT.POISON (channelOf (fld addr 40 0)) 0 1)
    pure (g.data, true)
  | .uncorr => do
    reportGran rq addr o 0
    pure (g.data, true)
  | _ => do
    reportGran rq addr o 0
    pure (d, false)

/-- Granules read and consumed: each address with its data, or none where its code failed. -/
abbrev GMap := List (Nat × Option (List Byte))

/-- A number added to an ascending list without repeats. -/
def addAsc (a : Nat) : List Nat → List Nat
  | [] => [a]
  | b :: t => if a < b then a :: b :: t else if a = b then b :: t else b :: addAsc a t

/-- A number added at the end of a list without repeats. -/
def addNew (a : Nat) : List Nat → List Nat
  | [] => [a]
  | b :: t => if a = b then b :: t else b :: addNew a t

/-- The distinct granule addresses that hold the given byte addresses, in the order of their first use: descending where a negative stride
has the elements descend (08 R224; log 136). -/
def granulesOf (addrs : List Nat) : List Nat := addrs.foldl (fun l a => addNew (a / 32 * 32) l) []

/-- Granules read and consumed, one request each in the order given. -/
def fetchGrans (rq : Req) (gs : List Nat) : Prog GMap :=
  letI := Prog.monad
  collect gs (fun a => do
    let g ← readRaw rq a
    let d ← consume rq a g
    pure (a, d))

/-- Distinct granules read once each and consumed. -/
def fetch (rq : Req) (addrs : List Nat) : Prog GMap := fetchGrans rq (granulesOf addrs)

/-- The byte at an address of what was fetched; none if its granule's code failed. -/
def GMap.byte (m : GMap) (a : Nat) : Option Nat :=
  match m.find? (fun e => e.1 == a / 32 * 32) with
  | some (_, some d) => some (nth d (a % 32) 0).toNat
  | _ => none

/-- `n` little-endian bytes at an address of what was fetched; none if a granule of them failed. -/
def GMap.bytes (m : GMap) (a n : Nat) : Option Nat :=
  (List.range n).foldr (fun i acc => match m.byte (a + i), acc with
    | some b, some v => some (b + 256 * v)
    | _, _ => none) (some 0)

/-- The consecutive byte addresses of a range. -/
def span (a n : Nat) : List Nat := (List.range n).map (fun i => (a + i) % 2 ^ 64)

/-- A little-endian number of `n` bytes read and consumed at an address. -/
def readNum (rq : Req) (a n : Nat) : Prog (Option Nat) :=
  letI := Prog.monad
  do
  let m ← fetch rq (span a n)
  pure (m.bytes a n)

/-! Writes. -/

/-- What a write leaves in one granule: per byte a mask of the bits written and their value; `bad` marks it for poison. -/
structure Patch where
  addr  : Nat
  cells : List (Nat × Nat)
  bad   : Bool
deriving DecidableEq, Repr

/-- Bits of one byte added to a set of patches; later writes prevail. The patches stand in the order of their first writes, so that they leave
the unit in ascending linear source index (08 R226). -/
def Patch.add (addr mask val : Nat) (bad : Bool) : List Patch → List Patch
  | [] => [⟨addr / 32 * 32, (List.replicate 32 (0, 0)).set (addr % 32) (mask, val &&& mask), bad⟩]
  | p :: t =>
    if p.addr = addr / 32 * 32 then
      let (m, v) := nth p.cells (addr % 32) (0, 0)
      { p with cells := p.cells.set (addr % 32) (m ||| mask, (v - (v &&& mask)) ||| (val &&& mask)), bad := p.bad || bad } :: t
    else p :: Patch.add addr mask val bad t

/-- `n` little-endian bytes of a value added to a set of patches. -/
def Patch.addNum (addr n val : Nat) (bad : Bool) (ps : List Patch) : List Patch :=
  (List.range n).foldl (fun ps i => Patch.add ((addr + i) % 2 ^ 64) 0xFF ((val >>> (8 * i)) % 256) bad ps) ps

/-- Bytes added to a set of patches. -/
def Patch.addBytes (addr : Nat) (bs : List Byte) (ps : List Patch) : List Patch :=
  (List.range bs.length).foldl (fun ps i => Patch.add ((addr + i) % 2 ^ 64) 0xFF (nth bs i 0).toNat false ps) ps

def Patch.full (p : Patch) : Bool := p.cells.all (fun c => c.1 == 0xFF)

/-- The bytes of a patch over old bytes. -/
def Patch.onto (p : Patch) (old : List Byte) : List Byte :=
  List.zipWith (fun c b => BitVec.ofNat 8 ((b.toNat - (b.toNat &&& c.1)) ||| c.2)) p.cells old

/-- The granule stored at a local offset. -/
def putGran (off : Nat) (g : Gran) : Prog Unit :=
  (each (List.range 32) (fun i => act (.byte (off + i) (nth g.data i 0)))).bind (fun _ =>
    act (.code (off / 32) (BitVec.ofNat 32 g.err)))

/-- The granule that a patch makes of an old one: a whole granule gets a new code; a part is merged into the corrected old
data, poison-marked if the old granule was uncorrectable or poisoned (10 R283, R284). -/
def mergeGran (rq : Req) (addr : Nat) (p : Patch) (old : Gran) : Prog Gran :=
  letI := Prog.monad
  do
  if p.full then pure (if p.bad then .poisoned (p.onto (zeroBytes 32)) else .valid (p.onto (zeroBytes 32)))
  else do
    let d ← consume rq addr old
    match d with
    | some b => pure (if p.bad then .poisoned (p.onto b) else .valid (p.onto b))
    | none => pure (.poisoned (p.onto old.data))

/-- Pass counts of the tiles whose bytes from lo to hi - 1 are written go back to 0, in the layout of a mode (02 R67). -/
def clearPasses (i : SiteId) (a : Fin 4) (long : Bool) (lo hi : Nat) : Prog Unit :=
  let sz := if long then 3072 else 4096
  let clear (v : ArrayState) : ArrayState :=
    { v with pass := (List.range 32).map (fun t => if lo < sz * (t + 1) ∧ sz * t < hi then 0 else nth v.pass t 0) }
  modSite i (fun t => { t with arrays := t.arrays.set a (clear t.arrays[a]) })

/-- Pass counts of the tiles that an ordinary write touches go back to 0 (04 R119): the tile of the layout in force. -/
def resetPass (i : SiteId) (a : Fin 4) (x : Nat) : Prog Unit :=
  .get (fun s => clearPasses i a (s.flag F.CORE_ARRAY_CONFIG.ACC_MODE i 0) x (x + 32))

/-- A write of one granule's part at a global address. A granule of another device is answered, to be stored by packets. -/
def writePatch (rq : Req) (p : Patch) : Prog (Option (Nat × Gran)) :=
  letI := Prog.monad
  do
  let s ← ask id
  if s.reqHeld rq p.addr then do
    let _ ← wanted p.addr
    pure none
  else match s.target p.addr with
  | .lpddr off => do
    when (!s.flag F.MEM_CH_STATUS.FAILED (channelOf off) 0) do
      let old ← if p.full then pure (s.lpddrGran off) else readLpddr rq off
      let g ← mergeGran rq off p old
      wakeFor rq off
      cached rq off
      putGran off g
    pure none
  | .scratch i x =>
    if s.deaf i then do
      nocDrop F.TOP_NOC_ERROR.DROP_FENCED (clusterStop (clusterOf i).val)
      pure none
    else if s.owns (classAt s rq i) i (x / 0x10000) then do
      let off := windowBase i + x
      let g ← mergeGran rq off p (s.stored off)
      putGran off g
      pure none
    else do
      incF F.CORE_DROP_COUNT.WRITES i 0 1
      setF F.CORE_DROP_COUNT.LAST_BANK i 0 (x / 0x10000)
      setF F.CORE_DROP_COUNT.LAST_REQ i 0 (classCode (classAt s rq i))
      pure none
  | .acc i a x =>
    if s.deaf i then do
      nocDrop F.TOP_NOC_ERROR.DROP_FENCED (clusterStop (clusterOf i).val)
      pure none
    else do
      let off := fld p.addr 40 0
      let g ← mergeGran rq off p (s.stored off)
      putGran off g
      resetPass i a x
      pure none
  | .passes i _ | .blank i => do
    when (s.deaf i) (nocDrop F.TOP_NOC_ERROR.DROP_FENCED (clusterStop (clusterOf i).val))
    pure none
  | .unmapped off => do
    mapEvent off
    pure none
  | .remote a => do
    if p.full then pure (some (a, if p.bad then .poisoned (p.onto (zeroBytes 32)) else .valid (p.onto (zeroBytes 32))))
    else do
      let old ← wanted a
      let g ← mergeGran rq a p old
      pure (some (a, g))
  | .window a => do
    let w := fld a 40 38
    let pos := fld a 37 0
    let lg := min 38 (max 12 (s.field F.HST_WIN_SIZE.LOG2 0 w))
    if s.flag F.HST_WIN_SIZE.ENABLE 0 w && decide (pos < 2 ^ lg) then do
      let base := s.reg .HST_WIN_BASE 0 w + pos
      each (List.range 32) (fun k =>
        let bs := [BitVec.ofNat 8 (nth p.cells k (0, 0)).2]
        when ((nth p.cells k (0, 0)).1 != 0) (emit (if p.bad then .hostWritePoisoned (base + k) bs s.host.relaxed else .hostWrite (base + k) bs s.host.relaxed)))
      match rq.site.orElse (fun _ => rq.owner) with
      | some i => modSite i (fun t => { t with unseen := if t.unseen.contains (rq.unit, w) then t.unseen else t.unseen ++ [(rq.unit, w)] })
      | none => skip
      pure none
    else do
      errorBit F.HST_ERROR.WIN_MISS 0 0
      pure none
  | .regs off => do
    each (List.range 4) (fun k =>
      when ((List.range 8).all (fun j => (nth p.cells (8 * k + j) (0, 0)).1 == 0xFF))
        (emit (.nocReg (off + 8 * k)
          (some ((List.range 8).foldr (fun j v => (nth p.cells (8 * k + j) (0, 0)).2 + 256 * v) 0)))))
    pure none
  | .bad => do
    fabDrop F.FAB_ERROR.BAD_ADDR
    pure none

/-- The granules (local offset ÷ 32) whose contents differ between two states. -/
def State.changed (s t : State) : List Nat :=
  ((s.mem.filter (fun c => !t.mem.contains c) ++ t.mem.filter (fun c => !s.mem.contains c)).map (fun (c : Host.Cell) => c.1 / 32) ++
    (s.chk.filter (fun c => !t.chk.contains c) ++ t.chk.filter (fun c => !s.chk.contains c)).map
      (fun (c : Nat × BitVec 32) => c.1)).eraseDups

/-- Those granules with what they held in each of the states. -/
def State.writtenIn (s t : State) : List (Nat × Gran × Gran) := (s.changed t).map (fun g => (g, s.stored (32 * g), t.stored (32 * g)))

/-- What a granule holds when a write of it, from `before` to `after`, is undone: later writes of other bytes stay. -/
def Gran.undo (before after now : Gran) : Gran :=
  ⟨(List.range 32).map (fun k => if nth now.data k 0 = nth after.data k 0 then nth before.data k 0 else nth now.data k 0),
   if now.err = after.err then before.err else now.err⟩

/-- What an instruction in flight wrote to a granule can no longer be undone: a delivery has since replaced it. -/
def Site.settled (g : Nat) (x : Site) : Site :=
  { x with flights := x.flights.map (fun f => { f with touched := f.touched.filter (fun t => t.1 != g) }) }

/-- A delivery that is accepted into a granule is not undone by an ABORT of an instruction that wrote the granule before (05 R135). -/
def settle (off : Nat) : Prog Unit :=
  .get (fun s => each ((List.finRange 144).filter (fun i => s.sites[i].flights.any (fun f => f.touched.any (fun t => t.1 == off / 32))))
    (fun i => modSite i (Site.settled (off / 32))))

/-- Writes of an interrupted unit: whichever part was written stands, whole granule by whole granule; which, is free (05 R135, 10 R289,
log 46). -/
def tear (gs : List (Nat × Gran × Gran)) : Prog Unit :=
  letI := Prog.monad
  each gs (fun g => do
    let v ← fresh 1
    when (v == 0) do
      let s ← ask id
      putGran (32 * g.1) (Gran.undo g.2.1 g.2.2 (s.stored (32 * g.1))))

/-- Writes that an interrupted unit would have made, from what is there to what they would leave: whichever part was written stands. -/
def partly (gs : List (Nat × Gran × Gran)) : Prog Unit :=
  each gs (fun g => (fresh 1).bind (fun v => when (v == 1) ((flushLine (32 * g.1)).bind (fun _ => putGran (32 * g.1) g.2.2))))

/-- A whole granule placed at a local offset with its check bytes unchanged (10 R284), under bank ownership as class DMA. Of an access of
several granules to the window of a fenced site each is discarded and counted by itself: it travels as one packet a granule, which is the
model's choice (log 110). -/
def placeGran (off : Nat) (g : Gran) : Prog Unit :=
  letI := Prog.monad
  do
  let s ← ask id
  match localTarget off with
  | .lpddr o => when (!s.flag F.MEM_CH_STATUS.FAILED (channelOf o) 0) ((wakeFor { cls := .dma, unit := 0 } o).bind (fun _ =>
      (dirtied o).bind (fun _ => (putGran o g).bind (fun _ => settle o))))
  | .scratch i x =>
    if s.deaf i then nocDrop F.TOP_NOC_ERROR.DROP_FENCED (clusterStop (clusterOf i).val)
    else if s.owns .dma i (x / 0x10000) then (putGran (windowBase i + x) g).bind (fun _ => settle (windowBase i + x))
    else do
      incF F.CORE_DROP_COUNT.WRITES i 0 1
      setF F.CORE_DROP_COUNT.LAST_BANK i 0 (x / 0x10000)
      setF F.CORE_DROP_COUNT.LAST_REQ i 0 (classCode .dma)
  | .acc i a x =>
    if s.deaf i then nocDrop F.TOP_NOC_ERROR.DROP_FENCED (clusterStop (clusterOf i).val)
    else do
      putGran off g
      settle off
      resetPass i a x
  | .passes i _ | .blank i => when (s.deaf i) (nocDrop F.TOP_NOC_ERROR.DROP_FENCED (clusterStop (clusterOf i).val))
  | .unmapped o => mapEvent o
  | _ => skip

/-- Patches written; the granules of other devices are answered. -/
def writePatches (rq : Req) (ps : List Patch) : Prog (List (Nat × Gran)) :=
  letI := Prog.monad
  do
  let r ← collect ps (writePatch rq)
  pure (r.filterMap id)

/-- Consecutive granules of one device and host window grouped into runs of at most eight (11 R317, 14 R390). -/
def runs8 : List (Nat × Gran) → List (Nat × List Gran)
  | [] => []
  | (a, g) :: t =>
    match runs8 t with
    | (b, gs) :: r => if b = a + 32 && b % 2 ^ 38 != 0 && decide (gs.length < 8) then (a, g :: gs) :: r else (a, [g]) :: (b, gs) :: r
    | [] => [(a, [g])]

/-- A STORE instruction's signal (11 R320): whether it releases and whether it signals, with core and counter. -/
structure Signal where
  rel  : Bool := false
  sig  : Bool := false
  core : Nat := 0
  cc   : Nat := 0
deriving DecidableEq, Repr

/-- Granules stored to other devices as STORE packets of one stream (11 R318 to R320); `le` is the layout epoch of TC1. -/
def sendStores (o : Origin) (tc stream le : Nat) (sg : Signal) (gs : List (Nat × Gran)) : Prog Unit :=
  let rs := runs8 gs
  each (List.range rs.length) (fun k =>
    match rs[k]? with
    | none => skip
    | some (a, g) =>
      let last := k + 1 == rs.length
      let extra := place 46 46 (b2n (sg.rel && k == 0))
      let w2 := place 63 63 (b2n (sg.sig && last)) + (if sg.sig && last then place 62 56 sg.core + place 55 52 sg.cc else 0) +
        place 39 32 le
      sendRequest o 2 tc stream a w2 0 extra (g.map burstOf) g.length)

/-- Bytes written at a local or global address by a unit that is not a core's instruction, remote granules as STOREs of
stream `stream` and class `tc`. -/
def storeBytes (rq : Req) (o : Origin) (tc stream : Nat) (addr : Nat) (bs : List Byte) : Prog Unit :=
  letI := Prog.monad
  do
  let r ← writePatches rq (Patch.addBytes addr bs [])
  sendStores o tc stream 0 {} r

/-- A signal to a completion counter (11 R321): CORE_CC wraps; a signal to an absent core is dropped and counted; one to a core whose clock
Hush has stopped waits in its queue (01 R41). -/
def signalCC (core cc : Nat) : Prog Unit :=
  .get (fun s => match s.siteOf core with
    | some i =>
      if s.deaf i then fabDrop F.FAB_ERROR.SIG_DROP
      else if s.hushed then modNoc (fun n => { n with cores := n.cores ++ [.signal core cc] })
      else addF F.CORE_CC.VALUE i cc 1
    | none => fabDrop F.FAB_ERROR.SIG_DROP)

/-- The ring whose copy a read of host memory serves. -/
def HRead.ring (q : HRead) : Option Nat := match q.origin with | .ring r => some r.val | _ => none

/-- The next read to be sent among those that wait: reads of no copy in their order (log 153); then the copies in chunks of 4 KiB, the
chunk begun first, then ring 15, then rings 0 to 14 round robin after the last of them that moved a chunk (14 R384). -/
def HostIf.pick (h : HostIf) : Option HRead :=
  let at' (r : Nat) := h.waiting.find? (fun q => q.ring == some r)
  (h.waiting.find? (fun q => q.ring.isNone)).orElse (fun _ =>
    (h.waiting.find? (fun q => q.ring == some h.lastCopy.1 && q.chunk == h.lastCopy.2)).orElse (fun _ =>
      (at' 15).orElse (fun _ => (List.range 15).findSome? (fun k => at' ((h.turn + 1 + k) % 15)))))

/-- A ring has moved a chunk. -/
def HostIf.took (h : HostIf) (r : Nat) : HostIf := { h with turn := if r < 15 then r else h.turn }

/-- One waiting read sent, if one of the 768 tags is free (14 R376). While the link is down no request leaves, and only a timeout ends
the read (log 153). -/
def sendRead : Prog Unit :=
  .get (fun s => match s.host.pick with
    | none => skip
    | some q => when (decide (s.host.reads.length < 768)) ((modHost (fun h => { h with
        waiting := h.waiting.erase q, reads := h.reads ++ [q]
        lastCopy := match q.ring with | some r => (r, q.chunk) | none => h.lastCopy
        turn := match q.ring with | some r => (h.took r).turn | none => h.turn })).bind (fun _ =>
          when s.host.linkUp (emit (.hostRead q.tag q.addr q.len)))))

/-- Reads that wait for a tag are sent as far as tags are free. -/
def sendReads : Prog Unit := .get (fun s => each (List.range s.host.waiting.length) (fun _ => sendRead))

/-- A read of host memory that the PCIe controller requests (14 R391), under a number that stands for its tag (log 32). -/
def hostReadOf (o : Origin) (addr len dest chunk : Nat) : Prog Unit :=
  .get (fun s =>
    let t := s.host.nextTag
    (modHost (fun h => { h with nextTag := t + 1, waiting := h.waiting ++ [⟨t, o, addr, len, dest, chunk⟩] })).bind (fun _ => sendReads))

def hostReadReq (o : Origin) (addr len dest : Nat) : Prog Unit := hostReadOf o addr len dest 0

/-- The bytes of one read request: at most 512, and at most the Max Read Request Size that the host has set (14 R376). -/
def HostIf.readSize (h : HostIf) : Nat := 2 ^ (7 + min 2 h.request)

/-- Reads of consecutive host memory, split (14 R376), each with where its data goes and its chunk of 4 KiB. -/
def hostReads (o : Origin) (addr len dest : Nat) : Prog Unit :=
  .get (fun s =>
    let n := s.host.readSize
    each (List.range (ceilDiv len n)) (fun k => hostReadOf o (addr + n * k) (min n (len - n * k)) (dest + n * k) (n * k / 4096)))

/-- Consecutive wanted granules of one device and host window grouped into runs of at most eight. -/
def wantRuns : List Nat → List (Nat × Nat)
  | [] => []
  | a :: t =>
    match wantRuns t with
    | (b, n) :: r => if b = a + 32 && b % 2 ^ 38 != 0 && decide (n < 8) then (a, n + 1) :: r else (a, 1) :: (b, n) :: r
    | [] => [(a, 1)]

/-- The granules of an array read whole; none where one is not correctable. -/
def readArray (rq : Req) (base bytes : Nat) : Prog (Option (List Byte)) :=
  letI := Prog.monad
  do
  let gs ← collect (List.range (ceilDiv bytes 32)) (fun q => do
    let a := (base / 32 * 32 + 32 * q) % 2 ^ 64
    let g ← readRaw rq a
    consume rq a g)
  pure (if gs.all Option.isSome then some (gs.map (fun g => g.getD [])).flatten else none)

/-- Requests for wanted granules: LOADs to other devices (TC2), reads of host memory through the windows, register reads on
the mesh. `extra` is set on the last LOAD (ACQ, 11 R320). -/
def requestWanted (o : Origin) (tc stream extra : Nat) (ws : List Nat) : Prog Unit :=
  let rs := wantRuns ws
  each (List.range rs.length) (fun k =>
    match rs[k]? with
    | none => skip
    | some (a, n) => .get (fun s =>
      match s.target a with
      | .window _ =>
        hostReads o (s.reg .HST_WIN_BASE 0 (fld a 40 38) + fld a 37 0) (32 * n) a
      | .regs off => each (List.range (4 * n)) (fun j => emit (.nocReg (off + 8 * j) none))
      | .lpddr _ | .scratch _ _ | .acc _ _ _ | .passes _ _ | .blank _ => skip
      | _ => sendRequest o 0 tc stream a 0 0 (if k + 1 = rs.length then extra else 0) [] n))

end Sys2Proof.Machine
end

