-- ==== Sys2Proof/Machine/Sparse.lean ====
section
/-!
DEFINITION. Transposable 2:4 patterns, their ids and masks, the places of stored values, ids and scales
(spec/03_sparse_formats.md R76 to R88).
-/
namespace Sys2Proof.Machine

/-- The row mask of each pair index (03 R77). -/
def pairMask : List Nat := [0b0011, 0b0101, 0b1001, 0b0110, 0b1010, 0b1100]

/-- How many of the four rows of a 16-bit mask hold column j. -/
def colCount (mask j : Nat) : Nat := ((List.range 4).filter (fun i => mask.testBit (4 * i + j))).length

/-- The mask of a tuple of pair indices; bit 4i + j stands for row i, column j (03 R76). -/
def tupleMask (p0 p1 p2 p3 : Nat) : Nat :=
  nth pairMask p0 0 + 16 * nth pairMask p1 0 + 256 * nth pairMask p2 0 + 4096 * nth pairMask p3 0

/-- Every valid pattern as its mask, in the order of its id: the enumeration that 03 R78 writes out. -/
def patternEnum : List Nat :=
  ((List.range 1296).map (fun n => tupleMask (n / 216) (n / 36 % 6) (n / 6 % 6) (n % 6))).filter
    (fun m => (List.range 4).all (fun j => colCount m j == 2))

/-- The digits of 03 R79's table: for each p0, the fifteen entries p1 p2 p3 as a number in base 10. -/
def patternDigits : List (List Nat) :=
  [ [55, 145, 154, 235, 253, 325, 352, 415, 451, 505, 514, 523, 532, 541, 550],
    [45, 54, 144, 234, 243, 324, 342, 405, 414, 423, 432, 441, 450, 504, 540],
    [35, 53, 134, 143, 233, 305, 314, 323, 332, 341, 350, 413, 431, 503, 530],
    [25, 52, 124, 142, 205, 214, 223, 232, 241, 250, 322, 412, 421, 502, 520],
    [15, 51, 105, 114, 123, 132, 141, 150, 213, 231, 312, 321, 411, 501, 510],
    [5, 14, 23, 32, 41, 50, 104, 140, 203, 230, 302, 320, 401, 410, 500] ]

/-- The mask of a pattern id byte: bit 7 is ignored, ids 90 to 127 read as id − 38 (03 R78, R80). -/
def patternMask (idByte : Nat) : Nat :=
  let i := idByte % 128
  let id := if 90 ≤ i then i - 38 else i
  let d := nth (nth patternDigits (id / 15) []) (id % 15) 55
  tupleMask (id / 15) (d / 100) (d / 10 % 10) (d % 10)

/-- The two K offsets (rows) that a pattern gives column j, ascending (03 R84, R96). -/
def patRows (mask j : Nat) : List Nat := (List.range 4).filter (fun i => mask.testBit (4 * i + j))

/-- The two columns that a pattern gives row i, ascending (03 R96). -/
def patCols (mask i : Nat) : List Nat := (List.range 4).filter (fun j => mask.testBit (4 * i + j))

/-- The slot t of position (i, j): 0 if i is the lower of column j's two rows, 1 if the higher, none if the pattern does
not hold it (03 R84). -/
def patSlot (mask i j : Nat) : Option Nat :=
  if mask.testBit (4 * i + j) then some ((patRows mask j).findIdx (· == i)) else none

/-- The id of a valid mask (03 R78); 0 for a mask that is no pattern. -/
def patternId (mask : Nat) : Nat :=
  ((List.range 90).find? (fun i => patternMask i == mask)).getD 0

/-- The transpose of a 16-bit mask. -/
def transposeMask (mask : Nat) : Nat :=
  maskOf ((List.range 16).filter (fun b => mask.testBit (4 * (b % 4) + b / 4)))

/-- The value index of a position in a stored block of form 2:4 (`two4`) or block only, `t` the slot (03 R84). -/
def valueIndex (two4 : Bool) (k n t : Nat) : Nat := if two4 then n * 32 + 2 * (k / 4) + t else n * 64 + k

/-- Values per stored block (03 R84). -/
def blockValues (two4 : Bool) : Nat := if two4 then 2048 else 4096

/-- Byte offset of the pattern id of micro-block (kg, mc) of an ordinal (03 R85). -/
def patOffset (ordinal kg mc : Nat) : Nat := ordinal * 256 + kg * 16 + mc

/-- Byte offset of the HB4 scale of a position (03 R86), by the SPARSE form. -/
def scaleOffset (form ordinal k n capK : Nat) : Nat :=
  if form = 0 then 2 * (n * ceilDiv capK 32 + k / 32)
  else if form = 2 then ordinal * 256 + 2 * (2 * (n % 64) + k % 64 / 32)
  else ordinal * 128 + 2 * (n % 64)

/-- Byte offset of the entry array of a block list from BLK_PTR (03 R88). -/
def entryArrayOffset (nbOuter : Nat) : Nat := roundUp (4 * (nbOuter + 1)) 32

end Sys2Proof.Machine
end

