-- ==== Sys2Proof/Machine/Operands.lean ====
section
/-!
DEFINITION. Tensor descriptors and their elements: fields and overlays, addresses and indices, run-time extents and edge
elements, sparse value places, reading and writing elements with conversion (spec 02 R47 to R71, 03 R81 to R95, R519, 05 R141 to
R150, 08 R223 to R226).
-/
namespace Sys2Proof.Machine
open Prog hiding pure bind get op run monad

/-! Instruction word fields (05 R136). -/

/-- Bits `hi` to `lo` of an instruction word. -/
def wf (w : IWord) (hi lo : Nat) : Nat := fld w.toNat hi lo
def wb (w : IWord) (i : Nat) : Bool := w.toNat.testBit i
def wOpcode (w : IWord) : Nat := wf w 127 120
def wArrays (w : IWord) : Nat := wf w 111 108
def wTile (w : IWord) : Nat := wf w 107 104 + 16 * wf w 103 103
def wSA (w : IWord) : Nat := wf w 101 96
def wSB (w : IWord) : Nat := wf w 95 90
def wSC (w : IWord) : Nat := wf w 89 84
def wSD (w : IWord) : Nat := wf w 83 78
def wRnd (w : IWord) : Nat := wf w 115 114
def wLayer (w : IWord) : Nat := wf w 31 12
def wOper (w : IWord) : Nat := wf w 11 0

/-- A descriptor's fields (05 R141 to R143); pointers and the base of a sparse operand drop bits [4:0] (03 R82). -/
structure Desc where
  base   : Nat
  fill   : Nat
  tensor : Nat
  code   : Nat
  rank   : Nat
  sparse : Nat
  order  : Nat
  ext    : List Nat
  cap    : List Nat
  str    : List Int
  pat    : Nat
  blk    : Nat
  scl    : Nat
  /-- a sparse operand seen as its value array, whose scale array is neither read nor written (03 R95): the draw of its free scales -/
  bare   : Option Nat := none
deriving DecidableEq, Repr

/-- A 25-bit extent or cap: larger values read as 2^24 (05 R142). -/
def cap24 (n : Nat) : Nat := min n (2 ^ 24)

/-- The fields of eight descriptor words (05 R141). -/
def Desc.parse (ws : DescWords) : Desc :=
  let w i := (nth ws i 0).toNat
  let rank := fld (w 2) 2 0
  let sparse := fld (w 2) 4 3
  let al a := a / 32 * 32
  let mk (l : List Nat) : List Nat := l.take rank
  { base := if sparse = 0 then w 0 else al (w 0)
    fill := fld (w 1) 63 32
    tensor := fld (w 1) 31 8
    code := fld (w 1) 7 0
    rank := rank
    sparse := sparse
    order := fld (w 2) 5 5
    ext := mk [cap24 (fld (w 2) 32 8), cap24 (fld (w 3) 24 0), fld (w 5) 15 0, fld (w 6) 15 0, fld (w 7) 15 0]
    cap := mk [cap24 (fld (w 2) 57 33), cap24 (fld (w 3) 49 25), fld (w 5) 31 16, fld (w 6) 31 16, fld (w 7) 31 16]
    str := ([sext 32 (fld (w 4) 31 0), sext 32 (fld (w 4) 63 32), sext 32 (fld (w 5) 63 32), sext 32 (fld (w 6) 63 32),
      sext 32 (fld (w 7) 63 32)]).take rank
    pat := al (w 5)
    blk := al (w 6)
    scl := if sparse = 0 then w 7 else al (w 7) }

/-- The format, if its code is not reserved. -/
def Desc.fmt (d : Desc) : Option Fmt := Fmt.ofCode d.code

/-- The format, FP32 standing for a reserved code that no use reaches. -/
def Desc.fmt! (d : Desc) : Fmt := d.fmt.getD .fp32

/-- A descriptor that no use takes as a format error by itself (02 R48, 03 R82, 05 R142, R143). -/
def Desc.ok (d : Desc) : Bool :=
  match d.fmt with
  | none => false
  | some f =>
    decide (1 ≤ d.rank) && decide (d.rank ≤ 5) &&
      (if d.sparse = 0 then !(f == .hb4 && d.rank == 5) else d.rank == 2 && f != .fp24 && f != .int32)

/-- An extent held to its cap (05 R147); dimensions at or above the rank count as extent 1 (05 R142). -/
def Desc.extent (d : Desc) (k : Nat) : Nat := if k < d.rank then min (nth d.ext k 1) (nth d.cap k 1) else 1

/-- The run-time extents after clamping. -/
def Desc.exts (d : Desc) : List Nat := (List.range d.rank).map d.extent

/-- The index tuples within the caps, which bound what a copying instruction does (05 R147). -/
def Desc.capExts (d : Desc) : List Nat := (List.range d.rank).map (fun k => nth d.cap k 1)

/-- Whether some extent exceeds its cap (05 R147). -/
def Desc.clamped (d : Desc) : Bool := (List.range d.rank).any (fun k => decide (nth d.cap k 1 < nth d.ext k 1))

/-- Whether some extent, after clamping, is zero (05 R148). -/
def Desc.empty (d : Desc) : Bool := d.exts.any (· == 0)

/-- The index tuples of a shape, dimension 0 fastest. -/
def tuples : List Nat → List (List Nat)
  | [] => [[]]
  | n :: t => ((tuples t).map (fun r => (List.range n).map (fun i => i :: r))).flatten

/-- The logical linear index of a tuple over caps (02 R67), modulo 2^40. -/
def linearIndex : List Nat → List Nat → Nat
  | i :: is, c :: cs => i + c * linearIndex is cs
  | i :: _, [] => i
  | [], _ => 0

def Desc.lindex (d : Desc) (idx : List Nat) : Nat := linearIndex idx d.cap % 2 ^ 40

/-- Whether a tuple lies within the run-time extents; indices beyond the rank must be 0. -/
def Desc.inside (d : Desc) (idx : List Nat) : Bool :=
  (List.range (max idx.length d.rank)).all (fun k => decide (nth idx k 0 < d.extent k))

/-- The element number of a tuple: the signed sum of index × stride (05 R142). -/
def Desc.number (d : Desc) (idx : List Nat) : Int :=
  (List.zipWith (fun (i : Nat) (s : Int) => (i : Int) * s) idx d.str).foldl (· + ·) 0

/-- The address of the byte that holds element number n, or its lowest byte (05 R142, 08 R223). -/
def Desc.byteAt (d : Desc) (n : Int) : Nat :=
  let w := d.fmt!.width
  wrap 64 ((d.base : Int) + (if w = 4 then n / 2 else n * (w / 8 : Nat)))

/-- The byte addresses of element number n. -/
def Desc.bytesAt (d : Desc) (n : Int) : List Nat :=
  span (d.byteAt n) (if d.fmt!.width = 4 then 1 else d.fmt!.width / 8)

/-- The bits of element number n in what was fetched; none if a granule of it failed. -/
def Desc.bitsIn (d : Desc) (m : GMap) (n : Int) : Option Nat :=
  if d.fmt!.width = 4 then (m.byte (d.byteAt n)).map (fun b => if n % 2 = 0 then b % 16 else b / 16)
  else m.bytes (d.byteAt n) (d.fmt!.width / 8)

/-- The address of the HB4 scale of element number n, 32 codes to a scale in storage order (02 R58). -/
def Desc.scaleAt (d : Desc) (n : Int) : Nat := wrap 64 ((d.scl : Int) + 2 * (n / 32))

/-- A BF16 scale in what was fetched; a granule that failed gives 0x7FC0 (03 R519). -/
def scaleIn (m : GMap) (a : Nat) : Nat := (m.bytes a 2).getD 0x7FC0

/-- FILL as a value (05 R141). -/
def Desc.fillVal (d : Desc) : FVal :=
  match d.fmt!.range with
  | some _ => .ofInt (sext 32 d.fill)
  | none => val32 d.fill

/-- A value taken in a format other than HB4 by round to nearest even, without counting (05 R150). -/
def Fmt.take (f : Fmt) (v : FVal) : FVal := f.decode (f.convert .rne v).1

/-- FILL as an element of the source format (05 R150); an HB4 source's stands for itself. -/
def Desc.fillElem (d : Desc) : FVal := if d.fmt! = .hb4 then d.fillVal else d.fmt!.take d.fillVal

/-- FILL as the bits of a same-format copy (05 R150). -/
def Desc.fillBits (d : Desc) : Nat :=
  if d.fmt! = .hb4 then
    (match d.fillVal with
      | .fin neg q => if q = 0 then 0 else if neg then 0xF else 0x7
      | _ => 0)
  else (d.fmt!.convert .rne d.fillVal).1

/-- The value that an element enters with when its granule failed: NaN or integer 0 (04 R105). -/
def Fmt.failed (f : Fmt) : FVal := if f.range.isSome then .zero else .nan

/-- The value of element number n of what was fetched, HB4 with its scale. -/
def Desc.valueIn (d : Desc) (m : GMap) (n : Int) : FVal :=
  match d.bitsIn m n with
  | none => d.fmt!.failed
  | some b =>
    if d.fmt! = .hb4 then hb4Decode b (match d.bare with
      | some k => Config.scale k (n / 32).toNat % 2 ^ 16
      | none => scaleIn m (d.scaleAt n))
    else d.fmt!.decode b

/-- The byte addresses that the value of element number n needs. -/
def Desc.needs (d : Desc) (n : Int) : List Nat :=
  d.bytesAt n ++ (if d.fmt! = .hb4 && d.bare.isNone then span (d.scaleAt n) 2 else [])

/-- The bits of element number n added to patches, half a byte for 4-bit formats (02 R49). -/
def Desc.put (d : Desc) (n : Int) (bits : Nat) (bad : Bool) (ps : List Patch) : List Patch :=
  if d.fmt!.width = 4 then
    (if n % 2 = 0 then Patch.add (d.byteAt n) 0x0F bits bad ps else Patch.add (d.byteAt n) 0xF0 (16 * bits) bad ps)
  else Patch.addNum (d.byteAt n) (d.fmt!.width / 8) bits bad ps

/-- The last of the writes to each element, in order (08 R226). -/
def lastWrites (els : List (Int × Nat × FVal)) : List (Int × Nat × FVal) :=
  els.reverse.foldl (fun acc x => if acc.any (fun y => y.1 == x.1) then acc else x :: acc) []

/-- The rounding of a conversion between two tensors: HB4 widens to FP32 exactly, and a product beyond the FP32 maximum becomes an infinity
whatever RND is (02 R61). -/
def widenRnd (src dst : Desc) (rnd : Nat) : Nat := if src.fmt! = .hb4 ∧ dst.fmt! = .fp32 then 0 else rnd

/-- Elements to be written, each with its element number, its logical index and its value, encoded into the descriptor's
format: the codes, the HB4 scales by block, and what the conversions count (02 R59, R71; 05 R150). -/
def Desc.encode (d : Desc) (seed step rnd : Nat) (els : List (Int × Nat × FVal)) :
    List (Int × Nat) × List (Int × Nat) × QEv :=
  let mode (e : Nat) : Rnd := Rnd.ofField rnd (srBits seed step d.tensor e)
  if d.fmt! = .hb4 then
    let els := lastWrites els
    let blocks := (els.map (fun x => x.1 / 32)).eraseDups
    let enc := blocks.map (fun j =>
      let xs := els.filter (fun x => x.1 / 32 == j)
      let (sc, codes, ev) := hb4Encode (xs.map (fun x => (mode x.2.1, x.2.2)))
      (List.zipWith (fun (x : Int × Nat × FVal) (c : Nat) => (x.1, c)) xs codes, (j, sc), ev))
    ((enc.map (·.1)).flatten, enc.map (·.2.1), QEv.total (enc.map (·.2.2)))
  else
    let enc := els.map (fun x => let (b, ev) := d.fmt!.convert (mode x.2.1) x.2.2; ((x.1, b), ev))
    (enc.map (·.1), [], QEv.total (enc.map (·.2)))

/-- Encoded elements and their scales as patches, in order. -/
def Desc.patches (d : Desc) (codes scales : List (Int × Nat)) (ps : List Patch) : List Patch :=
  let ps1 := codes.foldl (fun ps x => d.put x.1 x.2 false ps) ps
  if d.bare.isSome then ps1 else scales.foldl (fun ps x => Patch.addNum (d.scaleAt (32 * x.1)) 2 x.2 false ps) ps1

/-- One element to be written: bits of a bit-for-bit copy, or a value to be converted. -/
structure OutEl where
  no   : Int
  idx  : Nat
  bits : Option Nat
  val  : FVal
  bad  : Bool
deriving DecidableEq, Repr

/-- Elements as patches with what their conversions count (02 R71; 07 R207): bits that stand for themselves count nothing; an element
without bits is converted, also where its value comes from a source of the same format. -/
def elPatches (d : Desc) (seed step rnd : Nat) (els : List OutEl) (ps : List Patch) : List Patch × QEv :=
  if d.fmt! = .hb4 then
    let (codes, scales, ev) := d.encode seed step rnd ((els.filter (fun e => e.bits.isNone)).map (fun e => (e.no, e.idx, e.val)))
    (els.foldl (fun ps e => match e.bits with
      | some b => d.put e.no b e.bad ps
      | none => ps) (d.patches codes scales ps), ev)
  else
    let r := els.map (fun e => match e.bits with
      | some b => (b, ({} : QEv))
      | none => d.fmt!.convert (Rnd.ofField rnd (srBits seed step d.tensor e.idx)) e.val)
    ((List.range els.length).foldl (fun ps k =>
      let e := nth els k ⟨0, 0, none, .zero, false⟩
      d.put e.no (nth r k (0, {})).1 e.bad ps) ps, QEv.total (r.map (·.2)))

/-! Sparse operands. -/

/-- Whether the form stores 2:4 micro-blocks (03 R81). -/
def Desc.two4 (d : Desc) : Bool := d.sparse == 1 || d.sparse == 3
/-- Whether the form has a block list (03 R81). -/
def Desc.listed (d : Desc) : Bool := d.sparse == 2 || d.sparse == 3
/-- Block rows and columns of the grid (03 R83). -/
def Desc.nbK (d : Desc) : Nat := ceilDiv (nth d.cap 0 0) 64
def Desc.nbN (d : Desc) : Nat := ceilDiv (nth d.cap 1 0) 64
/-- Outer lines of a list (03 R88). -/
def Desc.nbOuter (d : Desc) : Nat := if d.order = 1 then d.nbK else d.nbN

/-- One entry of a block list (03 R88). -/
structure BlkEntry where
  coord   : Nat
  ordinal : Nat
deriving DecidableEq, Repr

/-- Raw entries of the list at a base with n outer lines (03 R88: the entry array begins at the base plus the pointers, rounded up; for
a base that is no granule's address the model rounds the sum, log 147); those of a failed granule read 0 (03 R519). -/
def entryAt (base n e : Nat) : Nat := (roundUp (base + 4 * (n + 1)) 32 + 8 * e) % 2 ^ 64

/-- The entries with the given numbers, each granule of them read once. -/
def listEntries (rq : Req) (base n : Nat) (es : List Nat) : Prog (List Nat) :=
  letI := Prog.monad
  do
  let m ← fetch rq (es.map (fun e => span (entryAt base n e) 8)).flatten
  pure (es.map (fun e => (m.bytes (entryAt base n e) 8).getD 0))

/-- The pointers of a list at the given lines, each granule of them read once; one of a granule that failed reads 0 (03 R88, R519). -/
def listPtrs (rq : Req) (base : Nat) (cs : List Nat) : Prog (List Nat) :=
  letI := Prog.monad
  do
  let m ← fetch rq (cs.map (fun c => span ((base + 4 * c) % 2 ^ 64) 4)).flatten
  pure (cs.map (fun c => (m.bytes ((base + 4 * c) % 2 ^ 64) 4).getD 0))

/-- The first entry index of an outer line and its entries in list order; a line beyond the grid has none (03 R88, R90, 04 R102). A pointer
or an entry of a granule that failed reads 0 (03 R519). A granule is read once for the two pointers of a line and once for its entries
(log 136). -/
def Desc.lineFrom (d : Desc) (rq : Req) (c : Nat) : Prog (Nat × List BlkEntry) :=
  letI := Prog.monad
  do
  if d.nbOuter ≤ c then pure (0, [])
  else do
    let ps ← listPtrs rq d.blk [c, c + 1]
    let a := nth ps 0 0
    let es ← listEntries rq d.blk d.nbOuter ((List.range (nth ps 1 0 - a)).map (a + ·))
    pure (a, es.map (fun w => ⟨fld w 23 0, fld w 63 32⟩))

/-- The entries of an outer line in list order. -/
def Desc.line (d : Desc) (rq : Req) (c : Nat) : Prog (List BlkEntry) := (d.lineFrom rq c).bind (fun l => .pure l.2)

/-- How many stored values a sparse operand's value array holds: every block of its grid, since the list is not read (03 R95, 05 R147;
DEDUCED, log 8). -/
def Desc.storedValues (d : Desc) : Nat := d.nbK * d.nbN * blockValues d.two4

/-- A storage operand's view: a sparse one is its value array, one-dimensional; its list, its pattern ids and its scales are left alone
(03 R95). -/
def Desc.storage (d : Desc) : Prog Desc :=
  letI := Prog.monad
  do
  if d.sparse = 0 then pure d
  else do
    let k ← ask (·.freeCtr)
    act .free
    let n := d.storedValues
    pure { d with sparse := 0, rank := 1, ext := [n], cap := [n], str := [1], bare := some k }

/-- The patterns of micro-blocks at the given ordinals and places, as masks; a granule that failed reads id 0 (03 R519). -/
def Desc.patMask (d : Desc) (m : GMap) (ordinal kg mc : Nat) : Nat :=
  patternMask ((m.byte ((d.pat + patOffset ordinal kg mc) % 2 ^ 64)).getD 0)

/-- The element number of a stored value of a sparse operand. -/
def Desc.storedNo (d : Desc) (ordinal k n t : Nat) : Int :=
  ((ordinal * blockValues d.two4 + valueIndex d.two4 k n t : Nat) : Int)

/-! Checks that instructions share. -/

/-- The requester of an instruction in flight, under an owner class and a consumer unit. -/
def reqOf (i : SiteId) (f : Flight) (c : ReqClass) (unit : Nat) : Req :=
  { cls := c, unit := unit, site := some i, layer := wLayer f.word, oper := wOper f.word }

/-- The run-time shape check of an instruction's descriptors: a clamped extent counts once, a zero extent makes it a no-op
(05 R147, R148). It answers whether the instruction goes on. -/
def checkShapes (i : SiteId) (ds : List Desc) : Prog Bool :=
  letI := Prog.monad
  do
  when (ds.any Desc.clamped) do
    incF F.CORE_SHAPE_EVENTS.CLAMP_COUNT i 0 1
    setF F.CORE_SHAPE_EVENTS.SHAPE_CLAMPED i 0 1
  if ds.any Desc.empty then do
    incF F.CORE_SHAPE_EVENTS.ZERO_SHAPE i 0 1
    pure false
  else pure true

/-- A format error of an instruction (02 R48): it reads nothing, writes nothing and completes. -/
def formatError (i : SiteId) (f : Flight) (slot : Nat) : Prog Unit := coreError i 1 f.word slot f.pc.toNat

/-- A reserved field value (05 R140). -/
def fieldError (i : SiteId) (f : Flight) (slot : Nat := 0) : Prog Unit := coreError i 3 f.word slot f.pc.toNat

/-- Whether every use of a slot is a format error, also one of its BASE alone: its load failed (05 R144: FORMAT 0xFF), or its RANK is not
1 to 5, as that of a slot never loaded (05 R142, R174). -/
def Flight.lostSlot (f : Flight) (k : Nat) : Bool :=
  let ws := nth f.descs k []
  let rank := fld (nth ws 2 0).toNat 2 0
  fld (nth ws 1 0).toNat 7 0 == 0xFF || rank == 0 || decide (5 < rank)

/-- BASE as it stands, for a slot of which only BASE is used. -/
def Flight.baseOf (f : Flight) (k : Nat) : Nat := (nth (nth f.descs k []) 0 0).toNat

/-- The k-th descriptor that a flight copied. -/
def Flight.desc (f : Flight) (k : Nat) : Desc := Desc.parse (nth f.descs k [])

/-- The tile register that an IDX field adds: none, T0, T1, T2 (05 R138). -/
def Flight.idxReg (f : Flight) (idx : Nat) : Nat := if idx = 0 then 0 else nth f.tregs (idx - 1) 0


/-! Operand groups (02 R53). -/

/-- The operand group of an X and a W format. -/
inductive Group where
  | f8 | i8 | f16
deriving DecidableEq, Repr

def groupOf (x w : Fmt) : Option Group :=
  match x, w with
  | .e4m3, .e4m3 | .e4m3, .e5m2 | .e4m3, .hb4 | .e5m2, .e4m3 | .e5m2, .e5m2 | .e5m2, .hb4 => some .f8
  | .int8, .int8 | .int8, .uint8 | .int8, .int4 | .uint8, .int8 | .uint8, .uint8 | .uint8, .int4 => some .i8
  | .bf16, .bf16 | .bf16, .fp16 | .fp16, .bf16 | .fp16, .fp16 => some .f16
  | _, _ => none

/-! The Mower record (07 R199). -/

structure MowRec where
  norm : Nat
  probe : Nat
  comp : Nat
  budget : Nat
  grow : Nat
  compCount : Nat
  scope : Nat
  hive : Nat
  gain : FVal
  init : FVal
  bnFirst : Nat
  bnCount : Nat
  entryBase : Nat
  wepoch : Nat
  probeCap : Nat
  candStart : Nat
deriving DecidableEq, Repr

/-- The record read once; words of a failed granule read 0 (log 14). -/
def readMow (rq : Req) (base : Nat) : Prog MowRec :=
  letI := Prog.monad
  do
  let m ← fetch rq (span base 64)
  let w k := (m.bytes ((base + 8 * k) % 2 ^ 64) 8).getD 0
  pure { norm := w 0, probe := w 1, comp := w 2, budget := fld (w 3) 63 40, grow := fld (w 3) 39 16,
         compCount := fld (w 3) 15 12, scope := fld (w 3) 9 8, hive := fld (w 3) 7 0, gain := val32 (fld (w 4) 63 32),
         init := val32 (fld (w 4) 31 0), bnFirst := fld (w 5) 63 40, bnCount := fld (w 5) 39 16, entryBase := fld (w 6) 63 32,
         wepoch := fld (w 6) 31 0, probeCap := fld (w 7) 63 40, candStart := fld (w 7) 39 16 }

/-- The companion pairs of a record. -/
def readCompanions (rq : Req) (r : MowRec) : Prog (List (Desc × Desc)) :=
  letI := Prog.monad
  collect (List.range r.compCount) (fun k => do
    let a := (r.comp + 128 * k) % 2 ^ 64
    let m ← fetch rq (span a 128)
    let ws (o : Nat) : DescWords := (List.range 8).map (fun j => BitVec.ofNat 64 ((m.bytes ((a + o + 8 * j) % 2 ^ 64) 8).getD 0))
    pure (Desc.parse (ws 0), Desc.parse (ws 64)))

/-- Where gradients begin in a probe area (07 R209). -/
def gradBase (r : MowRec) : Nat := roundUp (32 + 8 * r.probeCap) 4096

end Sys2Proof.Machine
end

