-- ==== Sys2Proof/Machine/Issue.lean ====
section
/-!
DEFINITION. How an instruction issues at a core: the conditions of issue, waits, the program counter, the copies of the queue
entry, the units' queues in order, and the core's counter banks (spec 05 R129 to R135, 12 R369, R374, 19 R474 to R477).
-/
namespace Sys2Proof.Machine
open Prog hiding pure bind get op run monad

/-! Tile registers (05 R134, R167). -/

/-- Tile register n of a core. -/
def State.tileReg (s : State) (i : SiteId) (n : Nat) : Nat :=
  if n % 2 = 0 then s.field F.CORE_TILE_REGS.LOW i (n / 2) else s.field F.CORE_TILE_REGS.HIGH i (n / 2)

def setTile (i : SiteId) (n v : Nat) : Prog Unit :=
  if n % 2 = 0 then setF F.CORE_TILE_REGS.LOW i (n / 2) v else setF F.CORE_TILE_REGS.HIGH i (n / 2) v

/-- The tile registers that an instruction word reads or writes (05 R134). -/
def tilesTouched (w : IWord) : List Nat :=
  let idx := wf w 113 112
  match wOpcode w with
  | 0x08 => if idx < 2 then [wf w 66 64] else []
  | 0x09 | 0x0A | 0x0D => [wf w 66 64]
  | 0x0B => if idx = 0 then [] else [wf w 66 64]
  | 0x10 | 0x11 | 0x12 | 0x24 | 0x32 | 0x33 => if idx = 0 then [] else [idx - 1]
  | _ => []

/-! Counter banks (19 R473 to R477). The cycles counted under a code are free values (log 5). -/

/-- Whether an engine may count cycles under a code: the engines of each stall and idle reason (19 R470). -/
def reasonOf (engine code : Nat) : Bool :=
  match code with
  | 0x01 | 0x02 | 0x05 => engine == 1
  | 0x03 => decide (2 ≤ engine) && engine != 9
  | 0x04 | 0x0B | 0x0C | 0x0D | 0x0E => engine == 0
  | 0x06 => engine == 1 || engine == 4
  | 0x07 => engine == 2 || engine == 3 || engine == 4
  | 0x08 | 0x10 | 0x17 => true
  | 0x09 => engine == 8
  | 0x0A => engine == 8 || engine == 9
  | 0x0F => decide (5 ≤ engine) && engine != 9
  | 0x11 | 0x12 => decide (engine < 5) || engine == 8
  | 0x13 | 0x14 | 0x15 | 0x16 => decide (engine < 5)
  | _ => false

/-- Whether word k of an engine's counter set counts cycles: BUSY, and the reasons that the engine has (19 R474). -/
def countsCycles (engine k : Nat) : Bool := k == 2 || decide (4 ≤ k) && reasonOf engine (k - 3)

/-- A counter set of 32 words swapped: FROZEN takes the retiring bank with its END_TIME, LIVE starts anew, and its SWAP event is
formed (19 R475, R483); `flags` are LATE and AT_PAST. -/
def swapSet (frozen live : Reg) (inst base kind num engine flags : Nat) : Prog Unit :=
  letI := Prog.monad
  do
  let s ← ask id
  let w k := s.reg live inst (base + k)
  let sq := fld (w 3) 31 0
  setR frozen inst base (w 0)
  setR frozen inst (base + 1) s.now
  each (2 :: (List.range 28).map (· + 4)) (fun k =>
    if countsCycles engine k then (fresh 64).bind (fun v => setR frozen inst (base + k) v) else setR frozen inst (base + k) 0)
  setR frozen inst (base + 3) (w 3)
  setR live inst base s.now
  setR live inst (base + 3) ((sq + 1) % 2 ^ 32)
  traceEvent 0xB kind num engine 0 0 ((sq + 1) % 2 ^ 32) flags

/-- The peer table's entry for a wait: the entry of its pair, a free one, or OTHER (19 R472). -/
def peerEntry (s : State) (i : SiteId) (b : Nat) : Nat :=
  let peer := fld b 58 44
  let kind := fld b 62 60
  if !b.testBit 59 then 8
  else
    let is p k (j : Nat) : Bool := fld (s.reg .CNT_PEER_LIVE i j) 63 49 == p && fld (s.reg .CNT_PEER_LIVE i j) 48 46 == k
    match (List.range 8).find? (is peer kind) with
    | some j => j
    | none => ((List.range 8).find? (fun j => fld (s.reg .CNT_PEER_LIVE i j) 48 46 == 0)).getD 8

/-- The cycles that a core has waited, in its peer table under the peer that CORE_COLL_WAIT names (19 R472); they are free (log 5). -/
def addPeer (i : SiteId) : Prog Unit :=
  letI := Prog.monad
  do
  let s ← ask id
  let v := s.reg .CORE_COLL_WAIT i 0
  let cyc ← fresh 64
  let j := peerEntry s i v
  if j < 8 then setR .CNT_PEER_LIVE i j (place 63 49 (fld v 58 44) + place 48 46 (fld v 62 60) + cyc % 2 ^ 46)
  else setR .CNT_PEER_LIVE i 8 cyc

/-- The five sets and the peer table of a core swapped (19 R477); the cycles of a wait so far go to the retiring table (R472). -/
def swapCore (i : SiteId) (flags : Nat) : Prog Unit :=
  letI := Prog.monad
  do
  let s ← ask id
  when ((s.reg .CORE_COLL_WAIT i 0).testBit 63) (addPeer i)
  each (List.range 5) (fun c => swapSet .CNT_CORE_FROZEN .CNT_CORE_LIVE i (32 * c) 0 i.val c flags)
  each (List.range 9) (fun k => do
    let v ← getR .CNT_PEER_LIVE i k
    setR .CNT_PEER_FROZEN i k v
    setR .CNT_PEER_LIVE i k 0)

/-- The tags of the last instruction that started in a bank (19 R474 word 3), in the set of its engine. -/
def tagSet (i : SiteId) (code : Nat) (w : IWord) : Prog Unit :=
  let tag (r : Reg) (inst k : Nat) : Prog Unit :=
    .get (fun s => setR r inst k (fld (s.reg r inst k) 31 0 + place 63 44 (wLayer w) + place 43 32 (wOper w)))
  if code < 5 then tag .CNT_CORE_LIVE i (32 * code + 3)
  else if code = 5 then tag .CNT_CLUS_LIVE (clusterOf i) 3
  else tag .CNT_COLL_LIVE 0 3

/-- Whether an instruction swaps its core's counter banks as it issues: MARK with SWAP (19 R477). -/
def swapsBanks (w : IWord) : Bool := wOpcode w == 4 && wb w 119

/-- The sequencer's tags at an issue. An instruction that swaps the banks belongs to the bank that it starts, and tags it itself. -/
def tagIssue (i : SiteId) (w : IWord) : Prog Unit := if swapsBanks w then skip else tagSet i 0 w

/-! Waits (12 R369, R374, 19 R472). -/

/-- The register word that names a wait. -/
def waitWord (b : WaitOn) : Nat :=
  place 63 63 1 + place 62 60 b.kind + place 59 59 (b2n b.peerV) + place 58 44 b.peer + place 43 28 b.tag

/-- A wait of a core begins or goes on: CORE_COLL_WAIT names it, if it is a wait of R369 (`none`: it is not). -/
def holdWait (i : SiteId) (w : IWord) (b : Option WaitOn) : Prog Unit :=
  match b with
  | some b => .get (fun s => (setR .CORE_COLL_WAIT i 0 (waitWord b)).bind (fun _ =>
      modSite i (fun x => { x with waits := w, policy := if (s.reg .CORE_COLL_WAIT i 0).testBit 63 then x.policy
                                                            else s.field F.FAB_COLL_CONFIG.WAIT_POLICY 0 0 })))
  | none => skip

/-- A wait of a core ends: its WAIT event with the tags of the instruction that waited, and its cycles in the peer table (free, log 5). -/
def endWait (i : SiteId) (w : IWord) : Prog Unit :=
  letI := Prog.monad
  do
  let s ← ask id
  let v := s.reg .CORE_COLL_WAIT i 0
  when (v.testBit 63) do
    addPeer i
    let cyc ← fresh 64
    setR .CORE_COLL_WAIT i 0 0
    traceEvent 3 0 i.val 0 (wLayer w) (wOper w)
      (place 63 61 (fld v 62 60) + place 60 60 (fld v 59 59) + place 59 45 (fld v 58 44) + place 44 29 (fld v 43 28)) cyc

/-! Tiles that array instructions name (04 R113, R116). -/

/-- The tile that an index names in the WIDE layout (04 R113). -/
def wideTile (t : Nat) : Nat := if 24 ≤ t then t - 24 else t

/-- The tile that an index names for a group in the layout of an ACC_MODE (02 R56, 04 R113). -/
def tileOf (mode int : Bool) (t : Nat) : Nat := if mode && !int then t else wideTile t

/-- The active tile of an array, if an MMA of a group names it (04 R113, R116); the mode that counts is the one in which it became
active (R120). -/
def ArrayState.names (x : ArrayState) (int : Bool) (idx : Nat) : Option Active :=
  match x.act with
  | some c => if c.tile == tileOf c.mode int idx && (c.int == int || !c.mode) then some c else none
  | none => none

/-- The array numbers of a mask, ascending. -/
def arraysOf (w : IWord) : List (Fin 4) := (List.finRange 4).filter (fun a => (wArrays w).testBit a.val)

/-- The END action: reserved 0b11 acts as HOLD (05 R140). -/
def wEnd (w : IWord) : Nat := let e := wf w 117 116; if e = 3 then 0 else e

/-! Issue (05 R129 to R134). -/

/-- Whether an address lies in the local device-physical space (05 R129, R144, 11 R315). -/
def localAddr (a : Nat) : Bool := fld a 63 62 == 0 && fld a 61 57 == 0 && !a.testBit 41

/-- Whether a granule decodes as uncorrectable or POISON. -/
def Gran.lost (g : Gran) : Bool :=
  match g.decode.1 with
  | .uncorr | .poison => true
  | _ => false

/-- The instruction buffer after the fetch of a granule for the instruction at a pc: the instructions of that granule from the pc on are
added, and of more than 512 the oldest leave (05 R129, R130; log 7). -/
def buffered (b : List Nat) (pc : Nat) : List Nat :=
  let b' := b ++ (if pc % 32 < 16 then [pc, pc + 16] else [pc])
  b'.drop (b'.length - 512)

/-- The fetch of the instruction at a pc (05 R129): its granule is read as an access of the owner class SEQ and consumed (10 R297), and
stands in the buffer. It answers whether the fetch fails: a pc outside the local space, or a granule that is uncorrectable or POISON.
What stands in memory there is not compared with the command's word (log 7). -/
def fetchInstr (i : SiteId) (pc : Nat) : Prog Bool :=
  letI := Prog.monad
  if !localAddr pc then pure true
  else do
    let rq : Req := { cls := .seq, unit := 1, site := some i }
    let g ← readRaw rq (pc / 32 * 32)
    let d ← consume rq (pc / 32 * 32) g
    if d.isNone then pure true
    else do
      modSite i (fun x => { x with buffer := buffered x.buffer pc })
      pure false

/-- The instruction at a pc stands in the buffer, or is fetched now. -/
def ready (i : SiteId) (pc : Nat) : Prog Bool :=
  .get (fun s => if s.sites[i].buffer.contains pc then .pure false else fetchInstr i pc)

/-- A failed fetch halts the core with a FETCH error (05 R129). No instruction was read, so that OPCODE and the tags are zero (log 48). -/
def fetchFault (i : SiteId) (pc : Nat) : Prog Unit := (coreError i 4 0 0 pc).bind (fun _ => haltCore i 5 0 0)

/-- Whether a core can issue: running, its site neither fenced nor in reset, the device not held by Hush, and its fetch not held at the
seam (01 R17). -/
def State.canIssue (s : State) (i : SiteId) : Bool :=
  let pc := s.reg .CORE_SEQ_PC i 0
  s.running i && !s.deaf i && !s.hushed && (s.sites[i].buffer.contains pc || !localAddr pc || !s.pathCut (siteStop i) (fld pc 40 0))

/-- Whether an instruction word waits for an outstanding take (05 R134). -/
def State.takeWait (s : State) (i : SiteId) (w : IWord) : Bool :=
  (tilesTouched w).any (fun n => (s.sites[i].takes).any (fun t => t.tn == n))

/-- An instruction that is fetched issues, unless it waits: the wait ends, the pc advances and `body` acts with the instruction's
address. -/
def issueNow (i : SiteId) (w : IWord) (before : Prog Unit) (blocked : State → Option (Option WaitOn)) (body : Nat → Prog Unit) : Prog Unit :=
  letI := Prog.monad
  do
  let s ← ask id
  let pc := s.reg .CORE_SEQ_PC i 0
  if s.takeWait i w then skip
  else do
    before
    let s1 ← ask id
    match blocked s1 with
    | some b => holdWait i w b
    | none => do
      endWait i w
      tagIssue i w
      setR .CORE_SEQ_PC i 0 ((pc + 16) % 2 ^ 64)
      body pc

/-- An issue attempt of a word: nothing where the core does not run; a FETCH halt; a wait on an outstanding take or on `blocked`; else
it issues. -/
def attempt (i : SiteId) (w : IWord) (before : Prog Unit) (blocked : State → Option (Option WaitOn)) (body : Nat → Prog Unit) : Prog Unit :=
  letI := Prog.monad
  do
  let s ← ask id
  let pc := s.reg .CORE_SEQ_PC i 0
  when (s.canIssue i) do
    let failed ← ready i pc
    if failed then fetchFault i pc else issueNow i w before blocked body

/-- No wait of its own. -/
def never : State → Option (Option WaitOn) := fun _ => none
/-- A wait that R369 does not name. -/
def plainWait : Option WaitOn := none

/-- The sequencer's own instructions execute at issue. -/
def sequenced (i : SiteId) (w : IWord) (body : Nat → Prog Unit) : Prog Unit := attempt i w skip never body

/-- The slot fields that an instruction names, in the order of its copies (05 R133). -/
def slotsOf (w : IWord) : List Nat := [wSA w, wSB w, wSC w, wSD w]

/-- The slot fields that an opcode uses, as far as the order at the accumulator memory looks at them. -/
def usedSlots (w : IWord) : List Nat :=
  match wOpcode w with
  | 0x13 | 0x14 => []
  | 0x20 | 0x21 => [wSA w, wSB w]
  | 0x10 | 0x11 | 0x12 | 0x22 | 0x23 | 0x24 | 0x31 | 0x32 | 0x33 | 0x40 | 0x41 | 0x43 => [wSA w, wSB w, wSC w]
  | _ => slotsOf w

/-- Which of its four slots an instruction other than the arrays' writes through (05 R139, 06 R177, R182, R185, 07 R197, 08 R227). -/
def writtenSlots (w : IWord) : List Nat :=
  match wOpcode w with
  | 0x20 | 0x21 | 0x22 | 0x23 | 0x31 | 0x40 | 0x41 | 0x42 | 0x43 => [1]
  | 0x24 => if wb w 67 then [1] else []
  | 0x30 => if wb w 118 then [1] else [1, 2, 3]
  | 0x32 => [2]
  | 0x33 => if wf w 119 118 = 1 then [0] else [2]
  | 0x50 => [2]
  | _ => []

/-- The words of a descriptor slot. -/
def State.slotWords (s : State) (i : SiteId) (slot : Nat) : DescWords :=
  (List.range 8).map (fun k => RegFile.get ⟨.CORE_DESC_SLOT, i, 8 * slot + k⟩ s.regs)

/-- The queue entry of an instruction: what it copies at issue (05 R133). -/
def State.flightOf (s : State) (i : SiteId) (u : CoreUnit) (w : IWord) (pc : Nat) : Flight :=
  { unit := u, word := w, pc := BitVec.ofNat 64 pc, step := s.field F.CORE_SEQ_STEP.STEP i 0,
    epoch := s.field F.CORE_SEQ_STEP.EPOCH i 0, tregs := (List.range 8).map (s.tileReg i),
    descs := (slotsOf w).map (s.slotWords i), phase := .queued,
    seq := ((s.sites[i].flights ++ s.sites[i].rows).map (·.seq)).foldl max 0 + 1 }

/-- Whether an address lies in an accumulator window of a site. -/
def State.accAt (s : State) (i : SiteId) (a : Nat) : Bool :=
  match s.target (a % 2 ^ 64) with
  | .acc j _ _ => j == i
  | .passes j _ => j == i
  | _ => false

/-- Whether a range of addresses reaches an accumulator window of a site. -/
def State.accRange (s : State) (i : SiteId) (a n : Nat) : Bool :=
  (List.range (n / 32 + 2)).any (fun k => s.accAt i (a + min (32 * k) (n - 1)))

/-- Whether a descriptor addresses an accumulator window of a site (04 R119): its BASE, an element within its extents or its scale
(by element number, or where a W operand has it, 03 R86), or, of a sparse operand, a part of the arrays that its grid spans. -/
def State.inAcc (s : State) (i : SiteId) (d : Desc) : Bool :=
  let blocks := d.nbK * d.nbN
  s.accAt i d.base ||
    (if d.sparse = 0 then
      (tuples d.exts).any (fun ix => (d.bytesAt (d.number ix)).any (s.accAt i)) ||
        (d.fmt! == .hb4 && ((tuples d.exts).any (fun ix => s.accAt i (d.scaleAt (d.number ix))) ||
          d.rank == 2 && s.accRange i d.scl (2 * d.extent 1 * ceilDiv (nth d.cap 0 0) 32)))
    else
      s.accRange i d.base (blocks * blockValues d.two4 * d.fmt!.width / 8) || (d.two4 && s.accRange i d.pat (256 * blocks)) ||
        (d.listed && s.accRange i d.blk (roundUp (4 * (d.nbOuter + 1)) 32 + 8 * blocks)) ||
        (d.fmt! == .hb4 && s.accRange i d.scl (256 * blocks)))

/-- Whether an instruction's descriptors address an accumulator window of its own core (04 R119). -/
def State.namesAcc (s : State) (i : SiteId) (w : IWord) : Bool := (usedSlots w).any (fun k => s.inAcc i (Desc.parse (s.slotWords i k)))

/-- Whether a flight is an array instruction. -/
def isArrayOp (w : IWord) : Bool := let o := wOpcode w; decide (0x10 ≤ o) && decide (o ≤ 0x14)

/-- The ranges that a collective writes on its own device at places that its records name (12 R341 to R364). -/
def collWrites (f : Flight) (num : Nat → Nat → Nat) : List (Nat × Nat) :=
  let w (k : Nat) : Nat := num (f.baseOf 0 + 8 * k) 8
  let n := num (w 0) 4
  let op := wf f.word 119 116
  let seg (r k : Nat) : Nat := num (w 1 + 32 * r + 8 * k) 8
  let bits := if op < 2 then (if fld (w 5) 39 32 = 1 then 16 else 32) else (f.desc 2).fmt!.width
  let whole (r : Nat) : Nat × Nat := (seg r 2, seg r 1 * bits / 8)
  let p := f.baseOf 3
  let area := if w 3 = 0 then [] else [(w 3, 64 + (if op = 0 && (w 5).testBit 30 then 32 * n else 0))]
  let prints := if w 7 = 0 then [] else [(num (w 7 + 16) 8, 32 * num (num (w 7 + 8) 8) 4 * num (w 7) 4)]
  let own := match op with
    | 0 | 2 => (List.range (min n 0x8000)).map whole
    | 1 | 3 => [whole (num (w 0 + 4) 4)]
    | 7 => [(num (p + 16) 8, 16 * (f.desc 1).extent 1 * num (p + 37) 1),
            (num (p + 24) 8 + 32 * (wLayer f.word - fld (num (p + 40) 8) 31 12), 32)]
    | 9 => [(p + 24, 4)]
    | _ => []
  area ++ prints ++ own

/-- The ranges that an instruction writes at places that its record names: norms and the probe area (07 R204, R209), the results of a
probe (R211), those of a collective. The records are read as they stand, as far as they are within reach (04 R119, log 120). -/
def State.recordWrites (s : State) (i : SiteId) (f : Flight) : List (Nat × Nat) :=
  let rq := reqOf i f .dma 7
  let r : MowRec := ((readMow rq (f.baseOf 2)).run s).1
  match wOpcode f.word with
  | 0x12 => [(r.probe + gradBase r + 16384 * ((wf f.word 83 65 + f.idxReg (wf f.word 113 112)) % 2 ^ 19 / 2), 16384)]
  | 0x40 => if r.norm = 0 then [] else [(r.norm, 4 * (f.desc 1).nbK * (f.desc 1).nbN)]
  | 0x41 => if wf f.word 119 118 = 0 then [(r.probe, 32 + 8 * r.probeCap)] else []
  | 0x50 => collWrites f (fun a n => ((readNum rq (a % 2 ^ 64) n).run s).1.getD 0)
  | _ => []

/-- The destinations of an instruction's companions (07 R208). -/
def State.companionsOf (s : State) (i : SiteId) (f : Flight) : List Desc :=
  let rq := reqOf i f .dma 7
  if wOpcode f.word = 0x40 || wOpcode f.word = 0x41 && wf f.word 119 118 != 0 then
    (((readMow rq (f.baseOf 2)).bind (readCompanions rq)).run s).1.map (·.2)
  else []

/-- Whether an instruction in flight writes a window of its core's accumulator memory (04 R119): through its descriptors, through a Y that
it puts out, or at places that its record names. -/
def State.writesAcc (s : State) (i : SiteId) (f : Flight) : Bool :=
  let y := decide (wOpcode f.word = 0x10 || wOpcode f.word = 0x11) && wEnd f.word == 2
  (if y then [2] else writtenSlots f.word).any (fun k => s.inAcc i (f.desc k)) ||
    (s.recordWrites i f).any (fun r => s.accRange i r.1 r.2) || (s.companionsOf i f).any (s.inAcc i)

/-- The order that the sequencer keeps at the accumulator memory (04 R119): an instruction that names a window of its own core
waits for earlier array work and transfers, an array instruction for earlier instructions that write one. The MMAs of an open batch hold
none: R122 holds nothing for their results (log 120). -/
def State.accHeld (s : State) (i : SiteId) (u : CoreUnit) (w : IWord) : Bool :=
  let x := s.sites[i]
  (u == .arrays && x.flights.any (s.writesAcc i)) ||
    (s.namesAcc i w && (!(x.inFlight .arrays).isEmpty || x.arrays.any (fun a => a.xfer.busy)))

/-- Whether an address names a granule of this device. -/
def State.isLocal (s : State) (a : Nat) : Bool :=
  match s.target a with
  | .lpddr _ | .scratch _ _ | .acc _ _ _ | .passes _ _ | .blank _ => true
  | _ => false

/-- An instruction of a core asks for granules, on its unit's stream (11 R320). -/
def askFor (i : SiteId) (f : Flight) (extra : Nat) (ws : List Nat) : Prog Unit :=
  .get (fun s =>
    let core := (s.coreOf i).getD 0
    let stream := if f.unit = .dmaRd then 2 * core else 2 * core + 1
    requestWanted (.core i f.unit f.pc) 2 (stream % 256) extra ws)

/-- What an instruction asks for, of the reads that found nothing yet: a GATHER each granule as often as its hold does not serve it (08 R231),
any other each granule once (log 136). -/
def Flight.asks (f : Flight) (want : List Nat) : List Nat := if wOpcode f.word = 0x22 then want else want.eraseDups

/-- An instruction acts: `body` with the granules that have arrived. If it needs granules that have not, nothing of it is done
yet: they are requested, as far as no lost seam channel is on the way (01 R17), and it waits for them. -/
def launch (i : SiteId) (f : Flight) (got : List (Nat × Gran)) (body : Prog Unit) (extra : Nat) : Prog Flight :=
  .get (fun s =>
    let s0 := Prim.apply (.want []) (Prim.apply (.got got) s)
    let ws := f.asks (body.run s0).2.want
    if ws.isEmpty then
      .op (.want []) (.op (.got got) (body.bind (fun _ => .get (fun s1 =>
        .op (.got []) (.pure { f with phase := .done, touched := s.writtenIn s1 })))))
    else
      let need := ws.filter (fun a => !(got.any (fun g => g.1 == a)))
      let cut := need.filter (fun a => s.cutFrom (siteStop i) a && !s.isLocal a)
      (askFor i f extra (need.filter (fun a => !cut.contains a))).bind
        (fun _ => .pure { f with phase := .remote ws got, unasked := cut }))

/-- The unit's earlier instructions have all acted (05 R131: each unit starts in queue order). -/
def Site.unitIdle (x : Site) (u : CoreUnit) : Bool := (x.flights.filter (fun f => f.unit == u)).all (fun f => f.phase == .done)

/-- Whether an array instruction needs the transfer registers of an array while a transfer runs in them (04 R117): an MMA unless it goes on
with the active tile and leaves it active; PARK of the active tile; UNPARK in WIDE of another; a probe on arrays 0 and 1. -/
def State.xferWait (s : State) (i : SiteId) (f : Flight) : Bool :=
  let w := f.word
  let as := s.sites[i].arrays
  let int := match groupOf (f.desc 0).fmt! (f.desc 1).fmt! with | some g => g == .i8 | none => false
  match wOpcode w with
  | 0x10 | 0x11 => (arraysOf w).any (fun a => as[a].xfer.busy && (wEnd w != 0 || (as[a].names int (wTile w)).isNone))
  | 0x12 => as[0].xfer.busy || as[1].xfer.busy
  | 0x13 => (arraysOf w).any (fun a => as[a].xfer.busy &&
      (match as[a].act with | some c => c.tile == tileOf c.mode c.int (wTile w) | none => false))
  | 0x14 => (arraysOf w).any (fun a => as[a].xfer.busy && !s.flag F.CORE_ARRAY_CONFIG.ACC_MODE i 0 &&
      (match as[a].act with | some c => c.tile != wideTile (wTile w) | none => true))
  | _ => false

/-- Whether an instruction that arrives at its unit starts at once: at Lacewing when every earlier one of the core has completed (06
R175), at the Mower when every earlier one of the cluster has (07 R196), elsewhere when the earlier ones of the core have acted, at the
arrays once the transfer registers that it needs are free as well (04 R117). -/
def State.startsNow (s : State) (i : SiteId) (u : CoreUnit) (f : Flight) : Bool :=
  match u with
  | .arrays => s.sites[i].unitIdle u && !s.xferWait i f
  | .lacewing => (s.sites[i].flights.filter (fun f => f.unit == u)).isEmpty
  | .mower => s.clusters[clusterOf i].mow.isEmpty
  | _ => s.sites[i].unitIdle u

/-- Instructions of a core that stand in a unit's queue; the one in execution at the Mower stands there no longer (07 R221). -/
def State.queuedAt (s : State) (i : SiteId) (u : CoreUnit) : Nat :=
  let n := (s.sites[i].flights.filter (fun f => f.unit == u)).length
  if u == .mower && (s.clusters[clusterOf i].mow.head?.map (·.1)) == some i.val then n - 1 else n

/-- Whether an instruction finds its unit's queue full or is held at the accumulator memory. -/
def State.held (s : State) (i : SiteId) (u : CoreUnit) (w : IWord) : Option (Option WaitOn) :=
  if decide (unitDepth u ≤ s.queuedAt i u) || s.accHeld i u w then some plainWait else none

/-- The first instruction in the order of a cluster's Mower (07 R196), with its core's site. -/
def State.mowerNext (s : State) (c : ClusterId) : Option (SiteId × Flight) :=
  match s.clusters[c].mow.head? with
  | none => none
  | some (j, q) =>
    if h : j < 144 then (s.sites[j].flights.find? (fun f => f.unit == .mower && f.seq == q)).map (fun f => (⟨j, h⟩, f)) else none

/-- MOW_STATUS shows whether the cluster's Mower executes, which its first instruction does once it has started, and how many wait (07
R221). -/
def showMower (c : ClusterId) : Prog Unit :=
  letI := Prog.monad
  do
  let s ← ask id
  let busy := (s.mowerNext c).any (fun x => x.2.phase != .queued)
  setF F.MOW_STATUS.BUSY c 0 (b2n busy)
  setF F.MOW_STATUS.QUEUED c 0 (s.clusters[c].mow.length - b2n busy)

/-- Instructions of a site leave the Mower's order: they are complete or discarded. -/
def leaveMower (i : SiteId) (gone : Nat → Bool) : Prog Unit :=
  (modCluster (clusterOf i) (fun c => { c with mow := c.mow.filter (fun m => !(m.1 == i.val && gone m.2)) })).bind
    (fun _ => showMower (clusterOf i))

/-- An instruction starts at its unit: its tags (19 R474), and what MOW_STATUS shows of it (07 R221). -/
def started (i : SiteId) (f : Flight) : Prog Unit :=
  letI := Prog.monad
  do
  tagSet i (unitEngine f.unit) f.word
  when (f.unit == .mower) do
    setF F.MOW_STATUS.LAST_OP (clusterOf i) 0 (wOpcode f.word % 4)
    setF F.MOW_STATUS.LAST_POS (clusterOf i) 0 (i.val % 8)

/-- An instruction arrives at the Mower: it stands last in the order of its cluster (07 R196). -/
def arrived (i : SiteId) (f : Flight) : Prog Unit :=
  when (f.unit == .mower) (modCluster (clusterOf i) (fun c => { c with mow := c.mow ++ [(i.val, f.seq)] }))

/-- An instruction enters its unit's queue and acts if it may start; it stays in flight until its completion (05 R131 to R133). `extra`
marks its last LOAD packet. -/
def enterUnit (i : SiteId) (w : IWord) (u : CoreUnit) (extra : Nat) (body : SiteId → Flight → Prog Unit) (pc : Nat) : Prog Unit :=
  letI := Prog.monad
  do
  let s ← ask id
  let f := s.flightOf i u w pc
  arrived i f
  if s.startsNow i u f then do
    started i f
    let f' ← launch i f [] (body i f) extra
    modSite i (fun x => { x with flights := x.flights ++ [f'] })
  else modSite i (fun x => { x with flights := x.flights ++ [f] })
  when (u == .mower) (showMower (clusterOf i))

/-- The issue attempt of an instruction of a unit. -/
def issueUnit (i : SiteId) (w : IWord) (u : CoreUnit) (extra : Nat) (body : SiteId → Flight → Prog Unit) : Prog Unit :=
  attempt i w skip (fun s => s.held i u w) (enterUnit i w u extra body)

/-- Writes of an instruction: patches under its class, remote granules as TC2 STOREs of its queue's stream (11 R320). -/
def writeOut (i : SiteId) (f : Flight) (rq : Req) (sg : Signal) (ps : List Patch) : Prog Unit :=
  letI := Prog.monad
  do
  let r ← writePatches rq ps
  let core ← ask (fun s => (s.coreOf i).getD 0)
  let stream := if f.unit = .dmaRd then 2 * core else 2 * core + 1
  sendStores (.core i f.unit f.pc) 2 (stream % 256) 0 sg r

end Sys2Proof.Machine
end

