-- ==== Sys2Proof/Machine/Arrays.lean ====
section
/-!
DEFINITION. The arrays: weight entries in cycle order, cells, tiles, parks and OUT, resident weights, the row queue
(spec/04_core_arrays.md; 05 R138, R145 to R150; 03 R84 to R96).
-/
namespace Sys2Proof.Machine
open Prog hiding pure bind get op run monad

/-- A format that may stand as X in some group. -/
def isX (x : Fmt) : Bool :=
  match x with
  | .e4m3 | .e5m2 | .int8 | .uint8 | .bf16 | .fp16 => true
  | _ => false

/-! The weight feeder. -/

/-- A position of W that an entry takes: its W indices, and where its value is: an element number, or FILL. -/
structure WPos where
  k   : Nat
  n   : Nat
  no  : Option Int
deriving DecidableEq, Repr

/-- Positions of one column entry with their offsets in the group; the HB4 scale's address where a stored code carries one. -/
structure WSlot where
  p0 : WPos
  o0 : Nat
  p1 : WPos
  o1 : Nat
  scale : Option Nat
deriving DecidableEq, Repr

/-- A stored block of W, or a region without a list: the first K and N position, and its ordinal (03 R83). -/
structure WBlock where
  k0  : Nat
  n0  : Nat
  ord : Nat
deriving DecidableEq, Repr

/-- Element number of a dense W position: by strides, HB4 by the fixed places of 03 R86. -/
def Desc.denseNo (d : Desc) (k n : Nat) : Int :=
  if d.fmt! = .hb4 then ((n * roundUp (nth d.cap 0 0) 32 + k : Nat) : Int) else d.number [k, n]

/-- The slot positions of column n of the K-group at k (both in W's indices) in a forward read (03 R96, 04 R101): the
column's two pattern offsets in the 2:4 forms; {0, 1} then {2, 3} in the dense forms. `b` is the stored block, `beyond` marks one
beyond the operand, `mask` its pattern there. -/
def fwdSlots (d : Desc) (b : WBlock) (beyond : Bool) (mask k n : Nat) : List WSlot :=
  let kl := k - b.k0
  let nl := n - b.n0
  let out (k n : Nat) : Bool := beyond || decide (d.extent 0 ≤ k) || decide (d.extent 1 ≤ n)
  let sc (k n : Nat) : Nat :=
    if d.sparse = 0 then (d.scl + scaleOffset 0 0 k n (nth d.cap 0 0)) % 2 ^ 64
    else (d.scl + scaleOffset d.sparse b.ord (k - b.k0) (n - b.n0) (nth d.cap 0 0)) % 2 ^ 64
  if d.two4 then
    let rs := patRows (if beyond then patternMask 0 else mask) (nl % 4)
    let o0 := nth rs 0 0
    let o1 := nth rs 1 1
    let pos (o t : Nat) : WPos := ⟨k + o, n, if out (k + o) n then none else some (d.storedNo b.ord (kl + o) nl t)⟩
    [⟨pos o0 0, o0, pos o1 1, o1, some (sc k n)⟩]
  else
    let pos (o : Nat) : WPos :=
      ⟨k + o, n, if out (k + o) n then none
        else some (if d.sparse = 0 then d.denseNo (k + o) n else d.storedNo b.ord (kl + o) nl 0)⟩
    [⟨pos 0, 0, pos 1, 1, some (sc k n)⟩, ⟨pos 2, 2, pos 3, 3, some (sc k n)⟩]

/-- The slot positions of output column k (a K position) of the N-group at n in a transposed read (03 R96, 04 R110). -/
def trnSlots (d : Desc) (b : WBlock) (beyond : Bool) (mask : Nat → Nat) (k n : Nat) : List WSlot :=
  let kl := k - b.k0
  let nl := n - b.n0
  let out (n : Nat) : Bool := beyond || decide (d.extent 0 ≤ k) || decide (d.extent 1 ≤ n)
  if d.two4 then
    let m := if beyond then patternMask 0 else mask (nl / 4)
    let cs := patCols m (kl % 4)
    let j0 := nth cs 0 0
    let j1 := nth cs 1 1
    let pos (j : Nat) : WPos :=
      ⟨k, n + j, if out (n + j) then none
        else some (d.storedNo b.ord kl (nl + j) ((patSlot m (kl % 4) j).getD 0))⟩
    [⟨pos j0, j0, pos j1, j1, none⟩]
  else
    let pos (j : Nat) : WPos :=
      ⟨k, n + j, if out (n + j) then none
        else some (if d.sparse = 0 then d.denseNo k (n + j) else d.storedNo b.ord kl (nl + j) 0)⟩
    [⟨pos 0, 0, pos 1, 1, none⟩, ⟨pos 2, 2, pos 3, 3, none⟩]

/-- The address of the HB4 scale of a W position. -/
def Desc.wScale (d : Desc) (no : Int) (k n : Nat) : Nat :=
  if d.sparse = 0 then (d.scl + scaleOffset 0 0 k n (nth d.cap 0 0)) % 2 ^ 64 else d.scaleAt no

/-- The blocks (or, without a list, the grid's blocks) that an array instruction walks, in order, with the reduction positions
at which its groups begin (04 R102, 05 R146). `t` is MMA.T; `asc` sorts a list by its coordinates (06 R179). -/
def walk (d : Desc) (rq : Req) (t asc : Bool) (first lo hi : Nat) : Prog (List (WBlock × Bool × List Nat)) :=
  letI := Prog.monad
  do
  let red := if t then 1 else 0
  if d.listed then do
    let es ← d.line rq (first / 64)
    let es := es.filter (fun e => decide (lo ≤ 64 * e.coord) && decide (64 * e.coord < hi))
    let es := if asc then es.mergeSort (fun a b => decide (a.coord ≤ b.coord)) else es
    pure (es.map (fun e =>
      let beyond := decide (d.extent red ≤ 64 * e.coord)
      let b : WBlock := if t then ⟨first / 64 * 64, 64 * e.coord, e.ordinal⟩ else ⟨64 * e.coord, first / 64 * 64, e.ordinal⟩
      (b, beyond, (List.range 16).map (fun g => 64 * e.coord + 4 * g))))
  else
    let gs := (List.range ((hi - lo + 3) / 4)).map (fun g => lo + 4 * g)
    pure (gs.map (fun p =>
      let b : WBlock :=
        if d.sparse = 0 then ⟨0, 0, 0⟩
        else if t then ⟨first / 64 * 64, p / 64 * 64, p / 64 * d.nbK + first / 64⟩
        else ⟨p / 64 * 64, first / 64 * 64, first / 64 * d.nbK + p / 64⟩
      (b, false, [p])))

/-- A W value in the format of its group: INT4 and FP8 exact, HB4 as its level (forward) or decoded (transposed), FILL in
the format of X, a failed granule NaN or 0 (02 R55, 04 R103, R105, 05 R150). -/
def wValue (d : Desc) (xf : Fmt) (t : Bool) (m : GMap) (p : WPos) : FVal :=
  match p.no with
  | none => (if d.fmt! = .hb4 || d.fmt! = .int4 then xf else d.fmt!).take d.fillVal
  | some no =>
    match d.bitsIn m no with
    | none => d.fmt!.failed
    | some b =>
      if d.fmt! = .hb4 then
        (if t then (let s := scaleIn m (d.wScale no p.k p.n)
                    if (FPar.bf16.decode s).isZero then .zero else (hb4Level b).mul (FPar.bf16.decode s))
         else hb4Level b)
      else d.fmt!.decode b

/-- The weights of an array instruction, read by the weight feeder (04 R101 to R110): the groups in order. -/
def loadWeights (d : Desc) (xf : Fmt) (rq : Req) (t asc : Bool) (first lo hi : Nat) : Prog WGroups :=
  letI := Prog.monad
  do
  let bs ← walk d rq t asc first lo hi
  let gs := (bs.map (fun b => b.2.2.map (fun p => (b.1, b.2.1, p)))).flatten
  -- pattern ids
  let idAt (b : WBlock) (k n : Nat) : Nat := (d.pat + patOffset b.ord ((k - b.k0) / 4) ((n - b.n0) / 4)) % 2 ^ 64
  let cols := (List.range 32).map (first + ·)
  let ids ← if d.two4 then
      fetch rq ((gs.filter (fun g => !g.2.1)).map (fun g => cols.map (fun c =>
        if t then idAt g.1 c g.2.2 else idAt g.1 g.2.2 c))).flatten
    else pure []
  let mask (b : WBlock) (k n : Nat) : Nat := patternMask ((ids.byte (idAt b k n)).getD 0)
  let slots := gs.map (fun g => (g.2.2, cols.map (fun c =>
    if t then trnSlots d g.1 g.2.1 (fun _ => mask g.1 c g.2.2) c g.2.2
    else fwdSlots d g.1 g.2.1 (mask g.1 g.2.2 c) g.2.2 c)))
  -- values and scales
  let every := (slots.map (fun s => s.2.flatten)).flatten
  let need (p : WPos) : List Nat := match p.no with
    | none => []
    | some no => d.bytesAt no ++ (if d.fmt! = .hb4 then span (d.wScale no p.k p.n) 2 else [])
  let m ← fetch rq ((every.map (fun s => need s.p0 ++ need s.p1)).flatten)
  let entry (s : WSlot) : WEntry :=
    { v0 := wValue d xf t m s.p0, o0 := s.o0, v1 := wValue d xf t m s.p1, o1 := s.o1,
      scale := if d.fmt! = .hb4 && !t then
          (match s.p0.no, s.p1.no with
            | none, none => .fin false 1
            | _, _ => FPar.bf16.decode (scaleIn m (s.scale.getD 0)))
        else .fin false 1,
      close := false }
  pure (slots.map (fun s => (s.1, s.2.map (fun c => c.map entry))))

/-- A cell's state in an HB4 product: its accumulator, its block partial, the scale met in the block, and the entries in it. -/
structure HbCell where
  acc   : FVal
  part  : FVal
  scale : Option FVal
  n     : Nat
deriving DecidableEq, Repr

/-- The close of a scale block (02 R55): one rounding; a block of fill positions alone closes with scale 1. -/
def HbCell.closed (c : HbCell) : HbCell :=
  if c.n = 0 then c
  else ⟨rn32 (c.acc.add (c.part.mul (c.scale.getD (.fin false 1)))), .zero, none, 0⟩

/-- The scale of an entry that holds a stored code: entries of fill alone carry none. -/
def WEntry.stored (e : WEntry) : Option FVal := if e.scale = .fin false 1 then none else some e.scale

/-- One HB4 entry into a cell: the products into the partial, the block closed after its 16th entry. -/
def HbCell.step (x : Nat → FVal) (c : HbCell) (e : WEntry) : HbCell :=
  let p := rn32 (FVal.sum [c.part, (x e.o0).mul e.v0, (x e.o1).mul e.v1])
  let c' : HbCell := ⟨c.acc, p, match e.stored with | some s => some s | none => c.scale, c.n + 1⟩
  if c'.n = 16 then c'.closed else c'

/-- A floating cell over one column's entries of one group (02 R54): both products of an 8-bit entry in one cycle, those of
a 16-bit entry in two. -/
def floatStep (g : Group) (x : Nat → FVal) (acc : FVal) (e : WEntry) : FVal :=
  if g = .f16 then rn32 ((rn32 (acc.add ((x e.o0).mul e.v0))).add ((x e.o1).mul e.v1))
  else rn32 (FVal.sum [acc, (x e.o0).mul e.v0, (x e.o1).mul e.v1])

/-- An integer cell over one entry: exact products, wrapping in INT32 (02 R52). -/
def intStep (x : Nat → FVal) (acc : Nat) (e : WEntry) : Nat :=
  wrap 32 ((acc : Int) + ((x e.o0).toRat * e.v0.toRat + (x e.o1).toRat * e.v1.toRat).num)

/-- One cell over a whole instruction: `xs` gives, per group, the row's four activations. -/
def runCell (g : Group) (hb : Bool) (acc : BitVec 32) (gs : List (List WEntry × (Nat → FVal))) : BitVec 32 :=
  if g = .i8 then BitVec.ofNat 32 (gs.foldl (fun a s => s.1.foldl (intStep s.2) a) acc.toNat)
  else if hb then
    let c := gs.foldl (fun c s => s.1.foldl (HbCell.step s.2) c) ⟨val32 acc.toNat, .zero, none, 0⟩
    BitVec.ofNat 32 (bits32 c.closed.acc)
  else BitVec.ofNat 32 (bits32 (gs.foldl (fun a s => s.1.foldl (floatStep g s.2) a) (val32 acc.toNat)))

/-! Rows folded into M (05 R145). -/

/-- The product of the extents of dimensions 1 on: the M extent. -/
def Desc.mExt (d : Desc) : Nat := prodN (d.exts.drop 1)

/-- The indices (i1, …) of row r, i1 fastest. -/
def rowIdx : List Nat → Nat → List Nat
  | [], _ => []
  | [_], r => [r]
  | n :: t, r => r % n :: rowIdx t (r / n)

/-- Element (column c, row r) of an X, Y, dY or dX operand; a sparse Y holds the row along K and the column along N (03 R82,
R93; DEDUCED, log 9). -/
def Desc.mIdx (d : Desc) (c r : Nat) : List Nat :=
  if d.sparse = 0 then c :: rowIdx (d.exts.drop 1) r else [r, c]

/-! Tiles (04 R112 to R119). -/

/-- The local offset of an array's accumulator memory. -/
def accBase (i : SiteId) (a : Nat) : Nat := windowBase i + 0x200000 + a * 0x20000

/-- The elements of a tile read from accumulator memory by the transfer: 32-bit WIDE words or FP24 values; none where their granule
failed (04 R105, R112). -/
def readTile (i : SiteId) (a : Nat) (rq : Req) (tile esz : Nat) : Prog (List (Option Nat)) :=
  letI := Prog.monad
  do
  let base := accBase i a + 1024 * esz * tile
  let m ← collect (List.range (32 * esz)) (fun k => do
    let g ← ask (fun s => s.stored (base + 32 * k))
    let d ← consume rq (base + 32 * k) g
    pure (base + 32 * k, d))
  pure ((List.range 1024).map (fun e => GMap.bytes m (base + esz * e) esz))

/-- A tile's bytes written by a transfer. -/
def writeTile (i : SiteId) (a : Nat) (tile esz : Nat) (els : List Nat) : Prog Unit :=
  let base := accBase i a + 1024 * esz * tile
  let bs := (els.map (toBytes esz)).flatten
  each (List.range (32 * esz)) (fun k => putGran (base + 32 * k) (.valid (slice bs (32 * k) 32)))

def getArr (i : SiteId) (a : Fin 4) : Prog ArrayState := ask (fun s => s.sites[i].arrays[a])
def modArr (i : SiteId) (a : Fin 4) (g : ArrayState → ArrayState) : Prog Unit :=
  modSite i (fun x => { x with arrays := x.arrays.set a (g x.arrays[a]) })

/-- CORE_ARRAY_STATUS shows each array's tiles; XFER_DIR reads 0 where nothing is transferred or held (04 R127). -/
def arrayStatus (x : ArrayState) : Nat :=
  let (v, t) := match x.act with
    | some a => (1, a.tile)
    | none => (0, 0)
  place 15 15 v + place 12 8 t + place 7 7 (b2n x.xfer.busy) + place 6 6 (b2n (x.xfer.busy && x.xfer.dir)) + place 5 5 (b2n x.xfer.held) +
    place 4 0 x.xfer.tile

def showArrays (i : SiteId) : Prog Unit :=
  .get (fun s =>
    let a := s.sites[i].arrays
    setR .CORE_ARRAY_STATUS i 0
      (arrayStatus a[0] + place 31 16 (arrayStatus a[1]) + place 47 32 (arrayStatus a[2]) + place 63 48 (arrayStatus a[3])))

/-- The start action of an array (04 R116) for a tile index: the cells that the instruction begins with, and the ACC_MODE under which the
tile is active. -/
def startTile (i : SiteId) (a : Fin 4) (rq : Req) (zero int : Bool) (idx : Nat) : Prog (List (BitVec 32) × Bool) :=
  letI := Prog.monad
  do
  let x ← getArr i a
  let blank : List (BitVec 32) := List.replicate 1024 0
  let now ← ask (fun s => s.flag F.CORE_ARRAY_CONFIG.ACC_MODE i 0)
  let same := (x.names int idx).isSome
  let mode := match x.names int idx with
    | some c => if zero then now else c.mode
    | none => now
  let long := mode && !int
  let tile := tileOf mode int idx
  -- the elements of a failed granule enter as the canonical NaN or as integer 0 (04 R105)
  let failed : BitVec 32 := if int then 0 else 0x7FC00000
  let taken := !zero && !long && (x.xfer.held || (x.xfer.busy && !x.xfer.dir)) && x.xfer.tile == tile
  -- a switch discards an unparked tile that it does not name (04 R116)
  when (!same && !taken && (x.xfer.held || !x.xfer.dir))
    (modArr i a (fun y => { y with xfer := { y.xfer with held := false, busy := false, cells := [] } }))
  if zero then do
    when long (modArr i a (fun y => { y with pass := y.pass.set tile 0, zeroed := tile :: y.zeroed.filter (· != tile) }))
    pure (blank, mode)
  else match x.names int idx with
  | some c => pure (c.cells, mode)
  | none =>
    if long then pure (blank, mode)
    else if taken then do
      modArr i a (fun y => { y with xfer := { y.xfer with held := false, busy := false, cells := [] } })
      pure (x.xfer.cells.map (fun c => c.getD failed), mode)
    else do
      let els ← readTile i a rq tile 4
      modArr i a (fun y => { y with xfer := { busy := false, dir := false, held := false, tile := tile, cells := [] } })
      pure (els.map (fun e => (e.map (BitVec.ofNat 32)).getD failed), mode)

/-- The park add of a LONG tile (04 R118): the exact sum of each parked value and its pass, rounded stochastically to FP24 under the key
of the last MMA that named the tile, which in a batch is each row's own (02 R67, 04 R122); the rounded values. The parked value of a tile
that ZERO made active since its last park add is +0 (04 R116). The rows that a batch leaves empty, whose sums are zero, are park-added
as well: R122 says that they write nothing, which the model reads as nothing of a Y (log 165). -/
def parkAdd (i : SiteId) (a : Fin 4) (rq : Req) (c : Active) : Prog (List Nat) :=
  letI := Prog.monad
  do
  let x ← getArr i a
  let old ← if x.zeroed.contains c.tile then pure (List.replicate 1024 (some 0)) else readTile i a rq c.tile 3
  let seed ← getR .TOP_SR_SEED
  let pass := nth x.pass c.tile 0
  let els := (List.range 1024).map (fun e =>
    let (yw, r, step) := nth c.rows (e / 32) ([], 0, c.step)
    let y := Desc.parse yw
    let idx := y.lindex (y.mIdx (32 * c.nbase + e % 32) r)
    let k := srBits seed step y.tensor (place 39 32 pass + idx % 2 ^ 32)
    FPar.fp24.encode (FPar.fp24.round (.sr k)
      ((FPar.fp24.decode ((nth old e (some 0)).getD 0x7FC000)).add (val32 (nth c.cells e 0).toNat))).1)
  writeTile i a c.tile 3 els
  modArr i a (fun y => { y with pass := y.pass.set c.tile ((pass + 1) % 256), zeroed := y.zeroed.filter (· != c.tile) })
  pure els

/-- A tile leaves the cells through the transfer registers (04 R116, R117). -/
def leave (i : SiteId) (a : Fin 4) (tile : Nat) : Prog Unit :=
  let nx : Xfer := { busy := true, dir := true, held := false, tile := tile, cells := [] }
  modArr i a (fun y => { y with act := none, xfer := nx })

/-- Whether an active tile is an FP24 tile of the LONG layout. -/
def Active.long (c : Active) : Bool := c.mode && !c.int

/-- PARK of the active tile (04 R116); a tile written in full by another means than a park add counts its passes anew (02 R67). -/
def parkActive (i : SiteId) (a : Fin 4) (rq : Req) : Prog Unit :=
  letI := Prog.monad
  do
  let x ← getArr i a
  match x.act with
  | none => skip
  | some c => do
    if c.long then do
      let _ ← parkAdd i a rq c
    else do
      writeTile i a c.tile 4 (c.cells.map (·.toNat))
      clearPasses i a c.mode (4096 * c.tile) (4096 * (c.tile + 1))
    leave i a c.tile

/-! The array instructions. -/

/-- One MMA's share of a run of the arrays: its queue entry, and the first row of the run that it takes. -/
structure Member where
  flight : Flight
  row0   : Nat
  rows   : Nat
deriving DecidableEq, Repr

/-- The effective NBASE (05 R138). -/
def nbaseOf (f : Flight) : Nat := (wf f.word 83 65 + f.idxReg (wf f.word 113 112)) % 2 ^ 19

/-- The reduction range of an array instruction over W (05 R146). -/
def redRange (w : IWord) (wd : Desc) (t : Bool) : Nat × Nat :=
  let lo := 256 * wf w 64 49
  let n := wf w 48 33
  (lo, if n = 0 then roundUp (wd.extent (if t then 1 else 0)) 4 else lo + 256 * n)

/-- The stored positions of a sparse Y: where its list holds the block and its pattern the position, block by block in list order, so
that of two writes of one slot the later entry's prevails (03 R93). -/
def sparseYNo (d : Desc) (rq : Req) (cols rows : List Nat) : Prog (List (Nat × Nat × Int)) :=
  letI := Prog.monad
  do
  let bks := (rows.map (· / 64)).eraseDups
  let bns := (cols.map (· / 64)).eraseDups
  let es ← if d.listed then
      (if d.order = 1 then collect bks (fun bk => do
          let l ← d.line rq bk
          pure (l.map (fun e => (bk, e.coord, e.ordinal))))
       else collect bns (fun bn => do
          let l ← d.line rq bn
          pure (l.map (fun e => (e.coord, bn, e.ordinal)))))
    else pure [(bks.map (fun bk => bns.map (fun bn => (bk, bn, bn * d.nbK + bk)))).flatten]
  let pos := (es.flatten.map (fun (b : Nat × Nat × Nat) => ((rows.filter (fun r => r / 64 == b.1)).map (fun r =>
    (cols.filter (fun c => c / 64 == b.2.1)).map (fun c => (r, c, b.2.2)))).flatten)).flatten
  let ids ← if d.two4 then fetch rq (pos.map (fun p => (d.pat + patOffset p.2.2 (p.1 % 64 / 4) (p.2.1 % 64 / 4)) % 2 ^ 64))
    else pure []
  pure (pos.filterMap (fun (p : Nat × Nat × Nat) =>
    let (r, c, o) := p
    if d.two4 then
      let m := patternMask ((ids.byte ((d.pat + patOffset o (r % 64 / 4) (c % 64 / 4)) % 2 ^ 64)).getD 0)
      (patSlot m (r % 4) (c % 4)).map (fun t => (r, c, d.storedNo o (r % 64) (c % 64) t))
    else some (r, c, d.storedNo o (r % 64) (c % 64) 0)))

/-- OUT of one MMA's rows into its Y descriptor (04 R116, 05 R145, R149): `src r` is the format of its row r and `bits r j` what stands in
column j of it. The spec names no consumer unit for the list and the pattern ids of a sparse Y; the model takes the accumulator
transfer's, 0x04 (log 146). -/
def outRows (i : SiteId) (mb : Member) (src : Nat → Fmt) (bits : Nat → Nat → Nat) : Prog Unit :=
  letI := Prog.monad
  do
  let f := mb.flight
  let y := f.desc 2
  let n0 := 32 * nbaseOf f
  let seed ← getR .TOP_SR_SEED
  let rq := reqOf i f .seq 4
  let cells := ((List.range mb.rows).map (fun r => (List.range 32).map (fun j => (r, n0 + j)))).flatten
  let live := cells.filter (fun c => y.inside (y.mIdx c.2 c.1))
  let colsIn := ((List.range 32).map (fun j => n0 + j)).filter (fun c => decide (c < y.extent 1))
  let rowsIn := (List.range mb.rows).filter (fun r => decide (r < y.extent 0))
  let els ← if y.sparse = 0 then pure (live.map (fun c => (c.1, c.2, y.number (y.mIdx c.2 c.1))))
    else sparseYNo y rq colsIn rowsIn
  let (ps, ev) := elPatches y seed f.step (wRnd f.word) (els.map (fun e =>
    let b := bits e.1 (e.2.1 - n0)
    { no := e.2.2, idx := y.lindex (y.mIdx e.2.1 e.1), bits := if y.fmt! = src e.1 then some b else none,
      val := (src e.1).decode b, bad := false })) []
  qntEvents i ev
  writeOut i f rq {} ps

/-! The shadow check (09 R272, R276). -/

/-- The bin of a deviation. -/
def shadowBin (dev : FVal) : Nat :=
  if !dev.isFinite then 15
  else ((List.range 15).filter (fun (b : Nat) => decide (pow2 ((b : Int) - 16) ≤ dev.toRat))).length

/-- The deviation of a value from its reference, computed in FP32. -/
def shadowDev (floor y ref : FVal) : FVal :=
  if !y.isFinite || !ref.isFinite then .inf false
  else
    let m := if ref.abs.lt floor then floor else ref.abs
    rn32 ((rn32 (y.sub ref)).abs.div m)

/-- The greater of two deviations; one that is no number (0 ÷ 0 where FLOOR is 0) prevails, so that its tile counts as non-finite. -/
def maxDev (a b : FVal) : FVal := if a.isNan then a else if b.isNan then b else if a.lt b then b else a

/-- The reference values of the rows and columns of an MMA: X and W of the shadow slots in BF16, FP32 sums over the whole K. -/
def shadowRef (i : SiteId) (mb : Member) : Prog (Nat → Nat → FVal) :=
  letI := Prog.monad
  do
  let s ← ask id
  let f := mb.flight
  let xd := Desc.parse (s.slotWords i ((wSA f.word + 32) % 64))
  let wd := Desc.parse (s.slotWords i ((wSB f.word + 32) % 64))
  if !xd.ok || !wd.ok || xd.sparse != 0 then pure (fun _ _ => .nan)
  else do
    let gs ← loadWeights wd .bf16 (reqOf i f .seq 3) false false (32 * nbaseOf f) 0 (wd.extent 0)
    let hb := wd.fmt! == .hb4
    let narrow (v scale : FVal) : FVal := Fmt.bf16.take (if hb then v.mul scale else v)
    let gs' := gs.map (fun g => (g.1, g.2.map (fun c => c.map (fun e =>
      { e with v0 := narrow e.v0 e.scale, v1 := narrow e.v1 e.scale }))))
    let ks := (gs.map (fun g => [g.1, g.1 + 1, g.1 + 2, g.1 + 3])).flatten
    let m ← fetch (reqOf i f .seq 2) (((List.range mb.rows).map (fun r =>
      ((ks.filter (fun k => decide (k < xd.extent 0))).map (fun k => xd.bytesAt (xd.number (xd.mIdx k r)))).flatten)).flatten)
    let act (r k : Nat) : FVal := Fmt.bf16.take
      (if k < xd.extent 0 then xd.valueIn m (xd.number (xd.mIdx k r)) else xd.fmt!.take xd.fillVal)
    pure (fun r j => val32 (runCell .f16 false 0
      (gs'.map (fun g => (nth g.2 j [], fun o => act r (g.1 + o))))).toNat)

/-- The check of a selected MMA: one histogram entry for each array's tile, whose format `src` gives. -/
def shadowCheck (i : SiteId) (mb : Member) (src : Nat → Fmt) (outs : List (List Nat)) : Prog Unit :=
  letI := Prog.monad
  do
  let s ← ask id
  let f := mb.flight
  let y := f.desc 2
  let rate := min 16 (max 6 (s.field F.CORE_SHADOW_CONFIG.RATE_LOG2 i 0))
  let nb := nbaseOf f
  when (s.flag F.CORE_SHADOW_CONFIG.ENABLE i 0 && srBits (s.reg .TOP_SR_SEED 0 0) f.step y.tensor nb % 2 ^ rate == 0) do
    let ref ← shadowRef i mb
    let floor := val32 (s.field F.CORE_SHADOW_CONFIG.FLOOR i 0)
    each (List.range outs.length) (fun q => do
      let cells := ((List.range 32).map (fun r => (List.range 32).map (fun j => (32 * q + r, j)))).flatten
      let live := cells.filter (fun c => decide (c.1 < mb.rows) && y.inside (y.mIdx (32 * nb + c.2) c.1))
      let dev := (live.map (fun c =>
        shadowDev floor (rn32 ((src q).decode (nth (nth outs q []) (32 * (c.1 % 32) + c.2) 0))) (ref c.1 c.2))).foldl maxDev .zero
      incF F.CORE_SHADOW_EVENTS.TILES i 0 1
      let first := s.field F.CORE_SHADOW_LAYERS.LAYER_FIRST i 0
      let layer := wLayer f.word
      if decide (first ≤ layer) && decide (layer < first + s.field F.CORE_SHADOW_LAYERS.LAYER_COUNT i 0) then do
        let a := (64 * s.field F.CORE_SHADOW_HIST.BASE i 0 + 64 * (layer - first) + 4 * shadowBin dev) % 2 ^ 41
        let old ← readNum (reqOf i f .seq 3) a 4
        let _ ← writePatches (reqOf i f .seq 3) (Patch.addNum a 4 ((old.getD 0 + 1) % 2 ^ 32) false [])
        skip
      else incF F.CORE_SHADOW_EVENTS.OUT_OF_RANGE i 0 1)

/-- The arrays run: the members' rows, with the head's weights, tile and actions (04 R98 to R122). -/
def runArrays (i : SiteId) (t : Bool) (members : List Member) (batch : Bool) : Prog Unit :=
  letI := Prog.monad
  do
  match members.head? with
  | none => skip
  | some h => do
  let f := h.flight
  let w := f.word
  let wd := f.desc 1
  let xd := f.desc 0
  match groupOf xd.fmt! wd.fmt! with
  | none => skip
  | some g => do
  let first := 32 * nbaseOf f
  let (lo, hi) := redRange w wd t
  let s ← ask id
  -- the resident weights (04 R108)
  let opc := wOpcode w
  let hit : Option WGroups := match s.sites[i].resident with
    | some r => if r.opcode = opc && r.slot == wSB w && r.xfmt == xd.code && r.first == first && r.kfirst == lo &&
        r.klen == hi - lo then some r.groups else none
    | none => none
  let gs ← match hit with
    | some gs => do
      -- one for the run, also of a batch, which is the model's choice (log 145)
      incF F.CORE_ARRAY_EVENTS.W_REUSE i 0 1
      pure gs
    | none => do
      let gs ← loadWeights wd xd.fmt! (reqOf i f .seq 3) t false first lo hi
      let keep := decide (gs.length ≤ (if wd.two4 then 512 else 256))
      let res : Option Resident := if keep then some ⟨opc, wSB w, xd.code, first, lo, hi - lo, gs⟩ else none
      modSite i (fun x => { x with resident := res })
      pure gs
  -- the activations of each member
  let ks := (gs.map (fun g => [g.1, g.1 + 1, g.1 + 2, g.1 + 3])).flatten
  let xs ← collect members (fun mb => do
    let d := mb.flight.desc 0
    let m ← fetch (reqOf i mb.flight .seq 2) (((List.range mb.rows).map (fun r =>
      ((ks.filter (fun k => decide (k < d.extent 0))).map (fun k => d.bytesAt (d.number (d.mIdx k r)))).flatten)).flatten)
    pure (mb, d, m))
  let act (r k : Nat) : FVal :=
    match xs.find? (fun x => decide (x.1.row0 ≤ r) && decide (r < x.1.row0 + x.1.rows)) with
    | some (mb, d, m) =>
      if k < d.extent 0 then d.valueIn m (d.number (d.mIdx k (r - mb.row0))) else d.fmt!.take d.fillVal
    | none => if batch then .zero else xd.fmt!.take xd.fillVal
  let int := g == .i8
  let rq := reqOf i f .seq 4
  let arrs := arraysOf w
  let hb := wd.fmt! == .hb4 && !t
  let outs ← collect (List.range arrs.length) (fun q => do
    match arrs[q]? with
    | none => pure (false, [])
    | some a => do
      let (start, mode) ← startTile i a rq (wb w 118) int (wTile w)
      let rowX := (List.range 32).map (fun m => gs.map (fun (g : Nat × List (List WEntry)) =>
        let v := [act (32 * q + m) g.1, act (32 * q + m) (g.1 + 1), act (32 * q + m) (g.1 + 2), act (32 * q + m) (g.1 + 3)]
        v))
      let cells := (List.range 1024).map (fun e =>
        let x := nth rowX (e / 32) []
        runCell g hb (nth start e 0)
          (List.zipWith (fun (g : Nat × List (List WEntry)) (v : List FVal) => (nth g.2 (e % 32) [], fun o => nth v o .zero)) gs x))
      let rowOf (m : Nat) : DescWords × Nat × Nat :=
        match members.find? (fun mb => decide (mb.row0 ≤ 32 * q + m) && decide (32 * q + m < mb.row0 + mb.rows)) with
        | some mb => (nth mb.flight.descs 2 [], 32 * q + m - mb.row0, mb.flight.step)
        | none => (nth f.descs 2 [], 32 * q + m - h.row0, f.step)
      let tile := tileOf mode int (wTile w)
      let c : Active := { tile := tile, int := int, cells := cells, step := f.step,
                          rows := (List.range 32).map rowOf, nbase := nbaseOf f, mode := mode }
      modArr i a (fun y => { y with act := some c })
      if wEnd w = 1 then do
        parkActive i a rq
        pure (c.long, [])
      else if wEnd w = 2 then
        (if c.long then do
          let els ← parkAdd i a rq c
          leave i a tile
          pure (c.long, els)
        else do
          leave i a tile
          pure (c.long, cells.map (·.toNat)))
      else pure (c.long, []))
  -- OUT into each member's Y
  -- the format in which each array's tile stands (04 R112, R120)
  let src (q : Nat) : Fmt := if int then .int32 else if (nth outs q (false, [])).1 then .fp24 else .fp32
  let tiles := outs.map (·.2)
  when (wEnd w == 2) (each members (fun mb =>
    outRows i mb (fun r => src ((mb.row0 + r) / 32))
      (fun r j => nth (nth tiles ((mb.row0 + r) / 32) []) (32 * ((mb.row0 + r) % 32) + j) 0)))
  when (wEnd w == 2 && !batch && !t && !wb w 119) (shadowCheck i h src tiles)
  showArrays i

/-- The checks of an MMA or MMA.T before it reads anything: formats (02 R48, R53, 03 R82, R89, 05 R138), an empty array mask,
extents (05 R147, R148), the M extent (04 R99). It answers the rows to compute, if it goes on. -/
def checkMma (i : SiteId) (t : Bool) (f : Flight) : Prog (Option Nat) :=
  letI := Prog.monad
  do
  let w := f.word
  let xd := f.desc 0
  let wd := f.desc 1
  let yd := f.desc 2
  when (wf w 117 116 == 3) (fieldError i f)
  if !xd.ok || xd.sparse != 0 || !isX xd.fmt! then do
    formatError i f (wSA w)
    pure none
  else if !wd.ok || (groupOf xd.fmt! wd.fmt!).isNone || (wd.listed && wd.order != b2n t) then do
    formatError i f (wSB w)
    pure none
  else if wEnd w == 2 && (!yd.ok || (t && yd.sparse != 0)) then do
    formatError i f (wSC w)
    pure none
  else if wArrays w = 0 then pure none
  else do
    let ds := if wEnd w = 2 then [xd, wd, yd] else [xd, wd]
    let ySize := if yd.sparse = 0 then yd.mExt else yd.extent 0
    let m := if wEnd w = 2 then min xd.mExt ySize else xd.mExt
    let room := 32 * (arraysOf w).length
    let tight := decide (room < m) && !ds.any Desc.empty
    let go ← checkShapes i ds
    when (tight && !ds.any Desc.clamped) do
      incF F.CORE_SHAPE_EVENTS.CLAMP_COUNT i 0 1
      setF F.CORE_SHAPE_EVENTS.SHAPE_CLAMPED i 0 1
    pure (if go then some (min m room) else none)

/-- An MMA or MMA.T that runs alone. -/
def mmaBody (t : Bool) (i : SiteId) (f : Flight) : Prog Unit :=
  letI := Prog.monad
  do
  let r ← checkMma i t f
  match r with
  | none => skip
  | some m => runArrays i t [⟨f, 0, m⟩] false

/-- The MMAs of a batch with the rows they take. -/
def membersOf (fs : List Flight) : List Member :=
  fs.foldl (fun (l : List Member) f =>
    let x := f.desc 0
    let y := f.desc 2
    let n := min x.mExt (if y.sparse = 0 then y.mExt else y.extent 0)
    let r0 := match l.getLast? with | some m => m.row0 + m.rows | none => 0
    l ++ [⟨f, r0, n⟩]) []

/-- The rows of the array copies that MMAs of a batch take. -/
def rowsOf (fs : List Flight) : Nat := match (membersOf fs).getLast? with | some m => m.row0 + m.rows | none => 0

/-- What a closed batch does: the head runs the arrays with the rows of all its MMAs; the others are then done with it. -/
def batchBody (i : SiteId) (f : Flight) : Prog Unit :=
  .get (fun s => when (f.batch == some f.seq)
    (runArrays i (wOpcode f.word == 0x11) (membersOf (s.sites[i].flights.filter (fun g => g.batch == f.batch))) true))

/-- The MMAs of a batch that has acted are done with their head: they complete in the same cycle (04 R122). -/
def batchDone (i : SiteId) (h : Flight) : Prog Unit :=
  when (h.batch.isSome && h.phase == .done) (modSite i (fun x => { x with
    flights := x.flights.map (fun f => if f.batch = h.batch ∧ f.phase = .queued then { f with phase := .done } else f) }))

/-- A flight of a site replaced. -/
def putFlight (i : SiteId) (f g : Flight) : Prog Unit :=
  modSite i (fun x => { x with flights := x.flights.map (fun h => if h = f then g else h) })

/-- The open batch closes, and its arrays run once earlier array instructions have acted (04 R121, R122). A batch that closes because
FILL_TIMEOUT is 0 counts as one closed short, which is the model's choice (log 145). -/
def closeBatch (i : SiteId) (timeout : Bool) : Prog Unit :=
  letI := Prog.monad
  do
  let s ← ask id
  match s.sites[i].rows.head? with
  | none => skip
  | some h => do
    if timeout then incF F.CORE_ARRAY_EVENTS.BATCH_TIMEOUT i 0 1
    else when (decide (rowsOf s.sites[i].rows < 32 * (arraysOf h.word).length)) (incF F.CORE_ARRAY_EVENTS.BATCH_SHORT i 0 1)
    let h' := { h with batch := some h.seq }
    modSite i (fun x => { x with rows := [], flights := x.flights ++ x.rows.map (fun f => { f with batch := some h.seq }) })
    when (s.sites[i].unitIdle .arrays && !s.xferWait i h') do
      each s.sites[i].rows (started i)
      let g ← launch i h' [] (batchBody i h') 0
      putFlight i h' g
      batchDone i g

/-- Whether an MMA may enter the row queue (04 R121): BATCH, ZERO and OUT, and rows to spare. -/
def batchable (f : Flight) (m : Nat) : Bool :=
  wb f.word 119 && wb f.word 118 && wEnd f.word == 2 && decide (m < 32 * (arraysOf f.word).length)

/-- Whether a queued MMA matches the head of the batch. -/
def batchMatches (h f : Flight) : Bool :=
  let t := wOpcode h.word == 0x11
  wOpcode h.word == wOpcode f.word && wSB h.word == wSB f.word && nbaseOf h == nbaseOf f &&
    redRange h.word (h.desc 1) t == redRange f.word (f.desc 1) t && wArrays h.word == wArrays f.word

/-- An MMA that enters the row queue: it joins the batch of the head, or closes it and heads the next; a full batch, one of
eight MMAs, or a FILL_TIMEOUT of 0 closes at once (04 R121). -/
def enqueueRow (i : SiteId) (f : Flight) (m : Nat) : Prog Unit :=
  letI := Prog.monad
  do
  let s ← ask id
  let room := 32 * (arraysOf f.word).length
  match s.sites[i].rows.head? with
  | some h => when (!(batchMatches h f) || decide (room < rowsOf s.sites[i].rows + m)) (closeBatch i false)
  | none => skip
  modSite i (fun x => { x with rows := x.rows ++ [f] })
  let s1 ← ask id
  when (rowsOf s1.sites[i].rows == room || s1.sites[i].rows.length == 8 || s1.field F.CORE_ARRAY_CONFIG.FILL_TIMEOUT i 0 == 0)
    (closeBatch i false)

/-- An instruction that reaches the arrays and does not join the batch closes it (04 R121). -/
def enterArrays (i : SiteId) (w : IWord) (body : SiteId → Flight → Prog Unit) (pc : Nat) : Prog Unit :=
  (closeBatch i false).bind (fun _ => enterUnit i w .arrays 0 body pc)

/-- An MMA or MMA.T joins the row queue, or heads it, if it may be batched and nothing of it stops it (04 R121). -/
def State.joinsBatch (s : State) (t : Bool) (i : SiteId) (w : IWord) : Bool :=
  let f := s.flightOf i .arrays w (s.reg .CORE_SEQ_PC i 0)
  let x := f.desc 0
  let y := f.desc 2
  let wd := f.desc 1
  x.ok && wd.ok && y.ok && x.sparse == 0 && (groupOf x.fmt! wd.fmt!).isSome && !(wd.listed && wd.order != b2n t) &&
    !(t && y.sparse != 0) && !x.empty && !wd.empty && !y.empty &&
    batchable f (min x.mExt (if y.sparse = 0 then y.mExt else y.extent 0))

/-- An MMA or MMA.T issues: alone, or into the row queue (04 R121). -/
def issueMma (t : Bool) (i : SiteId) (w : IWord) : Prog Unit :=
  letI := Prog.monad
  do
  let s ← ask id
  if s.joinsBatch t i w then
    attempt i w skip
      (fun s => if s.accHeld i .arrays w then some plainWait else none)
      (fun pc => do
        let s1 ← ask id
        let f := s1.flightOf i .arrays w pc
        let y := f.desc 2
        let _ ← checkMma i t f
        enqueueRow i f (min (f.desc 0).mExt (if y.sparse = 0 then y.mExt else y.extent 0)))
  else attempt i w skip (fun s => s.held i .arrays w) (enterArrays i w (mmaBody t))

def mmaProg (i : SiteId) (w : IWord) : Prog Unit := issueMma false i w
def mmaTProg (i : SiteId) (w : IWord) : Prog Unit := issueMma true i w

/-- PARK: each selected array parks the named tile if it is active (04 R116). In LONG the index is read for the kind of the tile that is
active, since PARK has no kind of its own (log 164). -/
def parkBody (i : SiteId) (f : Flight) : Prog Unit :=
  letI := Prog.monad
  do
  each (arraysOf f.word) (fun a => do
    let x ← getArr i a
    match x.act with
    | some c => when (c.tile == tileOf c.mode c.int (wTile f.word)) (parkActive i a (reqOf i f .seq 4))
    | none => skip)
  showArrays i

/-- UNPARK: in WIDE the named tile is loaded into the transfer registers, unless it is active (04 R116). -/
def unparkBody (i : SiteId) (f : Flight) : Prog Unit :=
  letI := Prog.monad
  do
  let lng ← ask (fun s => s.flag F.CORE_ARRAY_CONFIG.ACC_MODE i 0)
  when (!lng) (each (arraysOf f.word) (fun a => do
    let x ← getArr i a
    let t := wideTile (wTile f.word)
    let active := match x.act with | some c => c.tile == t | none => false
    when (!active) do
      let els ← readTile i a (reqOf i f .seq 4) t 4
      let nx : Xfer := { busy := true, dir := false, held := false, tile := t, cells := els.map (Option.map (BitVec.ofNat 32)) }
      modArr i a (fun y => { y with xfer := nx })))
  showArrays i

/-- PARK and UNPARK issue. -/
def issueTile (i : SiteId) (w : IWord) (body : SiteId → Flight → Prog Unit) : Prog Unit :=
  attempt i w skip (fun s => s.held i .arrays w) (enterArrays i w body)

def execMma (i : SiteId) (w : IWord) (s : State) : Host.Outcome State Fault Refusal := Prog.next (mmaProg i w) s
def execMmaT (i : SiteId) (w : IWord) (s : State) : Host.Outcome State Fault Refusal := Prog.next (mmaTProg i w) s
def execPark (i : SiteId) (w : IWord) (s : State) : Host.Outcome State Fault Refusal :=
  Prog.next (issueTile i w parkBody) s
def execUnpark (i : SiteId) (w : IWord) (s : State) : Host.Outcome State Fault Refusal :=
  Prog.next (issueTile i w unparkBody) s

/-- FILL_TIMEOUT core cycles have passed since the head entered the row queue (04 R121). -/
def execBatchFillTimeout (i : SiteId) (s : State) : Host.Outcome State Fault Refusal :=
  Prog.next (closeBatch i true) s

end Sys2Proof.Machine
end

