-- ==== Sys2Proof/Machine/Lacewing.lean ====
section
/-!
DEFINITION. Lacewing: LUTMV, QUANT, REQUANT, and Scout's PREDICT and APPLY (spec/06_vector_path_and_scout.md R175 to R193; 02 R72
to R75).
-/
namespace Sys2Proof.Machine
open Prog hiding pure bind get op run monad

/-- A format that may stand as a vector-path element (02 R47, V). -/
def Fmt.vector (f : Fmt) : Bool :=
  match f with
  | .fp32 | .bf16 | .fp16 | .e4m3 | .e5m2 | .int8 | .int32 | .uint8 => true
  | _ => false

/-- A floating vector-path format. -/
def Fmt.floating (f : Fmt) : Bool :=
  match f with
  | .fp32 | .bf16 | .fp16 | .e4m3 | .e5m2 => true
  | _ => false

/-- Extents beyond what an instruction takes: SHAPE_CLAMPED set and the instruction counted (04 R99), once. -/
def clampShape (i : SiteId) (already : Bool) : Prog Unit :=
  letI := Prog.monad
  when (!already) do
    incF F.CORE_SHAPE_EVENTS.CLAMP_COUNT i 0 1
    setF F.CORE_SHAPE_EVENTS.SHAPE_CLAMPED i 0 1

/-! LUTMV. -/

/-- The operand pairs of LUTMV (06 R178): whether the accumulator is an integer. -/
def lutPair (w x : Fmt) : Option Bool :=
  match w, x with
  | .hb4, .e4m3 | .hb4, .e5m2 | .hb4, .bf16 | .hb4, .fp16 => some false
  | .int4, .int8 | .int4, .uint8 => some true
  | _, _ => none

/-- A format that may stand as X of LUTMV with some W (06 R178). -/
def lutX (x : Fmt) : Bool := (lutPair .hb4 x).isSome || (lutPair .int4 x).isSome

/-- LUTMV (06 R177 to R180): output tiles of up to 512 columns, for each of which X and, with ACC, Y are read once; the writes leave in
ascending linear index (08 R226). -/
def lutmvBody (i : SiteId) (f : Flight) : Prog Unit :=
  letI := Prog.monad
  do
  let w := f.word
  let xd := f.desc 0
  let wd := f.desc 1
  let yd := f.desc 2
  let pair := lutPair wd.fmt! xd.fmt!
  let int := pair == some true
  let acc := wb w 119
  if !xd.ok || xd.sparse != 0 || !lutX xd.fmt! then formatError i f (wSA w)
  else if !wd.ok || pair.isNone || (wd.listed && wd.order != 0) then formatError i f (wSB w)
  else if !yd.ok || yd.sparse != 0 || !yd.fmt!.vector || (acc && yd.fmt! != (if int then .int32 else .fp32)) then
    formatError i f (wSC w)
  else do
    let go ← checkShapes i [xd, wd, yd]
    when go do
      let m := min xd.mExt yd.mExt
      when (decide (8 < m)) (clampShape i ([xd, wd, yd].any Desc.clamped))
      let m := min m 8
      let rq := reqOf i f .lacewing 6
      let first := 32 * nbaseOf f
      let nlen := wf w 111 104
      let last := if nlen = 0 then wd.extent 1 else first + 32 * nlen
      let (lo, hi) := redRange w wd false
      let seed ← getR .TOP_SR_SEED
      let rows := List.range m
      let parts ← collect (List.range (ceilDiv (last - first) 512)) (fun t => do
        let from_ := first + 512 * t
        let stop := min last (from_ + 512)
        let ws ← collect (List.range (ceilDiv (stop - from_) 32)) (fun q => loadWeights wd xd.fmt! rq false true (from_ + 32 * q) lo hi)
        let ks := ((ws.map (fun gs => (gs.map (fun g => [g.1, g.1 + 1, g.1 + 2, g.1 + 3])).flatten)).flatten).eraseDups
        let xm ← fetch rq (rows.map (fun r =>
          ((ks.filter (fun k => decide (k < xd.extent 0))).map (fun k => xd.bytesAt (xd.number (xd.mIdx k r)))).flatten)).flatten
        let x (r k : Nat) : FVal :=
          if k < xd.extent 0 then xd.valueIn xm (xd.number (xd.mIdx k r)) else xd.fmt!.take xd.fillVal
        let pos := (rows.map (fun r => (List.range (stop - from_)).map (fun j => (r, j)))).flatten.filter
          (fun p => yd.inside (yd.mIdx (from_ + p.2) p.1))
        let ym ← if acc then fetch rq (pos.map (fun p => yd.bytesAt (yd.number (yd.mIdx (from_ + p.2) p.1)))).flatten else pure []
        pure (pos.map (fun (p : Nat × Nat) =>
          let no := yd.number (yd.mIdx (from_ + p.2) p.1)
          let start := if acc then (yd.bitsIn ym no).getD (if int then 0 else 0x7FC00000) else 0
          let c := runCell (if int then .i8 else .f8) (!int) (BitVec.ofNat 32 start)
            ((nth ws (p.2 / 32) []).map (fun (g : Nat × List (List WEntry)) => (nth g.2 (p.2 % 32) [], fun o => x p.1 (g.1 + o))))
          (no, yd.lindex (yd.mIdx (from_ + p.2) p.1), c.toNat))))
      let src : Fmt := if int then .int32 else .fp32
      let els := parts.flatten.mergeSort (fun a b => decide (a.2.1 ≤ b.2.1))
      if yd.fmt! = src then
        writeOut i f rq {} (els.foldl (fun ps e => yd.put e.1 e.2.2 false ps) [])
      else do
        let (codes, scales, ev) := yd.encode seed f.step (wRnd w) (els.map (fun e => (e.1, e.2.1, src.decode e.2.2)))
        qntEvents i ev
        writeOut i f rq {} (yd.patches codes scales [])

def lutmvProg (i : SiteId) (w : IWord) : Prog Unit := issueUnit i w .lacewing 0 lutmvBody
def execLutmv (i : SiteId) (w : IWord) (s : State) : Host.Outcome State Fault Refusal := Prog.next (lutmvProg i w) s

/-! QUANT and REQUANT. -/

/-- The destination formats of QUANT and REQUANT (06 R182). -/
def quantDst (f : Fmt) : Bool := f == .int8 || f == .uint8 || f == .int4

/-- The channel of an index tuple: the index along CHDIM, or 0 for the whole tensor. -/
def channelAt (d : Desc) (chdim : Nat) (ix : List Nat) : Nat := if chdim < d.rank then nth ix chdim 0 else 0

/-- Channels of a tensor, within its caps (05 R147). -/
def channels (d : Desc) (chdim : Nat) : Nat := if chdim < d.rank then nth d.cap chdim 1 else 1

/-- The scale and zero point of each channel, computed from the source (02 R72, R73): none for a non-finite one. A scale that
rounds to zero leaves quotients that the spec does not state: the zero point is then a free value (log 1). -/
def chanScales (asym : Bool) (qmin qmax : Int) (chans : List (List FVal)) : Prog (List (Option (FVal × Int)) × QEv) :=
  letI := Prog.monad
  do
  let r ← collect chans (fun xs => do
    if xs.any (fun x => !x.isFinite) then pure (none, ({ nonfinite := 1 } : QEv))
    else do
      let (sc, z, deg) := quantScale asym qmin qmax (xs.map FVal.toRat)
      if asym && sc.isZero then do
        let v ← fresh 32
        pure (some (sc, sext 32 v), {})
      else pure (some (sc, z), { degenerate := b2n deg }))
  pure (r.map (·.1), QEv.total (r.map (·.2)))

/-- One code of QUANT; a zero scale leaves it free and, which is the model's choice, counts nothing (logs 1, 92). -/
def quantEl (m : Rnd) (qmin qmax : Int) (width : Nat) (sc : FVal) (z : Int) (x : FVal) : Prog (Nat × QEv) :=
  letI := Prog.monad
  if sc.isZero then do
    let v ← fresh width
    pure (v, {})
  else
    let (q, ev) := quantCode m qmin qmax sc z x
    pure (wrap width q, ev)

/-- QUANT (06 R182, R183, 02 R72, R73): elements of SA within its caps, those beyond its run-time extents as FILL (05 R147, R149, log 149),
written to the same indices of SB. The source is read a second time to encode, unless SUPPLIED is set. A zero point beyond 32 bits is
stored modulo 2^32 (log 150). -/
def quantBody (i : SiteId) (f : Flight) : Prog Unit :=
  letI := Prog.monad
  do
  let w := f.word
  let a := f.desc 0
  let b := f.desc 1
  let c := f.desc 2
  let d := f.desc 3
  let chdim := wf w 117 116
  let supplied := wb w 118
  if !a.ok || a.sparse != 0 || !a.fmt!.floating then formatError i f (wSA w)
  else if !b.ok || b.sparse != 0 || !quantDst b.fmt! then formatError i f (wSB w)
  else if !c.ok || c.sparse != 0 || c.code != 0 then formatError i f (wSC w)
  else if !d.ok || d.sparse != 0 || d.code != 9 then formatError i f (wSD w)
  else do
    when (decide (a.rank ≤ chdim)) (fieldError i f (wSA w))
    let go ← checkShapes i [a, b, c, d]
    when go do
      let rq := reqOf i f .lacewing 6
      let seed ← getR .TOP_SR_SEED
      let idx := tuples a.capExts
      let source := ((tuples a.exts).map (fun ix => a.bytesAt (a.number ix))).flatten
      let m1 ← fetch rq source
      let m ← if supplied then pure m1 else fetch rq source
      let val (ix : List Nat) : FVal := if a.inside ix then a.valueIn m (a.number ix) else a.fillElem
      let first (ix : List Nat) : FVal := if a.inside ix then a.valueIn m1 (a.number ix) else a.fillElem
      let nch := channels a chdim
      let (lo, hi) := b.fmt!.range.getD (0, 0)
      let (scales, sev) ← if supplied then do
          let ks := (List.range nch).filter (fun k => c.inside [k])
          let ms ← fetch rq (ks.map (fun k => c.bytesAt (c.number [k]))).flatten
          let kz := (List.range nch).filter (fun k => d.inside [k])
          let mz ← fetch rq (kz.map (fun k => d.bytesAt (d.number [k]))).flatten
          -- a channel with a non-finite element takes code 0 throughout and counts once (02 R73)
          let bad (k : Nat) : Bool := idx.any (fun ix => channelAt a chdim ix == k && !(val ix).isFinite)
          pure ((List.range nch).map (fun k => if bad k then none else
            some (if c.inside [k] then c.valueIn ms (c.number [k]) else c.fillElem,
              if d.inside [k] then sext 32 ((d.bitsIn mz (d.number [k])).getD 0) else sext 32 d.fill)),
            ({ nonfinite := ((List.range nch).filter bad).length } : QEv))
        else chanScales (wb w 119) lo hi ((List.range nch).map (fun k =>
          (idx.filter (fun ix => channelAt a chdim ix == k)).map first))
      let els ← collect (idx.filter b.inside) (fun ix => do
        let r := Rnd.ofField (wRnd w) (srBits seed f.step b.tensor (b.lindex ix))
        match nth scales (channelAt a chdim ix) none with
        | some (sc, z) => do
          let (q, ev) ← quantEl r lo hi b.fmt!.width sc z (val ix)
          pure ((b.number ix, q), ev)
        | none => pure ((b.number ix, 0), ({} : QEv)))
      qntEvents i (QEv.total (sev :: els.map (·.2)))
      let ps := (els.map (·.1)).foldl (fun ps e => b.put e.1 e.2 false ps) []
      let ps := if supplied then ps else
        (List.range nch).foldl (fun ps k =>
          let (sc, z) := match nth scales k none with
            | some (sc, z) => (bits32 sc, wrap 32 z)
            | none => (0x7FC00000, 0)
          let ps := if c.inside [k] then c.put (c.number [k]) sc false ps else ps
          if d.inside [k] then d.put (d.number [k]) z false ps else ps) ps
      writeOut i f rq {} ps

def quantProg (i : SiteId) (w : IWord) : Prog Unit := issueUnit i w .lacewing 0 quantBody
def execQuant (i : SiteId) (w : IWord) (s : State) : Host.Outcome State Fault Refusal := Prog.next (quantProg i w) s

/-- REQUANT (06 R182, 02 R74), over SA's caps (05 R147, log 149). -/
def requantBody (i : SiteId) (f : Flight) : Prog Unit :=
  letI := Prog.monad
  do
  let w := f.word
  let a := f.desc 0
  let b := f.desc 1
  let base := f.baseOf 2
  let chdim := wf w 117 116
  if !a.ok || a.sparse != 0 || a.code != 9 then formatError i f (wSA w)
  else if !b.ok || b.sparse != 0 || !quantDst b.fmt! then formatError i f (wSB w)
  else if f.lostSlot 2 then formatError i f (wSC w)
  else do
    when (decide (a.rank ≤ chdim)) (fieldError i f (wSA w))
    let go ← checkShapes i [a, b]
    when go do
      let rq := reqOf i f .lacewing 6
      let idx := (tuples a.capExts).filter b.inside
      let m ← fetch rq ((idx.filter a.inside).map (fun ix => a.bytesAt (a.number ix))).flatten
      let rec0 (k : Nat) : Nat := (base + 16 * k) % 2 ^ 64
      let pm ← fetch rq ((List.range (channels a chdim)).map (fun k => span (rec0 k) 16)).flatten
      let (lo, hi) := b.fmt!.range.getD (0, 0)
      let els := idx.map (fun ix =>
        let r := rec0 (channelAt a chdim ix)
        let num (o n : Nat) : Nat := (pm.bytes ((r + o) % 2 ^ 64) n).getD 0
        let x := if a.inside ix then (a.bitsIn m (a.number ix)).getD 0 else a.fillBits
        let (y, ev) := requant (sext 32 x) (sext 32 (num 0 4)) (num 8 1 % 64) (sext 32 (num 4 4))
          (max (sext 16 (num 12 2)) lo) (min (sext 16 (num 14 2)) hi)
        ((b.number ix, wrap b.fmt!.width y), ev))
      qntEvents i (QEv.total (els.map (·.2)))
      writeOut i f rq {} ((els.map (·.1)).foldl (fun ps e => b.put e.1 e.2 false ps) [])

def requantProg (i : SiteId) (w : IWord) : Prog Unit := issueUnit i w .lacewing 0 requantBody
def execRequant (i : SiteId) (w : IWord) (s : State) : Host.Outcome State Fault Refusal := Prog.next (requantProg i w) s

/-! Scout (06 R185 to R192). -/

/-- The Scout record (06 R186). -/
structure ScoutRec where
  aPtr   : Nat
  bPtr   : Nat
  listIn : Nat
  listOut : Nat
  thresh : FVal
  margin : FVal
  checkN : Nat
  nCap   : Nat
  r      : Nat
  policy : Nat
deriving DecidableEq, Repr

/-- The record read; words of a failed granule read 0 (05 R161, 04 R105; DEDUCED, log 14). -/
def readScout (rq : Req) (base : Nat) : Prog ScoutRec :=
  letI := Prog.monad
  do
  let m ← fetch rq (span base 64)
  let w k := (m.bytes ((base + 8 * k) % 2 ^ 64) 8).getD 0
  pure { aPtr := w 0, bPtr := w 1, listIn := w 2, listOut := w 3, thresh := val32 (fld (w 4) 63 32), margin := val32 (fld (w 4) 31 0),
         checkN := fld (w 5) 63 48, nCap := fld (w 5) 39 16, r := if (w 5).testBit 4 then 32 else 16, policy := fld (w 5) 2 0 }

/-- One HB4 dot product in FP32 under the entry rules of 06 R179: 8-bit dense entries of two positions, blocks of 32. -/
def hbDot (xs codes : List FVal) (scales : List FVal) : FVal :=
  let entry (e : Nat) : WEntry :=
    { v0 := nth codes (2 * e) .zero, o0 := 0, v1 := nth codes (2 * e + 1) .zero, o1 := 1,
      scale := nth scales (2 * e / 32) .zero, close := false }
  let es := (List.range (xs.length / 2)).map (fun e => (e, entry e))
  let c := es.foldl (fun c e => HbCell.step (fun o => nth xs (2 * e.1 + o) .zero) c e.2) ⟨.zero, .zero, none, 0⟩
  c.closed.acc

/-- A 4-bit code in what was fetched. -/
def codeIn (m : GMap) (base e : Nat) : Nat :=
  match m.byte ((base + e / 2) % 2 ^ 64) with
  | some b => if e % 2 = 0 then b % 16 else b / 16
  | none => 0x10

/-- A code's level; a failed granule's element is NaN (04 R105). -/
def levelOf (c : Nat) : FVal := if 16 ≤ c then .nan else hb4Level c

/-- The scores of PREDICT, row by row (06 R188). -/
def scoutScores (rq : Req) (x : Desc) (rows : Nat) (rc : ScoutRec) : Prog (List (List FVal)) :=
  letI := Prog.monad
  do
  let k := x.extent 0
  let k32 := roundUp (nth x.cap 0 0) 32
  let aScl := roundUp (rc.aPtr + rc.r * k32 / 2) 32
  let bScl := roundUp (rc.bPtr + 16 * rc.nCap) 32
  let js := List.range rc.r
  let ks := List.range k
  let xm ← fetch rq (((List.range rows).map (fun m => (ks.map (fun q => x.bytesAt (x.number (x.mIdx q m)))).flatten)).flatten)
  let am ← fetch rq ((js.map (fun j => ks.map (fun q => (rc.aPtr + (j * k32 + q) / 2) % 2 ^ 64))).flatten)
  let asm ← fetch rq ((js.map (fun j => (List.range (ceilDiv k 32)).map (fun b => span (aScl + 2 * (j * k32 / 32 + b)) 2))).flatten.flatten)
  let ns := List.range rc.nCap
  let bm ← fetch rq ((ns.map (fun n => (List.range (rc.r / 2)).map (fun q => (rc.bPtr + 16 * n + q) % 2 ^ 64))).flatten)
  let bsm ← fetch rq ((ns.map (fun n => span (bScl + 2 * n) 2)).flatten)
  let k2 := roundUp k 2
  pure ((List.range rows).map (fun m =>
    let xs := (List.range k2).map (fun q => if q < k then x.valueIn xm (x.number (x.mIdx q m)) else .zero)
    let h := js.map (fun j =>
      let codes := (List.range k2).map (fun q => if q < k then levelOf (codeIn am rc.aPtr (j * k32 + q)) else .zero)
      let scales := (List.range (ceilDiv k 32)).map (fun b => FPar.bf16.decode (scaleIn asm ((aScl + 2 * (j * k32 / 32 + b)) % 2 ^ 64)))
      (FPar.bf16.round .rne (hbDot xs codes scales)).1)
    ns.map (fun n =>
      hbDot h (js.map (fun j => levelOf (codeIn bm rc.bPtr (32 * n + j))))
        [FPar.bf16.decode (scaleIn bsm ((bScl + 2 * n) % 2 ^ 64))])))

/-- `a ≥ b` by IEEE 754: false on NaN. -/
def FVal.ge (a b : FVal) : Bool := !a.isNan && !b.isNan && !(a.lt b)

/-- A block list as patches: pointers and raw entries (03 R88). -/
def listPatches (base n : Nat) (ptrs entries : List Nat) (ps : List Patch) : List Patch :=
  let ps := (List.range ptrs.length).foldl (fun ps k => Patch.addNum ((base + 4 * k) % 2 ^ 64) 4 (nth ptrs k 0) false ps) ps
  (List.range entries.length).foldl (fun ps k =>
    Patch.addNum (entryAt base n k) 8 (nth entries k 0) false ps) ps

/-- PASS with its tile register (06 R185). -/
def passOf (f : Flight) : Nat := (wf f.word 63 32 + f.idxReg (wf f.word 113 112)) % 2 ^ 32

/-- SCOUT PREDICT (06 R185 to R190). -/
def predictBody (i : SiteId) (f : Flight) : Prog Unit :=
  letI := Prog.monad
  do
  let w := f.word
  let x := f.desc 0
  if !x.ok || x.sparse != 0 || !x.fmt!.floating then formatError i f (wSA w)
  else if f.lostSlot 1 then formatError i f (wSB w)
  else if f.lostSlot 2 then formatError i f (wSC w)
  else do
    let go ← checkShapes i [x]
    when go do
      let rq := reqOf i f .lacewing 6
      when (decide (128 < x.mExt)) (clampShape i x.clamped)
      let rows := min x.mExt 128
      let rc ← readScout rq (nth (nth f.descs 1 []) 0 0).toNat
      let area := (nth (nth f.descs 2 []) 0 0).toNat
      let pass := passOf f
      let off := decide (rc.policy < 4)
      let fill := !off && rc.policy.testBit 1
      let check := !off && rc.policy.testBit 0 && rc.checkN != 0 && (f.step + pass) % 2 ^ 32 % rc.checkN == 0
      let header := toBytes 1 (b2n check + 2 * b2n off + 4 * b2n fill) ++ toBytes 1 rows ++ zeroBytes 2 ++ toBytes 4 f.step ++
        toBytes 4 pass ++ zeroBytes 20
      let scores ← if off then pure [] else scoutScores rq x rows rc
      let low := rn32 (rc.thresh.sub rc.margin)
      let bits := scores.map (fun r => r.map (fun v => v.ge rc.thresh || (fill && v.ge low)))
      let rb := 32 * ceilDiv rc.nCap 256
      let nb := ceilDiv rc.nCap 64
      let rowBytes (r : List Bool) : List Byte := (List.range rb).map (fun k =>
        BitVec.ofNat 8 (maskOf ((List.range 8).filter (fun q => nth r (8 * k + q) false))))
      let ps := Patch.addBytes area (header ++ (bits.map rowBytes).flatten) []
      let ptrs ← listPtrs rq rc.listIn (List.range (nb + 1))
      if off || check then do
        let es ← listEntries rq rc.listIn nb (List.range (nth ptrs nb 0))
        incF F.CORE_SCOUT_SKIP.LISTED i 0 nb
        writeOut i f rq {} (listPatches rc.listOut nb ptrs es ps)
      else do
        let kept := (List.range nb).map (fun c => bits.any (fun r => (List.range 64).any (fun q => nth r (64 * c + q) false)))
        let own := (List.range nb).map (fun c =>
          if nth kept c false then (List.range (nth ptrs (c + 1) 0 - nth ptrs c 0)).map (nth ptrs c 0 + ·) else [])
        let outp := (List.range (nb + 1)).map (fun c => ((own.take c).map List.length).sum)
        let es ← listEntries rq rc.listIn nb own.flatten
        incF F.CORE_SCOUT_SKIP.LISTED i 0 (kept.filter (·)).length
        incF F.CORE_SCOUT_SKIP.SKIPPED i 0 (kept.filter (!·)).length
        writeOut i f rq {} (listPatches rc.listOut nb outp es ps)

/-- Whether a value is at most 0; NaN is not. -/
def FVal.nonpos (v : FVal) : Bool := FVal.zero.ge v

/-- SCOUT APPLY (06 R192). -/
def applyBody (i : SiteId) (f : Flight) : Prog Unit :=
  letI := Prog.monad
  do
  let w := f.word
  let y := f.desc 0
  if !y.ok || y.sparse != 0 || !y.fmt!.vector then formatError i f (wSA w)
  else if f.lostSlot 1 then formatError i f (wSB w)
  else if f.lostSlot 2 then formatError i f (wSC w)
  else do
    let go ← checkShapes i [y]
    when go do
      let rq := reqOf i f .lacewing 6
      let rc ← readScout rq (nth (nth f.descs 1 []) 0 0).toNat
      let area := (nth (nth f.descs 2 []) 0 0).toNat
      let hm ← fetch rq (span area 32)
      let h0 := (hm.byte area).getD 0
      when (!h0.testBit 1) do
        let rows := min ((hm.byte (area + 1)).getD 0) y.mExt
        let cols := min rc.nCap (y.extent 0)
        let rb := 32 * ceilDiv rc.nCap 256
        let pos := ((List.range rows).map (fun m => (List.range cols).map (fun n => (m, n)))).flatten
        let at_ (p : Nat × Nat) : Nat := (area + 32 + p.1 * rb + p.2 / 8) % 2 ^ 64
        let mm ← fetch rq (pos.map at_)
        let set (p : Nat × Nat) : Bool := ((mm.byte (at_ p)).getD 0).testBit (p.2 % 8)
        let no (p : Nat × Nat) : Int := y.number (y.mIdx p.2 p.1)
        when (h0.testBit 0) do
          let ym ← fetch rq (pos.map (fun p => y.bytesAt (no p))).flatten
          let np (p : Nat × Nat) : Bool := (y.valueIn ym (no p)).nonpos
          let miss := (pos.filter (fun p => !set p && !np p)).length
          let falseA := (pos.filter (fun p => set p && np p)).length
          incF F.CORE_SCOUT_EVENTS.MISSES i 0 miss
          incF F.CORE_SCOUT_EVENTS.FALSE_ALARMS i 0 falseA
          incF F.CORE_SCOUT_EVENTS.CHECK_PASSES i 0 1
          traceEvent 4 0 i.val 4 (wLayer w) (wOper w) (place 63 44 (min miss 0xFFFFF) + place 43 24 (min falseA 0xFFFFF))
            ((hm.bytes ((area + 8) % 2 ^ 64) 4).getD 0)
        writeOut i f rq {} ((pos.filter (fun p => !set p)).foldl (fun ps p => y.put (no p) 0 false ps) [])

/-- SCOUT with a reserved OP records a FIELD error and does nothing (06 R185). -/
def scoutBody (apply : Bool) (i : SiteId) (f : Flight) : Prog Unit :=
  if 2 ≤ wf f.word 119 118 then fieldError i f
  else if apply then applyBody i f else predictBody i f

def predictProg (i : SiteId) (w : IWord) : Prog Unit := issueUnit i w .lacewing 0 (scoutBody false)
def execScoutPredict (i : SiteId) (w : IWord) (s : State) : Host.Outcome State Fault Refusal := Prog.next (predictProg i w) s
def applyProg (i : SiteId) (w : IWord) : Prog Unit := issueUnit i w .lacewing 0 (scoutBody true)
def execScoutApply (i : SiteId) (w : IWord) (s : State) : Host.Outcome State Fault Refusal := Prog.next (applyProg i w) s

end Sys2Proof.Machine
end

