-- ==== Sys2Proof/Machine/Mower.lean ====
section
/-!
DEFINITION. The Mower: MOW, SOW, COMPRESS, BLKT, and MMA.PROBE (spec/07_mask_engine.md R196 to R215).
-/
namespace Sys2Proof.Machine
open Prog hiding pure bind get op run monad

/-- The block columns of the range (07 R200). -/
def MowRec.lines (r : MowRec) (nbN : Nat) : List Nat :=
  let stop := if r.bnCount = 0 then nbN else min nbN (r.bnFirst + r.bnCount)
  (List.range nbN).filter (fun c => decide (r.bnFirst ≤ c) && decide (c < stop))

/-- The requester of a Mower instruction: the DMA owner's class at every bank (05 R157), from the cluster's stop (01 R19), for its core
(05 R139). -/
def mowReq (i : SiteId) (f : Flight) : Req := { reqOf i f .dma 7 with site := none, stop := some (siteStop i), owner := some i }

/-! Operands read at positions (07 R198). -/

/-- An operand as the Mower reads it: its listed blocks (first entries), its pattern ids and its values. -/
structure MView where
  d    : Desc
  idx  : List (Nat × Nat × Nat)
  pats : GMap
  vals : GMap
deriving DecidableEq, Repr

/-- The ordinal of block (bk, bn), if the operand stores it. -/
def MView.ord (v : MView) (bk bn : Nat) : Option Nat :=
  if v.d.listed then (v.idx.find? (fun e => e.1 == bk && e.2.1 == bn)).map (·.2.2)
  else if v.d.sparse = 0 then some 0
  else if bk < v.d.nbK && bn < v.d.nbN then some (bn * v.d.nbK + bk) else none

/-- The pattern of micro-block (kg, mc) of a stored block of the 2:4 forms; a listed block beyond the operand has pattern 0 (03 R91). -/
def MView.mask (v : MView) (bk bn kg mc : Nat) : Option Nat :=
  (v.ord bk bn).map (fun o =>
    if v.d.listed && decide (v.d.extent 0 ≤ 64 * bk) then patternMask 0 else v.d.patMask v.pats o kg mc)

/-- Whether position (k, n) stands in a stored block of the 2:4 forms whose pattern does not hold it: it reads as zero (03 R84). -/
def MView.gap (v : MView) (k n : Nat) : Bool :=
  v.d.two4 && (match v.mask (k / 64) (n / 64) (k % 64 / 4) (n % 64 / 4) with
    | some m => (patSlot m (k % 4) (n % 4)).isNone
    | none => false)

/-- The element number of position (k, n), if the operand stores it. -/
def MView.no (v : MView) (k n : Nat) : Option Int :=
  match v.ord (k / 64) (n / 64) with
  | none => none
  | some o =>
    if v.d.sparse = 0 then some (v.d.number [k, n])
    else if v.d.two4 then
      (patSlot (v.d.patMask v.pats o (k % 64 / 4) (n % 64 / 4)) (k % 4) (n % 4)).map (fun t => v.d.storedNo o (k % 64) (n % 64) t)
    else some (v.d.storedNo o (k % 64) (n % 64) 0)

/-- Bits (where they stand for a value by themselves), value, and whether the granule failed, of position (k, n): FILL beyond the
extents, slot by slot (03 R87, 07 R198), none where the operand does not store it. -/
def MView.at (v : MView) (k n : Nat) : Option (Nat × FVal × Bool) :=
  if v.gap k n then none
  else if v.d.extent 0 ≤ k || v.d.extent 1 ≤ n then some (v.d.fillBits, v.d.fillElem, false)
  else (v.no k n).map (fun no =>
    match v.d.bitsIn v.vals no with
    | none => (0, v.d.fmt!.failed, true)
    | some b =>
      if v.d.fmt! = .hb4 then (b, hb4Decode b (scaleIn v.vals (v.d.scaleAt no)), false) else (b, v.d.fmt!.decode b, false))

/-- The listed blocks of the lines given, in list order, each with its entry index; a line beyond the grid has none. -/
def listedBlocks (d : Desc) (rq : Req) (lines : List Nat) : Prog (List (Nat × Nat × Nat × Nat)) :=
  letI := Prog.monad
  do
  let r ← collect (lines.filter (fun c => decide (c < d.nbOuter))) (fun c => do
    let (a, es) ← d.lineFrom rq c
    pure ((List.range es.length).map (fun k =>
      let e := nth es k ⟨0, 0⟩
      (e.coord, c, e.ordinal, a + k))))
  pure r.flatten

/-- How many entries of a list lie in block columns beyond the destination's grid, although within the operand's extents (07 R198). -/
def strayEntries (a b : Desc) (rq : Req) : Prog Nat :=
  letI := Prog.monad
  do
  let es ← listedBlocks a rq ((List.range a.nbOuter).filter (fun c => decide (b.nbN ≤ c) && decide (64 * c < a.extent 1)))
  pure (es.filter (fun e => decide (64 * e.1 < a.extent 0))).length

/-- The first entry of each block of a list. -/
def firstEntries (l : List (Nat × Nat × Nat × Nat)) : List (Nat × Nat × Nat) :=
  l.foldl (fun acc e => if acc.any (fun x => x.1 == e.1 && x.2.1 == e.2.1) then acc else acc ++ [(e.1, e.2.1, e.2.2.1)]) []

/-- The positions of a block, in the order of columns. -/
def blockPositions (bk bn : Nat) : List (Nat × Nat) :=
  ((List.range 64).map (fun n => (List.range 64).map (fun k => (64 * bk + k, 64 * bn + n)))).flatten

/-- An operand opened at the blocks given: its patterns, values and scales read. -/
def openView (d : Desc) (rq : Req) (idx : List (Nat × Nat × Nat)) (blocks : List (Nat × Nat)) : Prog MView :=
  letI := Prog.monad
  do
  let v0 : MView := ⟨d, idx, [], []⟩
  let pats ← if d.two4 then
      fetch rq ((blocks.map (fun b => match v0.ord b.1 b.2 with
        | some o => (List.range 256).map (fun q => (d.pat + patOffset o (q % 16) (q / 16)) % 2 ^ 64)
        | none => [])).flatten)
    else pure []
  let v1 : MView := { v0 with pats := pats }
  let need (p : Nat × Nat) : List Nat :=
    if d.extent 0 ≤ p.1 || d.extent 1 ≤ p.2 then []
    else match v1.no p.1 p.2 with
      | some no => d.bytesAt no ++ (if d.fmt! = .hb4 then span (d.scaleAt no) 2 else [])
      | none => []
  let vals ← fetch rq ((blocks.map (fun b => ((blockPositions b.1 b.2).map need).flatten)).flatten)
  pure { v1 with vals := vals }

/-! Magnitudes, patterns, norms (07 R201 to R204). -/

/-- The magnitude of a value, exactly: 0 for NaN or an infinity. -/
def magOf (v : FVal) : FVal := if v.isFinite then v.abs else .zero

/-- The magnitudes of micro-block (kg, mc) of block (bk, bn), as `m (4 i + j)`, and whether it holds a non-finite element. A position that
the operand does not store has magnitude 0, also one beyond its extents in a block that its list does not name (07 R201). -/
def microMags (v : MView) (bk bn kg mc : Nat) : List FVal × Bool :=
  let xs := (List.range 16).map (fun q =>
    if v.d.listed && (v.ord bk bn).isNone then none else v.at (64 * bk + 4 * kg + q / 4) (64 * bn + 4 * mc + q % 4))
  (xs.map (fun x => match x with | some (_, y, _) => magOf y | none => .zero),
   xs.any (fun x => match x with | some (_, y, _) => !y.isFinite | none => false))

/-- The exact sum of the magnitudes that a mask keeps. -/
def maskSum (mags : List FVal) (mask : Nat) : FVal := FVal.sum ((onesOf 16 mask).map (fun q => nth mags q .zero))

/-- The pattern of greatest sum, the lowest id among equals; the current one, if given, wins its ties (07 R202, R213). A sum that is no
number, which a GAIN that is none or infinite makes, ranks below every number (log 167). -/
def choosePattern (mags : List FVal) (cur : Option Nat) : Nat × FVal :=
  let sum (id : Nat) : FVal := maskSum mags (patternMask id)
  let r := (List.range 90).foldl (fun (b : Nat × FVal) id =>
    let s := sum id
    if b.2.lt s || b.2.isNan && !s.isNan then (id, s) else b) (0, sum 0)
  match cur with
  | some c => if !((sum c).lt r.2) && (!(sum c).isNan || r.2.isNan) then (c, r.2) else r
  | none => r

/-- The norm of a block from its micro-block scores in the order of 07 R204. -/
def normOf (scores : List FVal) : FVal := scores.foldl (fun n s => add32 n (rn32 s)) .zero

/-- What the Mower decides for a block of the destination: its ordinal, a pattern id per micro-block (index 16 mc + kg), and the
value of a held position (none: +0). -/
structure OutBlock where
  bk   : Nat
  bn   : Nat
  ord  : Nat
  ids  : List Nat
  /-- padding, or every held position takes INIT -/
  kind : Nat
  /-- the block is copied as it stands, HB4 codes and scales included (07 R213) -/
  raw  : Bool := false
deriving DecidableEq, Repr

/-- The held positions of a block of the destination within its extents, with their element numbers. -/
def heldPositions (d : Desc) (b : OutBlock) : List (Nat × Nat × Int) :=
  ((blockPositions b.bk b.bn).filter (fun p => decide (p.1 < d.extent 0) && decide (p.2 < d.extent 1))).filterMap (fun p =>
    if d.two4 then
      (patSlot (patternMask (nth b.ids (16 * (p.2 % 64 / 4) + p.1 % 64 / 4) 0)) (p.1 % 4) (p.2 % 4)).map (fun t =>
        (p.1, p.2, d.storedNo b.ord (p.1 % 64) (p.2 % 64) t))
    else some (p.1, p.2, d.storedNo b.ord (p.1 % 64) (p.2 % 64) 0))

/-- The scales of HB4 blocks that are copied as they stand: those of the scale blocks in which a position is written. One that the view
did not open, since all its positions lie beyond the extents of the operand, is read here (07 R213). -/
def rawScales (rq : Req) (b : Desc) (va : MView) (blocks : List OutBlock) (ps : List Patch) : Prog (List Patch) :=
  letI := Prog.monad
  if b.fmt! = .hb4 && va.d.fmt! == .hb4 then do
    let at_ := ((blocks.filter (·.raw)).map (fun ob => (heldPositions b ob).filterMap (fun p =>
      (va.no p.1 p.2.1).map (fun no => (b.scaleAt p.2.2, va.d.scaleAt no,
        decide (va.d.extent 0 ≤ p.1) || decide (va.d.extent 1 ≤ p.2.1)))))).flatten
    let seen := ((at_.filter (fun x => !x.2.2)).map (·.2.1)).eraseDups
    let more := ((at_.map (·.2.1)).eraseDups).filter (fun a => !seen.contains a)
    let m ← fetch rq ((more.map (fun a => span a 2)).flatten)
    pure (((at_.map (fun x => (x.1, x.2.1))).eraseDups).foldl (fun ps x =>
      Patch.addNum x.1 2 (scaleIn (if more.contains x.2 then m else va.vals) x.2) false ps) ps)
  else pure ps

/-- Pattern ids as patches, bit 7 zero (07 R207). -/
def patPatches (d : Desc) (b : OutBlock) (ps : List Patch) : List Patch :=
  if d.two4 then (List.range 256).foldl (fun ps q =>
      Patch.addNum ((d.pat + patOffset b.ord (q % 16) (q / 16)) % 2 ^ 64) 1 (nth b.ids q 0) false ps) ps
  else ps

/-- A block list's lines as patches: pointers of the lines and after the last, entries with their indices (07 R206). -/
def linePatches (d : Desc) (ptrs : List (Nat × Nat)) (ents : List (Nat × Nat × Nat)) (ps : List Patch) : List Patch :=
  let ps := ptrs.foldl (fun ps p => Patch.addNum ((d.blk + 4 * p.1) % 2 ^ 64) 4 p.2 false ps) ps
  ents.foldl (fun ps e =>
    Patch.addNum ((d.blk + entryArrayOffset d.nbOuter + 8 * e.1) % 2 ^ 64) 8 (place 63 32 e.2.2 + place 23 0 e.2.1) false ps) ps

/-! Companions (07 R208). -/

/-- Whether a companion pair fits the destination. -/
def companionFits (b : Desc) (c : Desc × Desc) : Bool :=
  c.1.ok && c.1.rank == 2 && c.2.ok && c.2.sparse == b.sparse && c.2.cap == b.cap

/-! The shared output of MOW, SOW GROW and COMPRESS. -/

/-- Values of the destination blocks and of the companions written: `src` gives a held position's element of the operand,
`heldBefore` whether the output held it before, `init` what new positions take. -/
def writeBlocks (i : SiteId) (f : Flight) (rq : Req) (b : Desc) (va : MView) (blocks : List OutBlock) (init : FVal)
    (src : OutBlock → Nat → Nat → Option (Option Nat × FVal × Bool)) (comps : List (Desc × Desc))
    (idxOf : Desc → Prog (List (Nat × Nat × Nat))) (lists : List Patch) : Prog Unit :=
  letI := Prog.monad
  do
  let seed ← getR .TOP_SR_SEED
  let els := (blocks.map (fun ob => (heldPositions b ob).map (fun p =>
    let (bits, val, bad) := (src ob p.1 p.2.1).getD (none, if ob.kind = 2 then init else .zero, false)
    ({ no := p.2.2, idx := b.lindex [p.1, p.2.1], bits := bits, val := val, bad := bad } : OutEl)))).flatten
  let (ps, ev) := elPatches b seed f.step (widenRnd va.d b (wRnd f.word)) els lists
  let ps ← rawScales rq b va blocks ps
  let ps := blocks.foldl (fun ps ob => patPatches b ob ps) ps
  let grid := blocks.map (fun ob => (ob.bk, ob.bn))
  let cps ← collect comps (fun c => do
    let idx ← idxOf c.1
    let v ← openView c.1 rq idx grid
    let same := c.1.code == c.2.code && c.1.fmt! != .hb4
    let cels := (blocks.map (fun ob => (heldPositions c.2 ob).map (fun p =>
      let old := (va.at p.1 p.2.1).isSome && ob.kind == 0 && (src ob p.1 p.2.1).isSome
      let (bits, val, bad) : Option Nat × FVal × Bool :=
        if old then (match v.at p.1 p.2.1 with
          | some (bb, x, bd) => (if same then some bb else none, x, bd && same)
          | none => (none, .zero, false))
        else (none, .zero, false)
      ({ no := p.2.2, idx := c.2.lindex [p.1, p.2.1], bits := bits, val := val, bad := bad } : OutEl)))).flatten
    let (q, cev) := elPatches c.2 seed f.step (widenRnd c.1 c.2 (wRnd f.word)) cels []
    pure (blocks.foldl (fun ps ob => patPatches c.2 ob ps) q, cev))
  qntEvents i (QEv.total (ev :: cps.map (·.2)))
  writeOut i f rq {} ps
  each cps (fun q => writeOut i f rq {} q.1)

/-- An operand element as the destination takes it: bits where the formats are equal, its value else. A failed element of equal format
enters as NaN or 0 and is converted as such, so that NaN counts once in NONFINITE, as does an INIT that is NaN or infinite (log 106). -/
def takeEl (a b : Desc) (v : MView) (k n : Nat) : Option (Option Nat × FVal × Bool) :=
  (v.at k n).map (fun x =>
    (if a.code == b.code && a.fmt! != .hb4 && !x.2.2 then some x.1 else none, x.2.1, false))

/-- A Mower instruction did its work without error: its WEPOCH, which MOW_STATUS shows once it completes (07 R221). -/
def mowEnded (i : SiteId) (f : Flight) (e : Nat) : Prog Unit := modSite i (fun x => { x with mowed := x.mowed ++ [(f.seq, e)] })

/-- The checks of the record that every Mower instruction makes (07 R199, R200). -/
def recordOk (r : MowRec) (epoch nbN : Nat) (scopeUsed compUsed : Bool) : Bool :=
  decide (epoch < r.wepoch) && decide (r.bnFirst < nbN) && (!scopeUsed || decide (r.scope < 2)) &&
    (!compUsed || decide (r.compCount ≤ 4))

/-- A score list in descending order, the lower grid index first among equals. -/
def byScore (nbK : Nat) (l : List (Nat × Nat × FVal)) : List (Nat × Nat × FVal) :=
  l.mergeSort (fun a b => b.2.2.lt a.2.2 || (!(a.2.2.lt b.2.2) && decide (a.2.1 * nbK + a.1 ≤ b.2.1 * nbK + b.1)))

/-! MOW. -/

/-- The first entries of a companion's own list, which may stand by block columns or by block rows. -/
def companionIdx (rq : Req) (lines : List Nat) (c : Desc) : Prog (List (Nat × Nat × Nat)) :=
  letI := Prog.monad
  if c.listed && c.order == 1 then do
    let l ← listedBlocks c rq (List.range c.nbK)
    pure ((firstEntries l).map (fun e => (e.2.1, e.1, e.2.2)))
  else if c.listed then do
    let l ← listedBlocks c rq lines
    pure (firstEntries l)
  else pure []

/-- MOW (07 R198 to R208). -/
def mowBody (i : SiteId) (f : Flight) : Prog Unit :=
  letI := Prog.monad
  do
  let w := f.word
  let a := f.desc 0
  let b := f.desc 1
  if !a.ok || a.rank != 2 || (a.listed && a.order != 0) then formatError i f (wSA w)
  else if !b.ok || b.sparse == 0 || (b.listed && b.order != 0) then formatError i f (wSB w)
  else if f.lostSlot 2 then formatError i f (wSC w)
  else do
    let go ← checkShapes i [a, b]
    when go do
      let rq := mowReq i f
      let r ← readMow rq (nth (nth f.descs 2 []) 0 0).toNat
      if !recordOk r f.epoch b.nbN b.listed true then fieldError i f (wSC f.word)
      else do
        let comps ← readCompanions rq r
        if !comps.all (companionFits b) then formatError i f (wSC w)
        else do
          let lines := r.lines b.nbN
          let c : ClusterId := clusterOf i
          let ents ← if a.listed then listedBlocks a rq lines else pure []
          let idx := firstEntries ents
          let good := idx.filter (fun e => decide (e.1 < b.nbK) && decide (64 * e.1 < a.extent 0))
          let stray ← if a.listed then strayEntries a b rq else pure 0
          incF F.MOW_EVENTS.LIST_DROP c 0 (ents.length - good.length + stray)
          let grid := (lines.map (fun bn => (List.range b.nbK).map (fun bk => (bk, bn)))).flatten
          let cands := if a.listed then good.map (fun e => (e.1, e.2.1)) else grid
          let v ← openView a rq idx (if b.sparse = 1 then grid else cands)
          -- decisions of a block
          let decide1 (bk bn : Nat) : List Nat × FVal × Nat :=
            let ms := (List.range 256).map (fun q => microMags v bk bn (q % 16) (q / 16))
            let ch := ms.map (fun m => if b.two4 then choosePattern m.1 none else (0, FVal.sum m.1))
            (ch.map (·.1), normOf (ch.map (·.2)), (ms.filter (·.2)).length)
          let decs := cands.map (fun p => (p.1, p.2, decide1 p.1 p.2))
          incF F.MOW_EVENTS.NONFINITE c 0 ((decs.map (fun d => d.2.2.2.2)).sum)
          let normAt (p : Nat × Nat) : FVal :=
            match decs.find? (fun d => d.1 == p.1 && d.2.1 == p.2) with
            | some d => d.2.2.2.1
            | none => .zero
          let idsAt (bk bn : Nat) : List Nat :=
            match decs.find? (fun d => d.1 == bk && d.2.1 == bn) with
            | some d => d.2.2.1
            | none => (decide1 bk bn).1
          let ranked := byScore b.nbK (cands.map (fun p => (p.1, p.2, normAt p)))
          let el := min r.budget b.nbK
          -- the lines of the output: block row, and whether it is padding
          let perLine (bn : Nat) : List (Nat × Bool) :=
            if b.sparse = 1 then (List.range b.nbK).map (fun bk => (bk, false))
            else if r.scope = 0 then
              let kept := (ranked.take r.budget).filter (fun x => x.2.1 == bn)
              ((List.range b.nbK).filter (fun bk => kept.any (fun x => x.1 == bk))).map (fun bk => (bk, false))
            else
              let kept := ((ranked.filter (fun x => x.2.1 == bn)).take el).map (·.1)
              let pad := ((List.range b.nbK).filter (fun bk => !(kept.contains bk))).take (el - kept.length)
              ((List.range b.nbK).filter (fun bk => kept.contains bk || pad.contains bk)).map (fun bk => (bk, pad.contains bk))
          let counts := lines.map (fun bn => (perLine bn).length)
          let baseOf (q : Nat) : Nat :=
            if b.listed && r.scope == 0 then r.entryBase + (counts.take q).sum else (r.bnFirst + q) * el
          let blocks := ((List.range lines.length).map (fun q =>
            let bn := nth lines q 0
            let ls := perLine bn
            (List.range ls.length).map (fun k =>
              let (bk, pad) := nth ls k (0, false)
              ({ bk := bk, bn := bn, ord := if b.sparse = 1 then bn * b.nbK + bk else baseOf q + k,
                 ids := if pad then List.replicate 256 0 else idsAt bk bn, kind := b2n pad } : OutBlock)))).flatten
          incF F.MOW_EVENTS.PAD c 0 (blocks.filter (fun ob => ob.kind == 1)).length
          let ptrs := if b.listed then (List.range (lines.length + 1)).map (fun q => (r.bnFirst + q, baseOf q)) else []
          let eps := if b.listed then blocks.map (fun ob => (ob.ord, ob.bk, ob.ord)) else []
          let norms := if r.norm = 0 then [] else
            grid.foldl (fun ps p => Patch.addNum ((r.norm + 4 * (p.2 * b.nbK + p.1)) % 2 ^ 64) 4 (bits32 (normAt p)) false ps) []
          writeBlocks i f rq b v blocks .zero
            (fun ob k n => if ob.kind = 1 then none else takeEl a b v k n) comps (companionIdx rq lines) (linePatches b ptrs eps [])
          writeOut i f rq {} norms
          mowEnded i f r.wepoch

/-- A Mower instruction issues. -/
def issueMower (i : SiteId) (w : IWord) (body : SiteId → Flight → Prog Unit) : Prog Unit := issueUnit i w .mower 0 body

def mowProg (i : SiteId) (w : IWord) : Prog Unit := issueMower i w mowBody
def execMow (i : SiteId) (w : IWord) (s : State) : Host.Outcome State Fault Refusal := Prog.next (mowProg i w) s

/-! SOW. -/

/-- The checks of SOW's descriptors (07 R198); CAND ignores SB. -/
def sowFormats (i : SiteId) (f : Flight) (cand : Bool) : Prog Bool :=
  letI := Prog.monad
  do
  let a := f.desc 0
  let b := f.desc 1
  if !a.ok || !a.listed || a.order != 0 then do
    formatError i f (wSA f.word)
    pure false
  else if !cand && (!b.ok || b.sparse != a.sparse || b.order != 0) then do
    formatError i f (wSB f.word)
    pure false
  else if f.lostSlot 2 then do
    formatError i f (wSC f.word)
    pure false
  else pure true

/-- A Hive counter set by the Mower: VALUE 0 and a LIMIT (05 R152, 07 R210). -/
def hiveSet (h limit : Nat) : Prog Unit :=
  let (c, k) := hiveHome (Fin.ofNat 256 h)
  setR .HIVE_COUNTER c k (place 63 32 limit)

/-- SOW CAND (07 R209, R210). -/
def candBody (i : SiteId) (f : Flight) : Prog Unit :=
  letI := Prog.monad
  do
  let a := f.desc 0
  let ok ← sowFormats i f true
  when ok do
    let go ← checkShapes i [a]
    when go do
      let rq := mowReq i f
      let r ← readMow rq (nth (nth f.descs 2 []) 0 0).toNat
      if !recordOk r f.epoch a.nbN false false then fieldError i f (wSC f.word)
      else do
        let lines := r.lines a.nbN
        let ents ← listedBlocks a rq lines
        let all := if wb f.word 117 then ents.map (fun e => (e.1, e.2.1))
          else (lines.map (fun bn => (List.range a.nbK).map (fun bk => (bk, bn)))).flatten
        let start := if all.isEmpty then 0 else r.candStart % all.length
        let round := all.drop start ++ all.take start
        let took := (if wb f.word 117 then round
          else round.filter (fun p => !(ents.any (fun e => e.1 == p.1 && e.2.1 == p.2)))).take r.probeCap
        let head := toBytes 4 took.length ++ toBytes 4 r.wepoch ++ zeroBytes 24
        let body := (took.map (fun p => toBytes 8 (place 55 32 p.2 + place 23 0 p.1))).flatten
        writeOut i f rq {} (Patch.addBytes r.probe (head ++ body) [])
        hiveSet r.hive (2 * took.length % 2 ^ 32)
        mowEnded i f r.wepoch

/-- The probe entries of an area, (bk, bn) with their index. -/
def readProbes (rq : Req) (r : MowRec) : Prog (List (Nat × Nat × Nat)) :=
  letI := Prog.monad
  do
  let n ← readNum rq r.probe 4
  let m ← fetch rq ((List.range (n.getD 0)).map (fun e => span ((r.probe + 32 + 8 * e) % 2 ^ 64) 8)).flatten
  pure ((List.range (n.getD 0)).map (fun e =>
    let v := (m.bytes ((r.probe + 32 + 8 * e) % 2 ^ 64) 8).getD 0
    (fld v 23 0, fld v 55 32, e)))

/-- The gradient values of probe entries. -/
def readGrads (rq : Req) (r : MowRec) (es : List Nat) : Prog GMap :=
  fetch rq ((es.map (fun e => span ((r.probe + gradBase r + 16384 * e) % 2 ^ 64) 16384)).flatten)

/-- The gradient of entry e at local position (k, n). -/
def gradAt (m : GMap) (r : MowRec) (e k n : Nat) : FVal :=
  match m.bytes ((r.probe + gradBase r + 16384 * e + 4 * (64 * n + k)) % 2 ^ 64) 4 with
  | some b => val32 b
  | none => .nan

/-- SOW GROW in block mode (07 R212). -/
def growBlockBody (i : SiteId) (f : Flight) : Prog Unit :=
  letI := Prog.monad
  do
  let w := f.word
  let a := f.desc 0
  let b := f.desc 1
  let ok ← sowFormats i f false
  when ok do
    let go ← checkShapes i [a, b]
    when go do
      let rq := mowReq i f
      let r ← readMow rq (nth (nth f.descs 2 []) 0 0).toNat
      if !recordOk r f.epoch b.nbN true true then fieldError i f (wSC f.word)
      else do
        let comps ← readCompanions rq r
        if !comps.all (companionFits b) then formatError i f (wSC w)
        else do
          let c : ClusterId := clusterOf i
          let lines := r.lines b.nbN
          let ents ← listedBlocks a rq lines
          let idx := firstEntries ents
          let stray ← strayEntries a b rq
          let outside := (ents.filter (fun e => decide (b.nbK ≤ e.1) && decide (64 * e.1 < a.extent 0))).length + stray
          let present := idx.filter (fun e => decide (e.1 < b.nbK))
          let probes ← readProbes rq r
          let fresh1 := probes.foldl (fun (acc : List (Nat × Nat × Nat)) p =>
            if acc.any (fun q => q.1 == p.1 && q.2.1 == p.2.1) then acc else acc ++ [p]) []
          let cands := fresh1.filter (fun p => lines.contains p.2.1 && decide (p.1 < b.nbK) &&
            !(idx.any (fun e => e.1 == p.1 && e.2.1 == p.2.1)))
          let gm ← readGrads rq r (cands.map (·.2.2))
          let vals (e : Nat) : List FVal := (List.range 4096).map (fun q => gradAt gm r e (q % 64) (q / 64))
          let scored := cands.map (fun p => (p.1, p.2.1, (vals p.2.2).foldl (fun s g => add32 s (magOf g)) FVal.zero))
          incF F.MOW_EVENTS.NONFINITE c 0 ((cands.map (fun p => ((vals p.2.2).filter (fun g => !g.isFinite)).length)).sum)
          let ranked := byScore b.nbK scored
          let el := min r.budget b.nbK
          -- per line: block row and kind (0 present, 2 revived, 3 padding)
          let perLine (bn : Nat) : List (Nat × Nat) × Nat × Nat :=
            let ps := (present.filter (fun e => e.2.1 == bn)).map (·.1)
            let sort (l : List (Nat × Nat)) : List (Nat × Nat) := l.mergeSort (fun x y => decide (x.1 ≤ y.1))
            if r.scope = 0 then
              let gs := ((ranked.take r.grow).filter (fun x => x.2.1 == bn)).map (·.1)
              (sort (ps.map (·, 0) ++ gs.map (·, 2)), 0, 0)
            else
              let kept := ps.take el
              let gs := ((ranked.filter (fun x => x.2.1 == bn)).map (·.1)).take (el - kept.length)
              let pad := ((List.range b.nbK).filter (fun bk => !(kept.contains bk) && !(gs.contains bk))).take
                (el - kept.length - gs.length)
              (sort (kept.map (·, 0) ++ gs.map (·, 2) ++ pad.map (·, 3)), pad.length, ps.length - kept.length)
          let plan := lines.map perLine
          incF F.MOW_EVENTS.PAD c 0 ((plan.map (·.2.1)).sum)
          incF F.MOW_EVENTS.LIST_DROP c 0 ((plan.map (·.2.2)).sum + outside)
          let counts := plan.map (fun p => p.1.length)
          let baseOf (q : Nat) : Nat := if r.scope = 0 then r.entryBase + (counts.take q).sum else (r.bnFirst + q) * el
          let grid := ((List.range lines.length).map (fun q =>
            ((nth plan q ([], 0, 0)).1.filter (fun x => x.2 == 0)).map (fun x => (x.1, nth lines q 0)))).flatten
          let v ← openView a rq idx grid
          let idsOf (bk bn kind : Nat) : List Nat :=
            (List.range 256).map (fun q =>
              if kind = 0 then (match v.mask bk bn (q % 16) (q / 16) with | some m => patternId m | none => 0)
              else if kind = 3 then 0
              else match cands.find? (fun p => p.1 == bk && p.2.1 == bn) with
                | some p => (choosePattern ((List.range 16).map (fun z =>
                    magOf (gradAt gm r p.2.2 (4 * (q % 16) + z / 4) (4 * (q / 16) + z % 4)))) none).1
                | none => 0)
          let blocks := ((List.range lines.length).map (fun q =>
            let ls := (nth plan q ([], 0, 0)).1
            (List.range ls.length).map (fun k =>
              let (bk, kind) := nth ls k (0, 0)
              ({ bk := bk, bn := nth lines q 0, ord := baseOf q + k,
                 ids := if b.two4 then idsOf bk (nth lines q 0) kind else [], kind := if kind = 0 then 0 else 2 } : OutBlock)))).flatten
          let ptrs := (List.range (lines.length + 1)).map (fun q => (r.bnFirst + q, baseOf q))
          writeBlocks i f rq b v blocks r.init (fun ob k n => if ob.kind = 0 then takeEl a b v k n else none) comps
            (companionIdx rq lines) (linePatches b ptrs (blocks.map (fun ob => (ob.ord, ob.bk, ob.ord))) [])
          mowEnded i f r.wepoch

/-- SOW GROW in position mode (07 R213). -/
def growPositionBody (i : SiteId) (f : Flight) : Prog Unit :=
  letI := Prog.monad
  do
  let w := f.word
  let a := f.desc 0
  let b := f.desc 1
  let ok ← sowFormats i f false
  when ok do
    let go ← checkShapes i [a, b]
    when go do
      let rq := mowReq i f
      let r ← readMow rq (nth (nth f.descs 2 []) 0 0).toNat
      if !recordOk r f.epoch b.nbN false true then fieldError i f (wSC f.word)
      else do
        let comps ← readCompanions rq r
        if !comps.all (companionFits b) then formatError i f (wSC w)
        else do
          let c : ClusterId := clusterOf i
          let lines := r.lines b.nbN
          let ents ← listedBlocks a rq lines
          let idx := firstEntries ents
          let stray ← strayEntries a b rq
          incF F.MOW_EVENTS.LIST_DROP c 0
            ((ents.filter (fun e => decide (b.nbK ≤ e.1) && decide (64 * e.1 < a.extent 0))).length + stray)
          let probes ← readProbes rq r
          let probeOf (bk bn : Nat) : Option Nat := (probes.find? (fun p => p.1 == bk && p.2.1 == bn)).map (·.2.2)
          let inGrid := ents.filter (fun e => decide (e.1 < b.nbK))
          let gm ← readGrads rq r ((inGrid.filterMap (fun e => probeOf e.1 e.2.1)).eraseDups)
          let v ← openView a rq idx (inGrid.map (fun e => (e.1, e.2.1)))
          let micro (bk bn q : Nat) : Nat × Bool :=
            let kg := q % 16
            let mc := q / 16
            let cur := (v.mask bk bn kg mc).getD (patternMask 0)
            match probeOf bk bn with
            | none => (patternId cur, false)
            | some e =>
              let xs := (List.range 16).map (fun z =>
                let k := 4 * kg + z / 4
                let n := 4 * mc + z % 4
                if cur.testBit z then
                  let x := match v.at (64 * bk + k) (64 * bn + n) with | some (_, y, _) => y | none => .zero
                  (magOf x, !x.isFinite)
                else
                  let g := gradAt gm r e k n
                  (if g.isFinite then rn32 (r.gain.mul (magOf g)) else .zero, !g.isFinite))
              ((choosePattern (xs.map (·.1)) (some (patternId cur))).1, xs.any (·.2))
          let rows := inGrid.map (fun e => (e, if b.two4 then (List.range 256).map (micro e.1 e.2.1) else []))
          incF F.MOW_EVENTS.NONFINITE c 0 ((rows.map (fun x => (x.2.filter (·.2)).length)).sum)
          let blocks := rows.map (fun x =>
            ({ bk := x.1.1, bn := x.1.2.1, ord := x.1.2.2.2, ids := x.2.map (·.1), kind := 2,
               raw := (probeOf x.1.1 x.1.2.1).isNone && a.code == b.code } : OutBlock))
          -- a line beyond SA's grid begins and ends where its list ends
          let ats := r.bnFirst :: lines.map (· + 1)
          let vals ← listPtrs rq a.blk (ats.map (fun c => min c a.nbOuter))
          let ptrs := ats.zip vals
          let held (k n : Nat) : Bool := (v.at k n).isSome
          writeBlocks i f rq b v blocks r.init
            (fun ob k n => if ob.raw then (v.at k n).map (fun x => (some x.1, x.2.1, x.2.2))
              else if held k n then takeEl a b v k n else none) [] (companionIdx rq lines)
            (linePatches b ptrs (ents.map (fun e => (e.2.2.2, e.1, e.2.2.2))) [])
          -- companions follow the positions held before
          when (!comps.isEmpty) (each comps (fun p => do
            let seed ← getR .TOP_SR_SEED
            let ci ← companionIdx rq lines p.1
            let cv ← openView p.1 rq ci (blocks.map (fun ob => (ob.bk, ob.bn)))
            let same := p.1.code == p.2.code && p.1.fmt! != .hb4
            let els := (blocks.map (fun ob => (heldPositions p.2 ob).map (fun q =>
              let (bits, val, bad) : Option Nat × FVal × Bool :=
                if held q.1 q.2.1 then (match cv.at q.1 q.2.1 with
                  | some (bb, x, bd) => (if same then some bb else none, x, bd && same)
                  | none => (none, .zero, false))
                else (none, .zero, false)
              ({ no := q.2.2, idx := p.2.lindex [q.1, q.2.1], bits := bits, val := val, bad := bad } : OutEl)))).flatten
            let (ps, ev) := elPatches p.2 seed f.step (widenRnd p.1 p.2 (wRnd w)) els []
            qntEvents i ev
            writeOut i f rq {} (blocks.foldl (fun ps ob => patPatches p.2 ob ps) ps)))
          mowEnded i f r.wepoch

/-- SOW with a reserved OP records a FIELD error (07 R197). -/
def sowBody (body : SiteId → Flight → Prog Unit) (i : SiteId) (f : Flight) : Prog Unit :=
  if 2 ≤ wf f.word 119 118 then fieldError i f else body i f

def candProg (i : SiteId) (w : IWord) : Prog Unit := issueMower i w (sowBody candBody)
def execSowCand (i : SiteId) (w : IWord) (s : State) : Host.Outcome State Fault Refusal := Prog.next (candProg i w) s
def growBlockProg (i : SiteId) (w : IWord) : Prog Unit := issueMower i w (sowBody growBlockBody)
def execSowGrowBlock (i : SiteId) (w : IWord) (s : State) : Host.Outcome State Fault Refusal := Prog.next (growBlockProg i w) s
def growPositionProg (i : SiteId) (w : IWord) : Prog Unit := issueMower i w (sowBody growPositionBody)
def execSowGrowPosition (i : SiteId) (w : IWord) (s : State) : Host.Outcome State Fault Refusal :=
  Prog.next (growPositionProg i w) s

/-! COMPRESS. -/

/-- The pattern of a COMPRESS mask, and whether it did not conform (07 R214). -/
def conform (mask : Nat) : Nat × Bool :=
  match (List.range 90).find? (fun id => patternMask id == mask) with
  | some id => (id, false)
  | none =>
    (((List.range 90).foldl (fun (b : Nat × Int) id =>
      let s : Int := popcount 16 (patternMask id &&& mask)
      if b.2 < s then (id, s) else b) (0, -1)).1, true)

/-- COMPRESS (07 R214). -/
def compressBody (i : SiteId) (f : Flight) : Prog Unit :=
  letI := Prog.monad
  do
  let w := f.word
  let a := f.desc 0
  let b := f.desc 1
  if !a.ok || a.rank != 2 || a.sparse != 0 then formatError i f (wSA w)
  else if !b.ok || b.sparse == 0 || (b.listed && b.order != 0) then formatError i f (wSB w)
  else if f.lostSlot 2 then formatError i f (wSC w)
  else if f.lostSlot 3 then formatError i f (wSD w)
  else do
    let go ← checkShapes i [a, b]
    when go do
      let rq := mowReq i f
      let r ← readMow rq (nth (nth f.descs 2 []) 0 0).toNat
      if !recordOk r f.epoch b.nbN false false then fieldError i f (wSC f.word)
      else do
        let lines := r.lines b.nbN
        let kgs := ceilDiv (nth b.cap 0 0) 4
        let mcs := ceilDiv (nth b.cap 1 0) 4
        let bits := (nth (nth f.descs 3 []) 0 0).toNat
        let inside (kg mc : Nat) : Bool := decide (kg < kgs) && decide (mc < mcs)
        let at_ (kg mc : Nat) : Nat := (bits + 2 * (mc * kgs + kg)) % 2 ^ 64
        let grid := (lines.map (fun bn => (List.range b.nbK).map (fun bk => (bk, bn)))).flatten
        let m ← fetch rq ((grid.map (fun p => ((List.range 256).map (fun q =>
          let kg := 16 * p.1 + q % 16
          let mc := 16 * p.2 + q / 16
          if inside kg mc then span (at_ kg mc) 2 else [])).flatten)).flatten)
        let maskAt (kg mc : Nat) : Nat := if inside kg mc then (m.bytes (at_ kg mc) 2).getD 0 else 0
        let live (p : Nat × Nat) : Bool := b.sparse == 1 ||
          (List.range 256).any (fun q => maskAt (16 * p.1 + q % 16) (16 * p.2 + q / 16) != 0)
        let kept := grid.filter live
        let idsOf (p : Nat × Nat) : List (Nat × Bool) := (List.range 256).map (fun q =>
          let kg := 16 * p.1 + q % 16
          let mc := 16 * p.2 + q / 16
          if inside kg mc then conform (maskAt kg mc) else (0, false))
        let ids := kept.map (fun p => if b.two4 then idsOf p else [])
        incF F.MOW_EVENTS.CONFORM (clusterOf i) 0 ((ids.map (fun l => (l.filter (·.2)).length)).sum)
        let blocks := (List.range kept.length).map (fun k =>
          let p := nth kept k (0, 0)
          ({ bk := p.1, bn := p.2, ord := if b.sparse = 1 then p.2 * b.nbK + p.1 else r.entryBase + k,
             ids := (nth ids k []).map (·.1), kind := 0 } : OutBlock))
        let v ← openView a rq [] kept
        let ptrOf (q : Nat) : Nat := r.entryBase + (kept.filter (fun p => decide (p.2 < r.bnFirst + q))).length
        let ptrs := if b.listed then (List.range (lines.length + 1)).map (fun q => (r.bnFirst + q, ptrOf q)) else []
        let eps := if b.listed then blocks.map (fun ob => (ob.ord, ob.bk, ob.ord)) else []
        writeBlocks i f rq b v blocks .zero
          (fun _ k n => if (maskAt (k / 4) (n / 4)).testBit (4 * (k % 4) + n % 4) then takeEl a b v k n else none)
          [] (fun _ => pure []) (linePatches b ptrs eps [])
        mowEnded i f r.wepoch

def compressProg (i : SiteId) (w : IWord) : Prog Unit := issueMower i w compressBody
def execCompress (i : SiteId) (w : IWord) (s : State) : Host.Outcome State Fault Refusal := Prog.next (compressProg i w) s

/-! BLKT. -/

/-- BLKT (07 R215). -/
def blktBody (i : SiteId) (f : Flight) : Prog Unit :=
  letI := Prog.monad
  do
  let w := f.word
  let a := f.desc 0
  let b := f.desc 1
  if !a.ok || !a.listed || a.order != 0 then formatError i f (wSA w)
  else if !b.ok || !b.listed || b.order != 1 then formatError i f (wSB w)
  else if f.lostSlot 2 then formatError i f (wSC w)
  else do
    let go ← checkShapes i [a, b]
    when go do
      let rq := mowReq i f
      let r ← readMow rq (nth (nth f.descs 2 []) 0 0).toNat
      if !recordOk r f.epoch b.nbN false false then fieldError i f (wSC f.word)
      else do
        let ents ← listedBlocks a rq (List.range a.nbN)
        let good := ents.filter (fun e => decide (64 * e.1 < a.extent 0) && decide (e.1 < b.nbK) && decide (e.2.1 < b.nbN))
        incF F.MOW_EVENTS.LIST_DROP (clusterOf i) 0 (ents.length - good.length)
        let rowsOf := (List.range b.nbK).map (fun bk => good.filter (fun e => e.1 == bk))
        let ptrs := (List.range (b.nbK + 1)).map (fun q => (q, ((rowsOf.take q).map List.length).sum))
        let flat := rowsOf.flatten
        let eps := (List.range flat.length).map (fun k =>
          let e := nth flat k (0, 0, 0, 0)
          (k, e.2.1, e.2.2.1))
        writeOut i f rq {} (linePatches b ptrs eps [])
        mowEnded i f r.wepoch

def blktProg (i : SiteId) (w : IWord) : Prog Unit := issueMower i w blktBody
def execBlkt (i : SiteId) (w : IWord) (s : State) : Host.Outcome State Fault Refusal := Prog.next (blktProg i w) s

/-! MMA.PROBE. -/

/-- MMA.PROBE (07 R211): one half of a probe entry's gradient, by arrays 0 and 1. In LONG its park adds round under a key that the
spec does not give: the random bits are free, and the same whichever core takes the item. Its results that are no FP32 values are
converted with the instruction's RND under TENSOR 0 and their element number in the gradient, and the conversion counts for the site
as that of the other MMAs does; the spec gives neither (log 99). -/
def probeBody (i : SiteId) (f : Flight) : Prog Unit :=
  letI := Prog.monad
  do
  let w := f.word
  let xd := f.desc 0
  let wd := f.desc 1
  let item := (wf w 83 65 + f.idxReg (wf w 113 112)) % 2 ^ 19
  if !xd.ok || xd.sparse != 0 || !isX xd.fmt! then formatError i f (wSA w)
  else if !wd.ok || wd.sparse != 0 || (groupOf xd.fmt! wd.fmt!).isNone then formatError i f (wSB w)
  else if f.lostSlot 2 then formatError i f (wSC w)
  else do
    let go ← checkShapes i [xd, wd]
    when go do
      let rq := reqOf i f .seq 3
      let r ← readMow rq (nth (nth f.descs 2 []) 0 0).toNat
      let n ← readNum rq r.probe 4
      let e := item / 2
      when (decide (e < n.getD 0)) do
        let ev ← readNum rq ((r.probe + 32 + 8 * e) % 2 ^ 64) 8
        let bn := fld (ev.getD 0) 55 32
        let bk := fld (ev.getD 0) 23 0
        match groupOf xd.fmt! wd.fmt! with
        | none => skip
        | some g => do
        let first := 64 * bn + 32 * (item % 2)
        let (lo, hi) := redRange w wd false
        let s ← ask id
        let hit : Option WGroups := match s.sites[i].resident with
          | some q => if q.opcode = 0x12 && q.slot == wSB w && q.xfmt == xd.code && q.first == first && q.kfirst == lo &&
              q.klen == hi - lo then some q.groups else none
          | none => none
        let gs ← match hit with
          | some gs => do
            incF F.CORE_ARRAY_EVENTS.W_REUSE i 0 1
            pure gs
          | none => do
            let gs ← loadWeights wd xd.fmt! rq false false first lo hi
            let res : Option Resident := if gs.length ≤ 256 then some ⟨0x12, wSB w, xd.code, first, lo, hi - lo, gs⟩ else none
            modSite i (fun x => { x with resident := res })
            pure gs
        let ks := (gs.map (fun g => [g.1, g.1 + 1, g.1 + 2, g.1 + 3])).flatten
        let live (k r : Nat) : Bool := xd.inside (xd.mIdx k r) && decide (r < xd.mExt)
        let rows := (List.range 64).map (64 * bk + ·)
        let xm ← fetch (reqOf i f .seq 2) ((rows.map (fun q =>
          ((ks.filter (fun k => live k q)).map (fun k => xd.bytesAt (xd.number (xd.mIdx k q)))).flatten)).flatten)
        let x (q k : Nat) : FVal :=
          if live k q then xd.valueIn xm (xd.number (xd.mIdx k q)) else xd.fmt!.take xd.fillVal
        let int := g == .i8
        let long := s.flag F.CORE_ARRAY_CONFIG.ACC_MODE i 0 && !int
        let tile := tileOf (s.flag F.CORE_ARRAY_CONFIG.ACC_MODE i 0) int (wTile w)
        let seed ← getR .TOP_SR_SEED
        let outs ← collect [(0 : Fin 4), 1] (fun a => do
          let _ ← startTile i a (reqOf i f .seq 4) true int (wTile w)
          let cells := (List.range 1024).map (fun c =>
            runCell g (wd.fmt! == .hb4) 0 (gs.map (fun (h : Nat × List (List WEntry)) =>
              (nth h.2 (c % 32) [], fun o => x (64 * bk + 32 * a.val + c / 32) (h.1 + o)))))
          let els ← if long then do
              let vs := (List.range 1024).map (fun c =>
                FPar.fp24.encode (FPar.fp24.round (.sr (Config.probeBits seed f.step item (1024 * a.val + c) % 2 ^ 24))
                  (FVal.zero.add (val32 (nth cells c 0).toNat))).1)
              writeTile i a tile 3 vs
              modArr i a (fun y => { y with pass := y.pass.set tile 1, zeroed := y.zeroed.filter (· != tile) })
              pure vs
            else pure (cells.map (·.toNat))
          leave i a tile
          pure els)
        let src : Fmt := if int then .int32 else if long then .fp24 else .fp32
        let base := r.probe + gradBase r + 16384 * e
        let res := ((List.range 64).map (fun k => (List.range 32).map (fun j =>
          let el := nth (nth outs (k / 32) []) (32 * (k % 32) + j) 0
          let nl := 32 * (item % 2) + j
          let (b, ev) := if src = .fp32 then (el, ({} : QEv))
            else Fmt.convert .fp32 (Rnd.ofField (wRnd w) (srBits seed f.step 0 (64 * nl + k))) (src.decode el)
          ((base + 4 * (64 * nl + k)) % 2 ^ 64, b, ev)))).flatten
        qntEvents i (QEv.total (res.map (·.2.2)))
        writeOut i f rq {} (res.foldl (fun ps q => Patch.addNum q.1 4 q.2.1 false ps) [])
        showArrays i

def execMmaProbe (i : SiteId) (w : IWord) (s : State) : Host.Outcome State Fault Refusal :=
  Prog.next (issueTile i w probeBody) s

/-! The Mower's order (07 R196). -/

/-- What a Mower instruction does once it acts. -/
def mowerBody (i : SiteId) (f : Flight) : Prog Unit :=
  match wOpcode f.word with
  | 0x40 => mowBody i f
  | 0x41 => sowBody (fun i f => if wf f.word 119 118 = 0 then candBody i f
      else if wb f.word 117 then growPositionBody i f else growBlockBody i f) i f
  | 0x42 => compressBody i f
  | 0x43 => blktBody i f
  | _ => skip

/-- The first instruction of a cluster's Mower starts, if it still waits: what stood before it was discarded (07 R196, R221). -/
def kickMower (c : ClusterId) : Prog Unit :=
  .get (fun s => match s.mowerNext c with
    | none => skip
    | some (j, f) => when (f.phase == .queued && !s.hushed) ((started j f).bind (fun _ =>
        (launch j f [] (mowerBody j f) 0).bind (fun g => (putFlight j f g).bind (fun _ => showMower c)))))

end Sys2Proof.Machine
end

