-- ==== Sys2Proof/Machine/Halts.lean ====
section
/-!
DEFINITION. Ends of collectives and halts of cores: completion records (12 R340, R345), HALT_REQ and ABORT (05 R135, 18 R466),
and job errors, which may halt every core (18 R460).
-/
namespace Sys2Proof.Machine
open Prog hiding pure bind get op run monad

/-- The requester of the collective engine for a core: collective receives and its reads and writes are the DMA owner's (05 R157), and what
it writes to the host is the core's to flush (05 R139, 14 R392). -/
def collReq (i : SiteId) (w : IWord) : Req := { cls := .dma, unit := 0x0B, owner := some i, layer := wLayer w, oper := wOper w }

/-! The record (12 R341). -/

def CollRun.w (r : CollRun) (k : Nat) : Nat := (nth r.record k 0).toNat
def CollRun.statusPtr (r : CollRun) : Nat := r.w 3
def CollRun.hdrPtr (r : CollRun) : Nat := r.w 4
def CollRun.tagBase (r : CollRun) : Nat := fld (r.w 5) 63 48
def CollRun.wire (r : CollRun) : Nat := fld (r.w 5) 39 32
def CollRun.ord (r : CollRun) : Bool := (r.w 5).testBit 31
def CollRun.grad (r : CollRun) : Bool := (r.w 5).testBit 30
def CollRun.core (r : CollRun) : Nat := fld (r.w 5) 28 22
def CollRun.cc (r : CollRun) : Nat := fld (r.w 5) 21 18
def CollRun.ccA (r : CollRun) : Nat := fld (r.w 5) 17 14
def CollRun.tensor (r : CollRun) : Nat := fld (r.w 6) 63 40
def CollRun.elemBase (r : CollRun) : Nat := fld (r.w 6) 39 0
def CollRun.fpPtr (r : CollRun) : Nat := r.w 7
def CollRun.size (r : CollRun) : Nat := r.group.length

/-- The operation of a collective in execution. -/
def CollRun.op (r : CollRun) : Nat := wf r.flight.word 119 116

/-- The descriptor of a collective's slot: 0 SA, 1 SB, 2 SC, 3 SD. -/
def CollRun.desc (r : CollRun) (k : Nat) : Desc := Desc.parse (nth r.flight.descs k [])

/-- Whether this device owns a shard of a GRAD collective (12 R349). -/
def CollRun.ownsShard (r : CollRun) : Bool :=
  if r.op = 1 then (nth r.segs r.rank (0, 0, 0)).2.1 != 0 else r.segs.any (fun g => g.2.1 != 0)

/-! Gradient headers (12 R349). -/

/-- A status granule: lane 0, and whether it says that all contributions arrived sound. -/
def statusGranule (r : CollRun) (off : Nat) : Prog (Bool × Bool) :=
  letI := Prog.monad
  do
  let d ← readArray (collReq r.site r.flight.word) off 32
  pure (match d with
    | some b => (leAt b 0 4 != 0, leAt b 4 4 == r.size && leAt b 8 4 == 0)
    | none => (false, false))

/-- The header of a completed GRAD collective is deferred. -/
def deferHeader (r : CollRun) : Prog Unit :=
  letI := Prog.monad
  do
  when (r.op ≤ 1 && r.grad && r.ownsShard && r.hdrPtr != 0) do
    let st := fld r.statusPtr 40 0
    let live := (List.range r.size).filter (fun k => (nth r.segs k (0, 0, 0)).2.1 != 0)
    let where' := if r.op = 1 then [st + 32] else live.map (fun k => if k = r.rank then st + 32 else st + 32 * (2 + k))
    let gs ← collect where' (statusGranule r)
    let nf := gs.any (·.1)
    let complete := gs.all (·.2) && r.status == 0
    let count := if r.op = 1 then (nth r.segs r.rank (0, 0, 0)).2.1 else (r.segs.map (fun g => g.2.1)).sum
    let hdr := toBytes 4 r.flight.step ++ toBytes 1 (place 3 3 (b2n r.ord) + place 1 1 (b2n nf) + b2n complete) ++
      toBytes 1 (r.desc 2).code ++ zeroBytes 2 ++ toBytes 8 count ++ zeroBytes 16
    modColl (fun c => { c with nfs := c.nfs ++ [(BitVec.ofNat 64 r.hdrPtr, hdr, nf)] })

/-- The stream of the engine's packets: 2c + 1 of the issuing core (12 R336). -/
def State.collStream (s : State) (i : SiteId) : Nat := (2 * (s.coreOf i).getD 0 + 1) % 256

/-- What a core waits on while a COLL of it is in flight (12 R369): what its oldest collective waits on; its TAG_BASE where it waits
on nothing of the table (12 R374). -/
def State.collWait (s : State) (i : SiteId) : WaitOn :=
  match s.coll.runs.find? (fun r => r.site == i && !r.bg) with
  | some r => if r.wait.kind = 0 then ⟨0, false, 0, r.tagBase⟩ else r.wait
  | none => ⟨0, false, 0, 0⟩

/-- What FAB_COLL_STATUS shows of the collectives in execution (12 R373). -/
def showColl : Prog Unit :=
  letI := Prog.monad
  do
  let s ← ask id
  let n := (s.coll.runs.filter (fun r => !r.ended && !r.bg)).length
  setF F.FAB_COLL_STATUS.ACTIVE 0 0 (min 8 n)
  setF F.FAB_COLL_STATUS.BUSY 0 0 (b2n (n != 0))
  setF F.FAB_COLL_STATUS.PERMUTING 0 0 (b2n (s.coll.runs.any (fun r => r.op == 4)))

/-- The completion of a COLL: its record, its signal, its counts and its event (12 R340, R345, R373, 19 R483). -/
def collRecord (i : SiteId) (w : IWord) (step : Nat) (record : List Word) (status poison : Nat) : Prog Unit :=
  letI := Prog.monad
  do
  let s ← ask id
  let ptr := (nth record 3 0).toNat
  let w5 := (nth record 5 0).toNat
  let op := wf w 119 116
  let core := (s.coreOf i).getD 0
  when (ptr != 0) (storeBytes (collReq i w) (.core i .coll 0) 1 ((2 * core + 1) % 256) ptr
    (toBytes 4 step ++ toBytes 1 status ++ toBytes 1 op ++ zeroBytes 2 ++ toBytes 4 (s.field F.FAB_LAYOUT.EPOCH 0 0) ++
      toBytes 4 poison ++ toBytes 8 s.now ++ zeroBytes 8))
  when (w5.testBit 29) (signalCC (fld w5 28 22) (fld w5 21 18))
  incF F.FAB_COLL_EVENTS.COMPLETED 0 0 1
  when (status != 0) (incF F.FAB_COLL_EVENTS.ERRORS 0 0 1)
  setF F.FAB_COLL_STATUS.LAST_STATUS 0 0 status
  traceEvent 6 3 0 8 (wLayer w) (wOper w) (place 63 32 step + place 31 24 status + place 23 20 op + fld w5 63 48) poison

/-- The 64 bytes of a COLL's record as eight words (12 R341). -/
def readRecord (i : SiteId) (w : IWord) (d : DescWords) : Prog (List Word) :=
  letI := Prog.monad
  do
  let base := (nth d 0 0).toNat
  let m ← fetch (collReq i w) (span base 64)
  pure ((List.range 8).map (fun k => BitVec.ofNat 64 ((m.bytes ((base + 8 * k) % 2 ^ 64) 8).getD 0)))

/-- Deferred headers that no BARRIER writes after all wait for the next one (log 17). -/
def giveBack (nfs : List (Word × List Byte × Bool)) : Prog Unit := modColl (fun c => { c with nfs := nfs ++ c.nfs })

/-- The wait of a run of the engine on a tree key or on stage credit ends: its WAIT event with the tags of its COLL (12 R369, 19 R479,
R483); the cycles are free (log 5). -/
def runWaitOver (r : CollRun) : Prog Unit :=
  when (r.wait.kind == 1 || r.wait.kind == 4) ((fresh 64).bind (fun cyc =>
    traceEvent 3 3 0 8 (wLayer r.flight.word) (wOper r.flight.word) (2 * (waitWord r.wait % 2 ^ 63)) cyc))

/-- A collective in execution stopped (12 R336): it sends nothing further, not even what waits at its source, and its barrier key is
gone; what it has sent is not recalled. Its completion is marked ABORTED, and as a GRAD collective it still defers its header (12 R349). -/
def stopRun (r : CollRun) : Prog Unit :=
  letI := Prog.monad
  do
  runWaitOver r
  modFabric (fun x => { x with held := x.held.filter (fun h => h.req.origin != .coll r.id) })
  modColl (fun c => { c with
    runs := c.runs.filter (fun q => q.id != r.id)
    keys := c.keys.filter (fun k => r.bkey != some (k.tag, k.seq, k.round)) })
  giveBack r.nfs
  deferHeader { r with status := 2 }
  collRecord r.site r.flight.word r.flight.step r.record 2 r.poison

/-- A COLL discarded or stopped: its completion marked ABORTED (05 R135, 12 R336). -/
def collAborted (i : SiteId) (f : Flight) : Prog Unit :=
  letI := Prog.monad
  do
  let s ← ask id
  match s.coll.runs.find? (fun r => r.id == f.tag && !r.bg) with
  | some r => stopRun r
  | none =>
    match s.coll.queue.find? (fun e => e.id == f.tag) with
    | some e => do
      modColl (fun c => { c with queue := c.queue.filter (fun x => x.id != f.tag) })
      giveBack e.nfs
      let rec0 ← readRecord i f.word (nth f.descs 0 [])
      collRecord i f.word f.step rec0 2 0
    | none => skip

/-- The hint that a core has armed, and the copies of hints of it that run beside its order, are stopped too (12 R336, R371). -/
def stopHints (i : SiteId) : Prog Unit :=
  letI := Prog.monad
  do
  let s ← ask id
  modSite i (fun x => { x with hint := none })
  each (s.sites[i].hint.toList ++ s.coll.runs.filter (fun r => r.bg && r.site == i && r.op == 11)) stopRun

/-- Queued and in-flight instructions of a core discarded or aborted, each with its completion marked ABORTED; what was being
written holds whatever part was written (05 R135, 07 R196). -/
def abortWork (i : SiteId) : Prog Unit :=
  letI := Prog.monad
  do
  let s ← ask id
  let fs := s.sites[i].flights ++ s.sites[i].rows
  each fs (fun f => do
    tear f.touched
    when (f.unit == .coll) (collAborted i f)
    -- of an open row batch all but the head are members
    instrEvent i f true (f.member || (s.sites[i].rows.drop 1).contains f))
  stopHints i
  modNoc (fun n => { n with inserts := n.inserts.map (fun x => if x.site == i then { x with seq := 0 } else x) })
  modSite i (fun x => { x with flights := [], rows := [], mowed := [] })
  leaveMower i (fun _ => true)
  kickMower (clusterOf i)
  endWait i s.sites[i].waits
  showColl

/-- ABORT of a core (05 R135, 18 R466): the pc is left at the oldest instruction not completed. A core that is halted while instructions
issued before its halt are in flight loses these, and stays halted with its cause (log 154); so is the hint of any halted core stopped. -/
def abortCore (i : SiteId) : Prog Unit :=
  letI := Prog.monad
  do
  let s ← ask id
  let fs := s.sites[i].flights ++ s.sites[i].rows
  let live := s.field F.CORE_SEQ_STATUS.STATE i 0 != 0
  if live || !fs.isEmpty then do
    abortWork i
    match fs.find? (fun f => fs.all (fun g => decide (f.seq ≤ g.seq))) with
    | some f => setR .CORE_SEQ_PC i 0 f.pc.toNat
    | none => skip
    when live (haltCore i 3 0 0)
  else do
    stopHints i
    showColl

/-- HALT_REQ of a core (05 R135): issue stops, the open batch closes, and the core halts once nothing is in flight. -/
def haltRequest (i : SiteId) : Prog Unit :=
  letI := Prog.monad
  do
  let s ← ask id
  when (s.running i) do
    closeBatch i false
    endWait i s.sites[i].waits
    setF F.CORE_SEQ_STATUS.STATE i 0 2
    drainCheck i

/-- Sites whose core runs or drains. -/
def State.liveCores (s : State) : List SiteId :=
  (List.finRange 144).filter (fun i => s.field F.CORE_SEQ_STATUS.STATE i 0 != 0)

/-- A job error (18 R460): its record, JOB_ERR, the Hush trigger if armed, and the action of JOB_ACTION. -/
def jobError (detail : Nat) : Prog Unit :=
  letI := Prog.monad
  do
  faultRecord 7 detail {}
  setF F.TOP_FAULT_STATUS.JOB_ERR 0 0 1
  let s ← ask id
  when (s.flag F.TRC_HUSH_CTRL.ON_JOB_ERR 0 0) (hushTrigger 3)
  let act := s.field F.TOP_FAULT_CONFIG.JOB_ACTION 0 0
  if act = 1 then each s.liveCores haltRequest
  else if act = 2 then each s.liveCores abortCore
  else skip

/-- START of a halted core (05 R163): the instruction buffer is discarded; nothing while it runs or drains, or while its site is fenced or in reset. -/
def startCore (i : SiteId) : Prog Unit :=
  .get (fun s =>
    when (s.field F.CORE_SEQ_STATUS.STATE i 0 == 0 && !s.deaf i) ((modSite i (fun x => { x with buffer := [] })).bind (fun _ => setF F.CORE_SEQ_STATUS.STATE i 0 1)))

end Sys2Proof.Machine
end

