-- ==== Sys2Proof/Machine/Anthill.lean ====
section
/-!
DEFINITION. The Anthill: contributions folded into entries, records, and the drain of a context
(spec/08_layout_gather_anthill.md R236 to R243, R520).
-/
namespace Sys2Proof.Machine
open Prog hiding pure bind get op run monad

/-! Lanes (08 R227, R238). -/

/-- The format of a LANE code. -/
def laneFmt (lane : Nat) : Fmt := if lane = 0 then .fp32 else if lane = 1 then .bf16 else .int32

/-- Bytes of a lane. -/
def laneBytes (lane : Nat) : Nat := if lane = 1 then 2 else 4

/-- Lanes of a granule. -/
def laneCount (lane : Nat) : Nat := 32 / laneBytes lane

/-- The bits of a lane that holds a value: rounded once to nearest even, INT32 wrapping. -/
def laneBits (lane : Nat) (v : FVal) : Nat :=
  if lane = 2 ∨ lane = 3 then wrap 32 v.toRat.num else ((laneFmt lane).convert .rne v).1

/-- The values of a granule's lanes. -/
def laneVals (lane : Nat) (d : List Byte) : List FVal :=
  (List.range (laneCount lane)).map (fun j => (laneFmt lane).decode (leAt d (laneBytes lane * j) (laneBytes lane)))

/-- The fold of values into the lanes of a mask (08 R238). -/
def foldLanes (lane : Nat) (d : List Byte) (mask : Nat) (vs : List FVal) : List Byte :=
  let old := laneVals lane d
  ((List.range (laneCount lane)).map (fun j =>
    if mask.testBit j then toBytes (laneBytes lane) (laneBits lane ((nth old j .zero).add (nth vs j .zero)))
    else slice d (laneBytes lane * j) (laneBytes lane))).flatten

/-- A granule whose every lane is the canonical NaN, or 0 for INT32. -/
def nanLanes (lane : Nat) : List Byte :=
  (List.replicate (laneCount lane) (toBytes (laneBytes lane) (laneBits lane (laneFmt lane).failed))).flatten

/-- The element values of a contribution, exact. -/
def contribVals (p : Contribution) : List FVal :=
  (List.range 16).map (fun j =>
    let w := fld p.vals.toNat (32 * j + 31) (32 * j)
    if p.lane.val = 2 ∨ p.lane.val = 3 then .ofInt (sext 32 w) else val32 w)

/-! Records (08 R239). -/

/-- What a record holds. -/
structure AntRec where
  value : List Byte
  /-- how the code of the value granule differs from that of its data -/
  err   : Nat := 0
  ord   : Bool
  lane  : Nat
  lanes : Nat
  ctx   : Nat
  gran  : Nat
  order : Nat
  run   : Nat
  count : Nat
  index : Nat
  seq   : Nat
deriving DecidableEq, Repr

/-- The key of a contribution or record (08 R236). -/
def antKey (ctx gran : Nat) : Nat := place 43 36 ctx + place 35 0 gran

/-- The header granule of a record. -/
def AntRec.header (r : AntRec) : List Byte :=
  toBytes 8 (place 63 63 1 + place 62 62 (b2n r.ord) + place 61 60 r.lane + place 59 44 r.lanes + antKey r.ctx r.gran) ++
  toBytes 8 (place 63 40 r.order + place 39 0 r.run) ++ toBytes 8 (place 63 40 r.count + place 39 0 r.index) ++ toBytes 8 r.seq

/-- A header granule read back. -/
def AntRec.parse (value h : List Byte) : AntRec :=
  let w0 := leAt h 0 8
  let w1 := leAt h 8 8
  let w2 := leAt h 16 8
  { value := value, ord := w0.testBit 62, lane := fld w0 61 60, lanes := fld w0 59 44, ctx := fld w0 43 36, gran := fld w0 35 0,
    order := fld w1 63 40, run := fld w1 39 0, count := fld w2 63 40, index := fld w2 39 0, seq := leAt h 24 8 }

/-- The requester of an Anthill (05 R157, 18 R459, R521). -/
def antReq (c : ClusterId) : Req := { cls := .dma, unit := 8, ant := some c.val }

/-- A record lost (08 R239, R520): counted, SPILL_LOST and LOST_CTX set, a job error. -/
def spillLost (c : ClusterId) (ctx : Nat) : Prog Unit :=
  letI := Prog.monad
  do
  let s ← ask id
  when (!s.flag F.ANT_STATUS.SPILL_LOST c 0) (setF F.ANT_STATUS.LOST_CTX c 0 ctx)
  errorBit F.ANT_STATUS.SPILL_LOST c 0
  incF F.ANT_EVENTS.LOST c 0 1
  jobError 2

/-- The address of record k of a cluster's spill region. -/
def State.spillAt (s : State) (c : ClusterId) (k : Nat) : Nat := (64 * s.field F.ANT_SPILL_BASE.BASE c 0 + 64 * k) % 2 ^ 41

/-- A record written at FILL, or discarded where FILL has reached the limit (08 R239). -/
def writeRecord (c : ClusterId) (r : AntRec) : Prog Unit :=
  letI := Prog.monad
  do
  let s ← ask id
  let n := s.field F.ANT_STATUS.FILL c 0
  if s.field F.ANT_SPILL_LIMIT.LIMIT c 0 ≤ n then spillLost c r.ctx
  else do
    let rc : AntRec := { r with seq := s.clusters[c].seq }
    placeGran (s.spillAt c n) ⟨rc.value, rc.err⟩
    placeGran (s.spillAt c n + 32) (.valid rc.header)
    setF F.ANT_STATUS.FILL c 0 (n + 1)
    incF F.ANT_EVENTS.SPILLS c 0 1
    modCluster c (fun x => { x with seq := x.seq + 1 })

/-- The record that an entry makes when it is written: its value with its code. -/
def AntEntry.record (e : AntEntry) : AntRec :=
  { value := e.val.data, err := e.val.err, ord := e.ord, lane := e.lane, lanes := e.lanes, ctx := e.ctx, gran := e.granule, order := e.order,
    run := e.run, count := e.count, index := e.index, seq := 0 }

/-! Entries (08 R237, R238). -/

/-- The set of a key. -/
def antSet (ctx gran : Nat) : Nat :=
  let k := antKey ctx gran
  fld k 9 0 ^^^ fld k 19 10 ^^^ fld k 29 20 ^^^ fld k 39 30 ^^^ fld k 43 40

/-- The entry that a contribution matches: in ARRIVAL the oldest of its key, in ORDERED that of its key, order and run. -/
def antMatch (l : List AntEntry) (p : Contribution) : Option AntEntry :=
  let same := l.filter (fun e => e.ctx == p.ctx.val && e.granule == p.granule.toNat)
  if p.ord then same.find? (fun e => e.ord && e.order == p.order.toNat && e.run == p.run.toNat)
  else same.foldl (fun b e => match b with
    | none => some e
    | some x => if e.age < x.age then some e else some x) none

/-- A contribution folded into an entry; one that ARRIVAL meets becomes an ARRIVAL entry (08 R238, R241). -/
def AntEntry.take (e : AntEntry) (p : Contribution) (held : List Byte) : AntEntry :=
  { e with val := .valid (foldLanes e.lane held p.lanes.toNat (contribVals p)), lanes := e.lanes ||| p.lanes.toNat,
           count := min 0xFFFFFF (e.count + 1), ord := e.ord && p.ord, order := if p.ord then e.order else 0,
           run := if p.ord then e.run else 0, index := if p.ord then e.index else 0 }

/-- An entry at +0 for a contribution. -/
def AntEntry.fresh (p : Contribution) (age way : Nat) : AntEntry :=
  { ctx := p.ctx.val, granule := p.granule.toNat, lane := p.lane.val, lanes := 0, ord := p.ord,
    order := if p.ord then p.order.toNat else 0, run := if p.ord then p.run.toNat else 0,
    index := if p.ord then p.index.toNat else 0, count := 0, age := age, way := way, val := .valid (zeroBytes 32) }

/-- ANT_STATUS.BUSY shows whether entries are resident. -/
def showAnt (c : ClusterId) : Prog Unit :=
  .get (fun s => setF F.ANT_STATUS.BUSY c 0 (b2n (!s.clusters[c].ant.isEmpty)))

/-- The least enabled way of a set without an entry, and the oldest entry of the set. -/
def antWay (x : Cluster) (st : Nat) : Option Nat × Option AntEntry :=
  let es := x.ant.filter (fun e => antSet e.ctx e.granule == st)
  ((List.range 8).find? (fun w => !(x.antOff.contains w) && !(es.any (fun e => e.way == w))),
   es.foldl (fun b e => match b with
     | none => some e
     | some y => if e.age < y.age then some e else some y) none)

/-- The value that an entry holds as it is folded: corrected, or the canonical NaN in every lane, with its record, where its code is
uncorrectable or POISON (08 R238, 18 R521). -/
def heldValue (c : ClusterId) (e : AntEntry) : Prog (List Byte) :=
  letI := Prog.monad
  do
  let (o, d) := e.val.decode
  match o with
  | .uncorr | .poison => do
    faultRecord (if o = .poison then 2 else 1) 8 { Where.ofCluster c.val with struct := 4, address := 32 * e.granule }
    pure (nanLanes e.lane)
  | _ => pure d

/-- A contribution accepted by its Anthill (08 R237): folded into the entry it matches; else an entry is allocated, evicting the
oldest of a full set; an ORDERED one that goes on a run without an entry, or one that no way can take, is written as a record. -/
def antFold (p : Contribution) : Prog Unit :=
  letI := Prog.monad
  do
  let s ← ask id
  let hs := homeSlice (32 * p.granule.toNat)
  if h : hs < 18 then do
    let c : ClusterId := ⟨hs, h⟩
    let x := s.clusters[c]
    let alone : AntRec := ((AntEntry.fresh p 0 0).take p (zeroBytes 32)).record
    match antMatch x.ant p with
    | some e => do
      let d ← heldValue c e
      let e' := e.take p d
      modCluster c (fun y => { y with ant := y.ant.map (fun q => if q = e then e' else q) })
    | none =>
      if p.ord && !p.runStart then writeRecord c alone
      else do
        let (free, old) := antWay x (antSet p.ctx.val p.granule.toNat)
        match free, old with
        | some w, _ =>
          modCluster c (fun y => { y with ant := y.ant ++ [(AntEntry.fresh p y.age w).take p (zeroBytes 32)], age := y.age + 1 })
        | none, some e => do
          writeRecord c e.record
          modCluster c (fun y => { y with
            ant := y.ant.filter (fun q => q ≠ e) ++ [(AntEntry.fresh p y.age e.way).take p (zeroBytes 32)], age := y.age + 1 })
        | none, none => writeRecord c alone
    showAnt c
  else skip

/-- Whether a contribution on the mesh has not reached its Anthill: an earlier one of its core, home and plane is before it (01 R22), or
a lost seam channel holds it (01 R17). -/
def State.insertHeld (s : State) (x : NocInsert) : Bool :=
  let home (y : NocInsert) : Nat := homeSlice (32 * y.pkt.granule.toNat)
  let plane (y : NocInsert) : Nat := addressPlane (32 * y.pkt.granule.toNat)
  (s.noc.inserts.takeWhile (fun y => y != x)).any (fun y => y.site == x.site && home y == home x && plane y == plane x) ||
    s.seamCut (siteStop x.site) (clusterStop (home x)) (plane x)

/-- A contribution arrives at its Anthill, if it has reached it. -/
def antInsert (p : Contribution) : Prog Unit :=
  .get (fun s => match s.noc.inserts.find? (fun x => x.pkt == p) with
    | none => antFold p
    | some x => when (!s.insertHeld x) ((modNoc (fun n => { n with inserts := n.inserts.erase x })).bind (fun _ => antFold p)))

def execAnthillInsert (p : Contribution) (s : State) : Host.Outcome State Fault Refusal := Prog.next (antInsert p) s

/-! The drain (08 R240 to R242, R520). -/

/-- The live records of a cluster as a drain reads them: those whose header is bad are discarded. -/
def readRecords (c : ClusterId) (ctx : Nat) : Prog (List (Nat × AntRec)) :=
  letI := Prog.monad
  do
  let s ← ask id
  let live := (List.range (s.field F.ANT_STATUS.FILL c 0)).filter (fun k => !(s.clusters[c].dead.contains k))
  let rs ← collect live (fun k => do
    let a := s.spillAt c k
    let gv ← readRaw (antReq c) a
    let v ← consume { antReq c with record := some a } a gv
    let gh ← readRaw (antReq c) (a + 32)
    let h ← consume { antReq c with record := some a } (a + 32) gh
    let ok := match h with
      | some b => (leAt b 0 8).testBit 63 && fld (leAt b 0 8) 61 60 != 3
      | none => false
    if ok then do
      let b := h.getD []
      let r := AntRec.parse [] b
      pure (some (k, { r with value := v.getD (nanLanes r.lane) }))
    else do
      spillLost c ctx
      modCluster c (fun y => { y with dead := y.dead ++ [k] })
      pure none)
  pure (rs.filterMap id)

/-- Records in the order of a run: ascending order, run and index. -/
def recBefore (a b : AntRec) : Bool :=
  decide (a.order < b.order) || (a.order == b.order && (decide (a.run < b.run) || (a.run == b.run && decide (a.index ≤ b.index))))

/-- What the records of one key make of a destination granule (08 R240): runs of ORDERED records first, each folded from +0,
then ARRIVAL records by SEQ and the resident entry last. -/
def drainKey (d : List Byte) (rs : List AntRec) : List Byte :=
  let o := (rs.filter (·.ord)).mergeSort recBefore
  let runs := (o.map (fun r => (r.order, r.run))).eraseDups
  let d1 := runs.foldl (fun d q =>
    let l := o.filter (fun r => r.order == q.1 && r.run == q.2)
    let lane := match l.head? with | some r => r.lane | none => 0
    let acc := l.foldl (fun a r => foldLanes r.lane a r.lanes (laneVals r.lane r.value)) (zeroBytes 32)
    foldLanes lane d (l.foldl (fun m r => m ||| r.lanes) 0) (laneVals lane acc)) d
  let arr := (rs.filter (fun r => !r.ord)).mergeSort (fun a b => decide (a.seq ≤ b.seq))
  arr.foldl (fun d r => foldLanes r.lane d r.lanes (laneVals r.lane r.value)) d1

/-- One destination of a drain read, folded and written. -/
def drainOne (c : ClusterId) (gran : Nat) (rs : List AntRec) : Prog Unit :=
  letI := Prog.monad
  do
  let a := 32 * gran
  let g ← readRaw (antReq c) a
  let v ← consume (antReq c) a g
  let lane := match rs.head? with | some r => r.lane | none => 0
  let d := drainKey (v.getD (nanLanes lane)) rs
  let cells := d.map (fun b => (0xFF, b.toNat))
  let _ ← writePatches (antReq c) [⟨a, cells, v.isNone⟩]

/-- A range of local offsets holds nothing known: in LPDDR6 what an unwritten byte holds, in a core's windows, as far as the Anthill may
write there, data that is free. -/
def scrapRange (lo hi : Nat) : Prog Unit :=
  letI := Prog.monad
  do
  act (.forget lo (min hi 0x01C000000000))
  let from_ := max lo 0x01C000000000
  each (List.range (ceilDiv (min hi (windowBase 144) - from_) 32)) (fun k => do
    let s ← ask id
    let off := from_ + 32 * k
    let open_ := match localTarget off with
      | .scratch i x => !s.deaf i && s.owns .dma i (x / 0x10000)
      | .acc i _ _ => !s.deaf i
      | _ => false
    when open_ do
      let v ← fresh 256
      placeGran off (.valid (toBytes 32 v)))

/-- The dead part of the spill region and the sort region hold nothing known after a drain (08 R242). -/
def scrapRegions (c : ClusterId) (fill : Nat) (dead : List Nat) : Prog Unit :=
  letI := Prog.monad
  do
  let s ← ask id
  let lim := s.field F.ANT_SPILL_LIMIT.LIMIT c 0
  let base := s.spillAt c 0
  let sort := 64 * s.field F.ANT_SORT_BASE.BASE c 0
  each dead (fun k => scrapRange (base + 64 * k) (base + 64 * k + 64))
  scrapRange (base + 64 * fill) (base + 64 * lim)
  scrapRange sort (sort + 64 * lim)

/-- The drain of a context in one Anthill. -/
def drainCluster (ctx : Nat) (c : ClusterId) : Prog Unit :=
  letI := Prog.monad
  do
  setF F.ANT_STATUS.DRAIN_CTX c 0 ctx
  let recs ← readRecords c ctx
  let s ← ask id
  let mine := recs.filter (fun r => r.2.ctx == ctx)
  let ents := s.clusters[c].ant.filter (fun e => e.ctx == ctx)
  let held ← collect ents (fun e => do
    let d ← heldValue c e
    pure { e.record with value := d, seq := 2 ^ 64 })
  let all := mine.map (·.2) ++ held
  each ((all.map (·.gran)).eraseDups) (fun g => drainOne c g (all.filter (fun r => r.gran == g)))
  modCluster c (fun y => { y with ant := y.ant.filter (fun e => e.ctx != ctx), dead := y.dead ++ mine.map (·.1) })
  let s1 ← ask id
  let fill := s1.field F.ANT_STATUS.FILL c 0
  let dead := s1.clusters[c].dead
  scrapRegions c fill dead
  when ((List.range fill).all (fun k => dead.contains k)) do
    setF F.ANT_STATUS.FILL c 0 0
    modCluster c (fun y => { y with dead := [] })
  incF F.ANT_EVENTS.DRAINS c 0 1
  showAnt c

/-- SCATTER.ADD with DRAIN drains a context in all 18 Anthills (08 R240). -/
def drainAll (ctx : Nat) : Prog Unit := each (List.finRange 18) (drainCluster ctx)

end Sys2Proof.Machine
end

