-- ==== Sys2Proof/Machine/Dma.lean ====
section
/-!
DEFINITION. The DMA engine of a core: LOAD, STORE, GATHER, SCATTER, SCATTER.ADD and its drain (spec 02 R48, R71, 05 R139, R149, R150,
R161, 08 R223 to R235, 11 R320).
-/
namespace Sys2Proof.Machine
open Prog hiding pure bind get op run monad

/-- One element moved: its source element (none: FILL), its destination element and logical index. -/
structure Move where
  src : Option Int
  dst : Int
  idx : Nat
deriving DecidableEq, Repr

/-- Granules read for a same-format copy, one request each in the order given: data and whether what takes it is to be marked. -/
def fetchCopy (rq : Req) (gs : List Nat) : Prog (List (Nat × List Byte × Bool)) :=
  letI := Prog.monad
  collect gs (fun a => do
    let g ← readRaw rq a
    let (d, bad) ← consumeCopy rq a g
    pure (a, d, bad))

/-- A byte of what was fetched for a copy, and whether its granule is marked. -/
def copyByte (m : List (Nat × List Byte × Bool)) (a : Nat) : Nat × Bool :=
  match m.find? (fun e => e.1 == a / 32 * 32) with
  | some (_, d, bad) => ((nth d (a % 32) 0).toNat, bad)
  | none => (0, false)

/-- An element copied bit for bit: each byte of the destination carries the marking of the byte that it receives (05 R161). -/
def copyEl (src dst : Desc) (m : List (Nat × List Byte × Bool)) (n no : Int) (ps : List Patch) : List Patch :=
  if src.fmt!.width = 4 then
    let (v, bad) := copyByte m (src.byteAt n)
    dst.put no (if n % 2 = 0 then v % 16 else v / 16) bad ps
  else (List.range (src.fmt!.width / 8)).foldl (fun ps k =>
    let (v, bad) := copyByte m ((src.byteAt n + k) % 2 ^ 64)
    Patch.add ((dst.byteAt no + k) % 2 ^ 64) 0xFF v bad ps) ps

/-- The granules that the reads of a list of elements touch, element by element: the code's, then that of an HB4 scale where the read
converts. -/
def elementReads (src : Desc) (copy : Bool) (ns : List Int) : List Nat :=
  (ns.map (fun n => granulesOf (src.bytesAt n) ++
    (if copy then [] else granulesOf ((src.needs n).drop (src.bytesAt n).length)))).flatten

/-- The patches of a list of moves, in order, with the events of its conversions: equal formats copy bits and carry the poison
marking, others convert under RND and the keys of the destination (02 R48, R67, R71, 05 R161). `requests` makes of the granules that
the elements read those that are asked for. -/
def moveEls (f : Flight) (rq : Req) (src dst : Desc) (requests : List Nat → List Nat) (ms : List Move) : Prog (List Patch × QEv) :=
  letI := Prog.monad
  do
  let used := ms.filterMap (·.src)
  let copy := src.code == dst.code
  let gs := requests (elementReads src copy used)
  if copy then do
    let m ← fetchCopy rq gs
    pure (ms.foldl (fun ps mv => match mv.src with
      | none => dst.put mv.dst src.fillBits false ps
      | some n => copyEl src dst m n mv.dst ps) [], {})
  else do
    let seed ← getR .TOP_SR_SEED
    let m ← fetchGrans rq gs
    let els := ms.map (fun mv => (mv.dst, mv.idx, match mv.src with
      | none => src.fillElem
      | some n => src.valueIn m n))
    let (codes, scales, ev) := dst.encode seed f.step (widenRnd src dst (wRnd f.word)) els
    pure (dst.patches codes scales [], ev)

/-- The patches of the moves of an instruction of a core, whose conversions count in CORE_QNT_EVENTS (02 R75). -/
def movePatches (i : SiteId) (f : Flight) (rq : Req) (src dst : Desc) (requests : List Nat → List Nat) (ms : List Move) :
    Prog (List Patch) :=
  (moveEls f rq src dst requests ms).bind (fun r => (qntEvents i r.2).bind (fun _ => .pure r.1))

/-- Destination granules that took a converted element of a granule whose request failed are poison-marked (11 R320). -/
def markFailed (src dst : Desc) (ms : List Move) (ps : List Patch) : Prog (List Patch) :=
  .get (fun s =>
    let lost (a : Nat) : Bool := s.got.any (fun e => e.1 == a / 32 * 32 && e.2.failed)
    let hit := (ms.filter (fun mv => match mv.src with | some n => (src.needs n).any lost | none => false)).map
      (fun mv => (dst.bytesAt mv.dst).map (fun a => a / 32 * 32))
    .pure (if src.code = dst.code then ps
      else ps.map (fun p => if hit.flatten.contains p.addr then { p with bad := true } else p)))

/-- The moves of a list of index pairs whose destination lies within its extents (05 R149); a source index of none, or beyond the
source's extents, reads FILL. -/
def movesOf (src dst : Desc) (l : List (Option (List Nat) × List Nat)) : List Move :=
  (l.filter (fun p => dst.inside p.2)).map (fun p =>
    { src := match p.1 with
        | some ix => if src.inside ix then some (src.number ix) else none
        | none => none
      dst := dst.number p.2, idx := dst.lindex p.2 })

/-- LOAD and STORE copy each element of SA, over its caps, to the same indices of SB (05 R139, R147, R149; DEDUCED, log 12). -/
def copyBody (i : SiteId) (f : Flight) : Prog Unit :=
  letI := Prog.monad
  do
  let w := f.word
  let da := f.desc 0
  let db := f.desc 1
  if !da.ok then formatError i f (wSA w)
  else if !db.ok then formatError i f (wSB w)
  else do
    let go ← checkShapes i [da, db]
    when go do
      let rq := reqOf i f .dma 5
      let src ← da.storage
      let dst ← db.storage
      let shape := (List.range src.rank).map (fun k => min (nth src.cap k 1) (dst.extent k))
      let ms := movesOf src dst ((tuples shape).map (fun ix => (some ix, ix)))
      let ps ← movePatches i f rq src dst granulesOf ms
      let ps ← markFailed src dst ms ps
      let far := fld db.base 63 62 == 1
      let store := wOpcode w == 0x21 && far
      let sg : Signal := { rel := store && wb w 119, sig := store && wb w 118, core := wf w 74 68, cc := wf w 67 64 }
      writeOut i f rq sg ps
      let own ← ask (fun s => fld db.base 56 42 == s.ownId)
      when (sg.sig && own) (signalCC sg.core sg.cc)

/-- ACQ of a LOAD stands on its last packet when its descriptors name another device's space (11 R320). -/
def acqOf (w : IWord) : Nat := place 45 45 (b2n (wb w 119))

def loadProg (i : SiteId) (w : IWord) : Prog Unit := issueUnit i w .dmaRd (acqOf w) copyBody
def execLoad (i : SiteId) (w : IWord) (s : State) : Host.Outcome State Fault Refusal := Prog.next (loadProg i w) s
def storeProg (i : SiteId) (w : IWord) : Prog Unit := issueUnit i w .dmaWr 0 copyBody
def execStore (i : SiteId) (w : IWord) (s : State) : Host.Outcome State Fault Refusal := Prog.next (storeProg i w) s

/-! GATHER, SCATTER and SCATTER.ADD. -/

/-- The rank that an index instruction sees: a sparse operand is its value array. -/
def Desc.viewRank (d : Desc) : Nat := if d.sparse = 0 then d.rank else 1

/-- The fitness of an index list (08 R227). -/
def Desc.indexOk (d : Desc) (block : Bool) : Bool :=
  d.ok && d.code == 9 && d.sparse == 0 && (if block then d.rank == 2 && nth d.cap 0 0 == 2 else d.rank == 1)

/-- The ranks of the two tensors of an index instruction fit its mode (08 R228, R230, R232): `table` is the indexed one. -/
def ranksFit (block : Bool) (axis : Nat) (table dense : Desc) : Bool :=
  if block then table.sparse == 0 && dense.sparse == 0 && table.rank == 2 && dense.rank == 3
  else decide (axis < table.viewRank) && decide (axis < dense.viewRank)

/-- An entry of an index list as a signed number: FILL beyond the list's extents (05 R149); an entry whose granule failed reads 0 (04
R105). -/
def Desc.indexIn (d : Desc) (m : GMap) (ix : List Nat) : Int :=
  sext 32 (if d.inside ix then (d.bitsIn m (d.number ix)).getD 0 else d.fillBits)

/-- How many indices an index instruction takes (08 R228, R230): as many as both the list and the dense side have. -/
def indexCount (block : Bool) (axis : Nat) (dense c : Desc) : Nat :=
  if block then min (c.extent 1) (dense.extent 2) else min (c.extent 0) (dense.extent axis)

/-- The index pairs of an index instruction in ascending linear index of its iteration descriptor: the dense side's indices, the
table's (none: out of range), and how many indices are out of range (08 R228 to R233). -/
def indexPairs (block : Bool) (axis : Nat) (table dense shape : Desc) (ext : Nat → Nat) (c : Desc) (m : GMap) :
    List (List Nat × Option (List Nat)) × Nat :=
  if block then
    let b0 := shape.extent 0
    let b1 := shape.extent 1
    let n := indexCount true axis dense c
    let co := (List.range n).map (fun j => (c.indexIn m [0, j], c.indexIn m [1, j]))
    let bad (q : Int × Int) : Bool :=
      decide (q.1 < 0) || decide (q.2 < 0) || decide ((table.extent 0 : Int) ≤ q.1 * b0) || decide ((table.extent 1 : Int) ≤ q.2 * b1)
    ((tuples [b0, b1, n]).map (fun ix =>
        let q := nth co (nth ix 2 0) (0, 0)
        (ix, if bad q then none else some [q.1.toNat * b0 + nth ix 0 0, q.2.toNat * b1 + nth ix 1 0])),
     (co.filter bad).length)
  else
    let n := indexCount false axis dense c
    let xs := (List.range n).map (fun j => c.indexIn m [j])
    let bad (x : Int) : Bool := decide (x < 0) || decide ((table.extent axis : Int) ≤ x)
    let dims := (List.range (max table.rank dense.rank)).map (fun k => if k = axis then n else ext k)
    ((tuples dims).map (fun ix =>
        let x := nth xs (nth ix axis 0) 0
        (ix, if bad x then none else some (ix.set axis x.toNat))),
     (xs.filter bad).length)

/-- The hold of a GATHER over its reads in order (08 R231): the granules held, of those read most recently 16, the reads served from the
hold, and the requests sent. -/
def holdReads (reads : List Nat) : List Nat × Nat × List Nat :=
  reads.foldl (fun (h : List Nat × Nat × List Nat) g =>
    if h.1.contains g then (g :: h.1.filter (· != g), h.2.1 + 1, h.2.2) else ((g :: h.1).take 16, h.2.1, h.2.2 ++ [g])) ([], 0, [])

/-- The checks that the index instructions share; they answer the views of the table, the dense side and the index list, once the list has
arrived: until then the instruction asks for nothing else. -/
def indexOpen (i : SiteId) (f : Flight) (scatter : Bool) : Prog (Option (Desc × Desc × Desc × GMap)) :=
  letI := Prog.monad
  do
  let w := f.word
  let da := f.desc 0
  let db := f.desc 1
  let dc := f.desc 2
  let block := wb w 119
  let (table, dense) := if scatter then (db, da) else (da, db)
  if !da.ok then do
    formatError i f (wSA w)
    pure none
  else if !db.ok then do
    formatError i f (wSB w)
    pure none
  else if !dc.indexOk block then do
    formatError i f (wSC w)
    pure none
  else if !ranksFit block (wf w 66 64) table dense then do
    formatError i f (wSA w)
    pure none
  else do
    let go ← checkShapes i [da, db, dc]
    if go then do
      let rq := reqOf i f .dma 5
      let t ← table.storage
      let d ← dense.storage
      let n := indexCount block (wf w 66 64) d dc
      let ixs := if block then ((List.range n).map (fun j => [[0, j], [1, j]])).flatten else (List.range n).map (fun j => [j])
      let m ← fetch rq ((ixs.filter dc.inside).map (fun ix => dc.bytesAt (dc.number ix))).flatten
      let s ← ask id
      pure (if s.want.isEmpty then some (t, d, dc, m) else none)
    else pure none

/-- GATHER (08 R227 to R231). -/
def gatherBody (i : SiteId) (f : Flight) : Prog Unit :=
  letI := Prog.monad
  do
  let r ← indexOpen i f false
  match r with
  | none => skip
  | some (t, d, c, m) => do
    let (ps, oor) := indexPairs (wb f.word 119) (wf f.word 66 64) t d d d.extent c m
    incF F.CORE_INDEX_EVENTS.OOR_READ i 0 oor
    let ms := movesOf t d (ps.map (fun p => (p.2, p.1)))
    let rq := reqOf i f .dma 5
    let reads := elementReads t (t.code == d.code) (ms.filterMap (·.src))
    incF F.CORE_INDEX_EVENTS.COALESCED i 0 (holdReads reads).2.1
    let out ← movePatches i f rq t d (fun l => (holdReads l).2.2) ms
    writeOut i f rq {} out

def gatherProg (i : SiteId) (w : IWord) : Prog Unit := issueUnit i w .dmaRd 0 gatherBody
def execGather (i : SiteId) (w : IWord) (s : State) : Host.Outcome State Fault Refusal := Prog.next (gatherProg i w) s

/-- The extents of a SCATTER's other dimensions: over SA's caps, as far as SB reaches (08 R232, 05 R147; DEDUCED, log 12). -/
def scatterExt (d t : Desc) (k : Nat) : Nat := min (if k < d.rank then nth d.cap k 1 else 1) (t.extent k)

/-- SCATTER (08 R232, R233). -/
def scatterBody (i : SiteId) (f : Flight) : Prog Unit :=
  letI := Prog.monad
  do
  let r ← indexOpen i f true
  match r with
  | none => skip
  | some (t, d, c, m) => do
    let (ps, oor) := indexPairs (wb f.word 119) (wf f.word 66 64) t d d (scatterExt d t) c m
    incF F.CORE_INDEX_EVENTS.OOR_WRITE i 0 oor
    let ms := movesOf d t (ps.filterMap (fun p => p.2.map (fun ix => (some p.1, ix))))
    let rq := reqOf i f .dma 5
    let out ← movePatches i f rq d t granulesOf ms
    writeOut i f rq {} out

def scatterProg (i : SiteId) (w : IWord) : Prog Unit := issueUnit i w .dmaWr 0 scatterBody
def execScatter (i : SiteId) (w : IWord) (s : State) : Host.Outcome State Fault Refusal := Prog.next (scatterProg i w) s

/-- One contribution element: its destination granule and lane, its linear source index, its value. -/
structure AddEl where
  gran : Nat
  lane : Nat
  idx  : Nat
  val  : Nat
deriving DecidableEq, Repr

/-- Elements grouped into packets (08 R235): consecutive elements of one granule, each in a different lane. -/
def addPackets (els : List AddEl) : List (List AddEl) :=
  (els.foldl (fun (ps : List (List AddEl)) e =>
    match ps with
    | p :: t => if p.all (fun x => x.gran == e.gran && x.lane != e.lane) then (p ++ [e]) :: t else [e] :: p :: t
    | [] => [[e]]) []).reverse

/-- The contribution packet of a group of elements; `start` marks the first of a run whose INDEX is `run`. -/
def addPacket (ctx lane order : Nat) (ord start : Bool) (run : Nat) (p : List AddEl) : Contribution :=
  let g := match p.head? with | some e => e.gran | none => 0
  let ix := match p.head? with | some e => e.idx | none => 0
  { ctx := Fin.ofNat 256 ctx, granule := BitVec.ofNat 36 g, lane := Fin.ofNat 4 lane, lanes := BitVec.ofNat 16 (maskOf (p.map (·.lane))),
    ord := ord, runStart := start, order := BitVec.ofNat 24 order, index := BitVec.ofNat 40 ix, run := BitVec.ofNat 40 run,
    vals := BitVec.ofNat 512 (p.foldl (fun v e => v + e.val <<< (32 * e.lane)) 0) }

/-- Packets with their runs: a run is a maximal sequence of consecutive packets with one key (08 R235). -/
def addRuns (ctx lane order : Nat) (ord : Bool) (ps : List (List AddEl)) : List Contribution :=
  ((ps.foldl (fun (acc : List Contribution × Option (Nat × Nat)) p =>
    let g := match p.head? with | some e => e.gran | none => 0
    let ix := match p.head? with | some e => e.idx | none => 0
    match acc.2 with
    | some (h, run) =>
      if h = g then (addPacket ctx lane order ord false run p :: acc.1, some (h, run))
      else (addPacket ctx lane order ord true ix p :: acc.1, some (g, ix))
    | none => (addPacket ctx lane order ord true ix p :: acc.1, some (g, ix))) ([], none)).1).reverse

/-- SCATTER.ADD sends its contributions to their Anthills (08 R234 to R236); a sparse source has no part in it (03 R82). -/
def scatterAddBody (i : SiteId) (f : Flight) : Prog Unit :=
  letI := Prog.monad
  do
  let w := f.word
  let da := f.desc 0
  let db := f.desc 1
  let lane := wf w 117 116
  let srcOk := match da.fmt! with
    | .int8 | .uint8 | .int32 => lane == 2
    | .fp32 | .bf16 | .fp16 | .e4m3 | .e5m2 => lane != 2
    | _ => false
  if lane = 3 then fieldError i f
  else if !da.ok then formatError i f (wSA w)
  else if !db.ok then formatError i f (wSB w)
  else if db.sparse != 0 || fld db.base 63 62 != 0 then fieldError i f (wSB w)
  else if da.sparse != 0 || !srcOk then formatError i f (wSA w)
  else if db.fmt! != laneFmt lane then formatError i f (wSB w)
  else do
    let r ← indexOpen i f true
    match r with
    | none => skip
    | some (t, d, c, m) => do
      let (ps, oor) := indexPairs (wb w 119) (wf w 66 64) t d d (scatterExt d t) c m
      incF F.CORE_INDEX_EVENTS.OOR_WRITE i 0 oor
      let live := ps.filterMap (fun p => match p.2 with
        | some ix => if t.inside ix then some (p.1, ix) else none
        | none => none)
      let rq := reqOf i f .dma 5
      let sm ← fetch rq ((live.filter (fun p => d.inside p.1)).map (fun p => d.needs (d.number p.1))).flatten
      let els := live.map (fun (p : List Nat × List Nat) =>
        let a := t.byteAt (t.number p.2)
        let v := if d.inside p.1 then d.valueIn sm (d.number p.1) else d.fillElem
        ({ gran := fld a 40 5, lane := a % 32 / laneBytes lane, idx := d.lindex p.1,
           val := if lane = 2 then wrap 32 v.toRat.num else bits32 v } : AddEl))
      let order := (wf w 63 40 + f.idxReg (wf w 113 112)) % 2 ^ 24
      let packets := addRuns (wf w 39 32) lane order (wb w 118) (addPackets els)
      modNoc (fun n => { n with inserts := n.inserts ++ packets.map (fun p => ⟨i, f.seq, p⟩) })
      each packets (fun p => emit (.contribution p))

def scatterAddProg (i : SiteId) (w : IWord) : Prog Unit := issueUnit i w .dmaWr 0 scatterAddBody
def execScatterAdd (i : SiteId) (w : IWord) (s : State) : Host.Outcome State Fault Refusal := Prog.next (scatterAddProg i w) s

/-- SCATTER.ADD with DRAIN (08 R227, R240). -/
def drainBody (i : SiteId) (f : Flight) : Prog Unit :=
  if wf f.word 117 116 = 3 then fieldError i f else drainAll (wf f.word 39 32)

def scatterAddDrainProg (i : SiteId) (w : IWord) : Prog Unit := issueUnit i w .dmaWr 0 drainBody
def execScatterAddDrain (i : SiteId) (w : IWord) (s : State) : Host.Outcome State Fault Refusal :=
  Prog.next (scatterAddDrainProg i w) s

end Sys2Proof.Machine
end

