-- ==== Sys2Proof/Machine/Fold.lean ====
section
/-!
DEFINITION. Sums of reduction packets: the lanes of granules folded from left to right, BF16 rounded once stochastically at the end
(spec 01 R29, R30, 11 R325).
-/
namespace Sys2Proof.Machine
open Prog hiding pure bind get op run monad

/-- The lanes of granules added from left to right: FP32 rounding to nearest even at each add, BF16 in FP32, INT32 exact. -/
def foldVals (fmt : Nat) : List (List FVal) → List FVal
  | [] => []
  | d :: ds => ds.foldl (fun acc v => List.zipWith (if fmt = 2 then FVal.add else add32) acc v) d

/-- The element index of the key of a stochastic rounding of lane j: the element modulo 2^34, and `top` in bits [39:34]. -/
def foldKey (top elem j : Nat) : Nat := place 33 0 (elem + j) + place 39 34 top

/-- The data of a sum of granules; lane 0 is element `elem`. One contribution is carried unchanged. -/
def foldData (fmt seed step tensor top elem : Nat) (ds : List (List Byte)) : List Byte :=
  match ds with
  | [] => zeroBytes 32
  | [d] => d
  | _ =>
    let vs := foldVals fmt (ds.map (laneVals fmt))
    ((List.range vs.length).map (fun j =>
      let v := nth vs j .zero
      match fmt with
      | 0 => toBytes 4 (bits32 v)
      | 1 => toBytes 2 (FPar.bf16.encode (FPar.bf16.round (.sr (srBits seed step tensor (foldKey top elem j))) v).1)
      | _ => toBytes 4 (wrap 32 v.toRat.num))).flatten

/-- The operands at one granule position consumed and folded; the answer says whether one of them was not correctable. Such
an operand adds the data bytes that were received, which is the model's choice (log 144). -/
def foldGrans (rq : Req) (fmt seed step tensor top elem : Nat) (gs : List Gran) : Prog (List Byte × Bool) :=
  letI := Prog.monad
  do
  let ds ← collect gs (fun g => do
    let d ← consume rq 0 g
    pure (d.getD g.data, d.isNone))
  pure (foldData fmt seed step tensor top elem (ds.map (·.1)), ds.any (·.2))

end Sys2Proof.Machine
end

