-- ==== Sys2Proof/Machine/Trees.lean ====
section
/-!
DEFINITION. Trees on the fabric: REDUCE packets held, folded, forwarded or written at the root, MCAST packets copied and delivered,
with what their landing means to the collectives in execution (spec 11 R322 to R328, 12 R346 to R350).
-/
namespace Sys2Proof.Machine
open Prog hiding pure bind get op run monad

/-! Fields of tree packets (11 R316, R317). -/

def pTag (p : Packet) : Nat := fld p.w3.toNat 23 8
def pElem (p : Packet) : Nat := fld p.w3.toNat 63 24
def pStep (p : Packet) : Nat := fld p.w2.toNat 63 32
def pTensor (p : Packet) : Nat := fld p.w2.toNat 31 8
def pCount (p : Packet) : Nat := pVia p + 1
/-- The sender's step, which an MCAST of the engine carries in STEP (12 R350): in bits [31:0] of word 2, since 11 R317 gives STEP no place
in an MCAST (DESIGN CHOICE, log 23). -/
def mStep (p : Packet) : Nat := fld p.w2.toNat 31 0
/-- LEPOCH: in bits [7:0] of a REDUCE's word 2, [39:32] of a STORE's or MCAST's. -/
def pLepoch (p : Packet) : Nat := if pOp p = 7 then fld p.w2.toNat 7 0 else fld p.w2.toNat 39 32

/-- Whether a TC1 packet's layout epoch is not the device's (11 R328); packets of other classes are not compared. -/
def State.epochDiffers (s : State) (p : Packet) : Bool := pTc p == 1 && pLepoch p != s.field F.FAB_LAYOUT.EPOCH 0 0 % 256

/-- A packet of another layout epoch discarded, counted and reported as a job error (11 R328). -/
def epochDrop : Prog Unit := (fabDrop F.FAB_ERROR.EPOCH).bind (fun _ => jobError 1)

/-- A field of the tree entry of a tag (11 R322). -/
def State.tree (s : State) (tag : Nat) (f : Field) : Nat := s.field f 0 (tag % 1024)

/-- Whether a packet's entry serves it (11 R322). -/
def State.treeServes (s : State) (p : Packet) (kind : Nat) : Bool :=
  let t := pTag p
  s.tree t F.FAB_TREE.VALID == 1 && s.tree t F.FAB_TREE.TAG == t && s.tree t F.FAB_TREE.KIND == kind &&
    (kind == 1 || decide (s.tree t F.FAB_TREE.OUT ≤ 64))

/-! Landings. -/

/-- One collective in execution changed. -/
def modRun (id : Nat) (f : CollRun → CollRun) : Prog Unit :=
  modColl (fun c => { c with runs := c.runs.map (fun r => if r.id == id then f r else r) })

/-- A status other than OK; the first one stays. -/
def CollRun.fail (r : CollRun) (st : Nat) : CollRun := if r.status = 0 then { r with status := st } else r

/-- `n` granules landed at a local offset, some of them poison-marked: what the collectives in execution await shrinks, and their
POISON counts grow (12 R345). -/
def landed (off n poison : Nat) : Prog Unit :=
  modColl (fun c => { c with runs := c.runs.map (fun r =>
    let here (l : Landing) : Bool := decide (l.lo ≤ off) && decide (off < l.hi)
    let less (l : Landing) : Landing := if here l then { l with left := l.left - n } else l
    let hit := r.need.any here || r.fp.any here
    let r1 := { r with need := r.need.map less, fp := r.fp.map less }
    if hit && poison != 0 then { (r1.fail 1) with poison := r1.poison + poison } else r1) })

/-- Whole granules written at a local offset, as a STORE writes them: data as given, poison-marked where asked. -/
def landGrans (off : Nat) (gs : List (List Byte × Bool)) : Prog Unit :=
  letI := Prog.monad
  let rq : Req := { cls := .dma, unit := 0x0B }
  do
  each (List.range gs.length) (fun k => do
    let (d, bad) := nth gs k ([], false)
    let cells := d.map (fun b => (0xFF, b.toNat))
    let _ ← writePatch rq ⟨(off + 32 * k) % 2 ^ 41, cells, bad⟩)
  landed off gs.length (gs.filter (·.2)).length

/-- A granule placed as it is, and counted by the collectives that await it; in the window of a core whose clock Hush has stopped it waits
(01 R41). -/
def landGran (off : Nat) (g : Gran) : Prog Unit :=
  .get (fun s =>
    if s.hushed && (match localTarget off with
      | .scratch i _ | .acc i _ _ | .passes i _ | .blank i => !s.deaf i
      | _ => false) then modNoc (fun n => { n with cores := n.cores ++ [.land off g] })
    else (placeGran off g).bind (fun _ => landed off 1 (b2n (g.err == poisonErr))))

/-- The data of a packet's granule where it is consumed, with its report (18 R457); one that is not correctable is taken as received. -/
def packetUse (p : Packet) (k : Nat) : Prog (List Byte) :=
  let g := granOf (nth p.grans k 0)
  let addr := p.w1.toNat + 32 * k
  (consume { cls := .dma, unit := 0x0B, pkt := some { struct := 7, address := addr } } addr g).bind (fun d => .pure (d.getD g.data))

/-- The data of a packet's granules as a copy takes them, with the marks of those that are not correctable. -/
def packetData (p : Packet) : Prog (List (List Byte × Bool)) :=
  letI := Prog.monad
  collect (List.range p.grans.length) (fun k => do
    let addr := p.w1.toNat + 32 * k
    let rq : Req := { cls := .dma, unit := 0x0B, pkt := some { struct := 7, address := addr } }
    consumeCopy rq addr (granOf (nth p.grans k 0)))

/-! REDUCE (11 R323 to R326). -/

/-- Whether two REDUCE packets match in TAG and word 1. -/
def sameSpot (p q : Packet) : Bool := pTag p == pTag q && p.w1 == q.w1

/-- Whether two REDUCE packets combine (11 R323). -/
def combines (p q : Packet) : Bool :=
  sameSpot p q && pFmt p == pFmt q && pLen p == pLen q && pLepoch p == pLepoch q && pStep p == pStep q &&
    pTensor p == pTensor q && pElem p == pElem q

/-- The inputs of a tag's entry, in the order of the fold: local first, then ascending links (11 R323). -/
def State.treeInputs (s : State) (tag : Nat) : List (Option Nat) :=
  (if s.tree tag F.FAB_TREE.LOCAL = 1 then [none] else []) ++ (onesOf 64 (s.tree tag F.FAB_TREE_LINKS.LINKS)).map some

/-- Inputs still missing for a held key. -/
def State.treeMissing (s : State) (h : FHold) : List (Option Nat) :=
  (s.treeInputs h.tag).filter (fun x => !(h.parts.any (fun q => q.1 == x)))

/-- The packets of a held key in the order of the fold. -/
def FHold.ordered (h : FHold) : List Packet :=
  match h.parts.head? with
  | none => []
  | some q =>
    if pOrd q.2 then
      ((h.parts.filter (fun x => x.1.isNone)) ++
        ((List.range 64).map (fun l => h.parts.filter (fun x => x.1 == some l))).flatten).map (·.2)
    else h.parts.map (·.2)

/-- Packets folded into one: their sum, COUNT and POISON (11 R323, R325). -/
def foldPackets (depth : Nat) (poison : Bool) (ps : List Packet) : Prog Packet :=
  letI := Prog.monad
  match ps with
  | [] => pure ⟨0, 0, 0, 0, []⟩
  | p :: _ => do
    let s ← ask id
    let seed := s.reg .TOP_SR_SEED 0 0
    let lanes := laneCount (pFmt p)
    let out ← collect (List.range p.grans.length) (fun k => do
      let rq : Req := { cls := .dma, unit := 0x0B, pkt := some { struct := 7, address := p.w1.toNat + 32 * k } }
      foldGrans rq (pFmt p) seed (pStep p) (pTensor p) (0x30 + depth) (pElem p + lanes * k)
        (ps.map (fun q => granOf (nth q.grans k 0))))
    let bad := out.any (·.2)
    when bad (fabError F.FAB_ERROR.RED_POISON)
    let count := (ps.map pCount).sum
    let mark := b2n (poison || bad || ps.any pPoison)
    pure { p with
      w0 := BitVec.ofNat 64 (setFld (setFld (setFld p.w0.toNat 28 14 (count - 1)) 49 49 mark) 44 30 s.ownId)
      grans := out.map (fun g => burstOf (.valid g.1)) }

/-- The root writes a sum, as a STORE writes, and signals (11 R321, R323). -/
def rootWrite (p : Packet) : Prog Unit :=
  letI := Prog.monad
  do
  let s ← ask id
  let t := pTag p
  when (pOrd p && pCount p != s.tree t F.FAB_TREE.EXPECT_M1 + 1) (fabError F.FAB_ERROR.RED_COUNT)
  landGrans (pOff p / 32 * 32) (p.grans.map (fun g => ((granOf g).data, pPoison p)))
  when (s.tree t F.FAB_TREE.SIG == 1) (signalCC (s.tree t F.FAB_TREE.CORE) (s.tree t F.FAB_TREE.CC))

/-- What is held of a key is folded and leaves on OUT or is written at the root. -/
def finishReduce (poison : Bool) (h : FHold) : Prog Unit :=
  letI := Prog.monad
  do
  let s ← ask id
  modFabric (fun f => { f with holds := f.holds.erase h })
  let p ← foldPackets (s.tree h.tag F.FAB_TREE.DEPTH) poison h.ordered
  let out := s.tree h.tag F.FAB_TREE.OUT
  if out < 64 then sendOn out p else rootWrite p

/-- Whether a link can take a tree packet now. -/
def State.linkReady (s : State) (n : Nat) (p : Packet) : Bool :=
  if h : n < 64 then
    let k := s.links[n]
    s.linkIsUp n && k.canSend p && !(k.txq.any (fun q => pVc q.packet == pVc p))
  else false

/-- Whether a held key is complete: all inputs under ORD = 1; else the root's COUNTs, or room on the output link. -/
def State.treeReady (s : State) (h : FHold) : Bool :=
  match h.parts.head? with
  | none => false
  | some q =>
    let out := s.tree h.tag F.FAB_TREE.OUT
    if pOrd q.2 then (s.treeMissing h).isEmpty
    else if out = 64 then decide (s.tree h.tag F.FAB_TREE.EXPECT_M1 + 1 ≤ (h.parts.map (fun x => pCount x.2)).sum)
    else s.linkReady out q.2

/-- Whether a packet matches no held key while the 256 merge slots are taken (11 R326). -/
def State.mergeFull (s : State) (p : Packet) : Bool :=
  !(s.fabric.holds.any (fun h => h.parts.any (fun q => sameSpot q.2 p))) && decide (256 ≤ s.fabric.holds.length)

/-- A packet that waits on its channel at its input. -/
def stallPacket (input : Nat) (p : Packet) : Prog Unit :=
  rxKeep input (fun vc => modFabric (fun x => { x with stalls := x.stalls ++ [{ input := input, out := none, packet := p, vc := vc }] }))

/-- A REDUCE packet that a merge slot has taken in: it joins or opens its key, which leaves when it is complete (11 R323, R324). -/
def mergePacket (src : Option Nat) (p : Packet) : Prog Unit :=
  letI := Prog.monad
  do
  let s ← ask id
  match s.fabric.holds.find? (fun h => h.parts.any (fun q => sameSpot q.2 p)) with
  | some h =>
    if h.parts.any (fun q => !(combines q.2 p)) then fabDrop F.FAB_ERROR.RED_MISMATCH
    else do
      let h' : FHold := { h with parts := h.parts ++ [(src, p)] }
      modFabric (fun f => { f with holds := f.holds.map (fun x => if x = h then h' else x) })
      when (s.treeReady h') (finishReduce false h')
  | none => do
    let h' : FHold := ⟨pTag p, [(src, p)]⟩
    modFabric (fun f => { f with holds := f.holds ++ [h'] })
    when (s.treeReady h') (finishReduce false h')

/-- REDUCE packets that waited for a merge slot take one, the first that can first (`fuel` bounds how many). -/
def drainStalls : Nat → Prog Unit
  | 0 => skip
  | n + 1 => .get (fun s =>
      match s.fabric.stalls.find? (fun w => pOp w.packet == 7 && !s.hushed && !s.mergeFull w.packet) with
      | none => skip
      | some w =>
        (modFabric (fun x => { x with stalls := x.stalls.erase w })).bind (fun _ =>
          (mergePacket (if w.input < 64 then some w.input else none) w.packet).bind (fun _ =>
            (match w.vc with
              | some v => rxFree w.input v (pBytes w.packet)
              | none => skip).bind (fun _ => drainStalls n))))

/-- A REDUCE packet from a link, or from this device's engine, at its device (11 R322 to R326, R328). One that opens a key beyond the
256 merge slots, or follows such a one by the same input, waits on its channel, and so does every one while Hush holds the engine (19
R488). -/
def treeReduce (src : Option Nat) (p : Packet) : Prog Unit :=
  letI := Prog.monad
  do
  let s ← ask id
  let input := src.getD 64
  if !s.treeServes p 0 then fabDrop F.FAB_ERROR.TREE_MISS
  else if s.epochDiffers p then epochDrop
  else if s.hushed || s.mergeFull p || s.fabric.stalls.any (fun w => w.input == input && pOp w.packet == 7) then stallPacket input p
  else do
    mergePacket src p
    drainStalls s.fabric.stalls.length

/-- Held keys that the new state of the links lets leave (11 R324). -/
def flushTrees : Prog Unit :=
  letI := Prog.monad
  do
  let hs ← ask (·.fabric.holds)
  each hs (fun h => do
    let s ← ask id
    when (s.fabric.holds.contains h && s.treeReady h) (finishReduce false h))
  let n ← ask (·.fabric.stalls.length)
  drainStalls n

/-- The end of a key's wait (11 R326); while Hush holds the engine none ends (19 R488). -/
def treeTimeout (tag addr : Nat) : Prog Unit :=
  letI := Prog.monad
  do
  let s ← ask id
  match s.fabric.holds.find? (fun h => h.tag == tag && h.parts.any (fun q => q.2.w1.toNat == addr)) with
  | some h =>
    when (s.field F.FAB_CONFIG.RED_TIMEOUT 0 0 != 0 && !s.hushed) do
      fabError F.FAB_ERROR.RED_TIMEOUT
      finishReduce true h
      jobError 4
      drainStalls s.fabric.stalls.length
  | none => skip

/-! MCAST (11 R327, 12 R347, R350). -/

/-- SC as the landing place of a segment: its element j lands at DEST + j × b; HB4 scales at SC's, by DEST-relative index plus
FIRST (12 R343, R350). -/
def landDesc (d : Desc) (first dest : Nat) : Desc := { d with base := dest / 32 * 32, scl := d.scl + 2 * (first / 32) }

/-- The running ALL_GATHER and segment that a tag serves. -/
def State.gatherOf (s : State) (tag : Nat) : Option (CollRun × Nat) :=
  (s.coll.runs.filterMap (fun r =>
    if r.op = 2 && !r.ended then
      (r.trees.find? (fun e => fld (nth e 2 0) 55 48 == 0 && fld (nth e 2 0) 63 56 == r.round && (nth e 0 0).testBit 62 &&
        fld (nth e 0 0) 49 34 == tag)).map (fun e => (r, fld (nth e 2 0) 31 0))
    else none)).head?

/-- Elements of a gathered packet converted to SC's format at delivery (12 R350); elements of a granule that is not correctable
enter as NaN or 0, and what they land in is poison-marked. -/
def gatherLand (r : CollRun) (seg : Nat) (p : Packet) : Prog Unit :=
  letI := Prog.monad
  do
  let sb := r.desc 1
  let sc := r.desc 2
  let (first, count, dest) := nth r.segs seg (0, 0, 0)
  let s ← ask id
  -- a conversion consumes its granules, a copy carries them on (18 R457)
  let ds ← if sb.code = sc.code then packetData p else collect (List.range p.grans.length) (fun k => do
    let d ← packetUse p k
    let o := (granOf (nth p.grans k 0)).decode.1
    pure (d, o == .uncorr || o == .poison))
  let src := { sb with base := 0 }
  let dst := landDesc sc first dest
  let j0 := (pOff p - dest / 32 * 32) * 8 / sc.fmt!.width
  let n := min (256 * p.grans.length / sb.fmt!.width) (count - j0)
  let gm : GMap := (List.range ds.length).map (fun k => (32 * k, some (nth ds k ([], false)).1))
  let bad (j : Nat) : Bool := (nth ds (src.byteAt (j : Int) / 32) ([], false)).2
  let mut1 := (List.range n).map (fun j => (j0 + j, if bad j then sb.fmt!.failed else
    match src.bitsIn gm (j : Int) with
    | some b => sb.fmt!.decode b
    | none => .zero))
  let ps ← (if sb.code = sc.code then
      pure ((List.range n).foldl (fun ps j => dst.put ((j0 + j : Nat) : Int) ((src.bitsIn gm (j : Int)).getD 0) (bad j) ps) [])
    else do
      let els := mut1.map (fun x => ((x.1 : Int), (x.1 + first) % 2 ^ 40, x.2))
      let (codes, scales, _) := dst.encode (s.reg .TOP_SR_SEED 0 0) (mStep p) (wRnd r.flight.word) els
      let marks := (List.range n).filter bad
      pure ((dst.patches codes scales []).map (fun q =>
        if marks.any (fun j => (dst.bytesAt ((j0 + j : Nat) : Int)).any (fun a => a / 32 * 32 == q.addr)) then { q with bad := true } else q)))
  let _ ← writePatches (collReq r.site r.flight.word) ps
  landed (pOff p) p.grans.length (ps.filter (·.bad)).length

/-- An MCAST packet at a device, from an input: copied to its links, delivered here where LOCAL is set, and signalled (11 R321, R322, R327,
R328). One whose delivery converts waits on its channel while Hush holds the engine (19 R488). -/
def treeMcast (input : Nat) (p : Packet) : Prog Unit :=
  letI := Prog.monad
  do
  let s ← ask id
  let t := pTag p
  if !s.treeServes p 1 then fabDrop F.FAB_ERROR.TREE_MISS
  else if s.hushed && s.tree t F.FAB_TREE.LOCAL == 1 && (s.gatherOf t).isSome then stallPacket input p
  else do
    copyOut input p (onesOf 64 (s.tree t F.FAB_TREE_LINKS.LINKS))
    when (s.tree t F.FAB_TREE.LOCAL == 1) do
      if s.epochDiffers p then epochDrop
      else do
        match s.gatherOf t with
        | some (r, seg) => gatherLand r seg p
        | none => each (List.range p.grans.length) (fun k => do
          let off := (pOff p / 32 * 32 + 32 * k) % 2 ^ 41
          let g := granOf (nth p.grans k 0)
          landGran off g)
        when (p.w2.toNat.testBit 63) (signalCC (fld p.w2.toNat 62 56) (fld p.w2.toNat 55 52))

/-- MCASTs that waited for the engine go on once Hush releases it. -/
def drainCasts : Prog Unit :=
  .get (fun s =>
    let ws := s.fabric.stalls.filter (fun w => pOp w.packet == 8)
    (modFabric (fun x => { x with stalls := x.stalls.filter (fun w => pOp w.packet != 8) })).bind (fun _ =>
      each ws (fun w => (modFabric (fun x => { x with rx := w.vc })).bind (fun _ =>
        (treeMcast w.input w.packet).bind (fun _ => rxDone w.input (pBytes w.packet))))))

end Sys2Proof.Machine
end

