-- ==== Sys2Proof/Machine/Shard.lean ====
section
/-!
DEFINITION. Shards of training state: records, commit granules, arrays of the two slots, LG16 and fingerprints
(spec 09 R246 to R255, R266, R267).
-/
namespace Sys2Proof.Machine
open Prog hiding pure bind get op run monad

/-! Arithmetic of the rules (09 R256): FP32, round to nearest even at each operation. -/

def mul32 (a b : FVal) : FVal := rn32 (a.mul b)
def sub32 (a b : FVal) : FVal := rn32 (a.sub b)
def div32 (a b : FVal) : FVal := rn32 (a.div b)

/-- The integer square root, found from its top bit down (`n` bits). -/
def isqrtBits : Nat → Nat → Nat → Nat
  | 0, _, r => r
  | n + 1, v, r => isqrtBits n v (if (r + 2 ^ n) * (r + 2 ^ n) ≤ v then r + 2 ^ n else r)

def isqrt (v : Nat) : Nat := isqrtBits (Nat.log2 v / 2 + 1) v 0

/-- The correctly rounded square root: an integer root of 64 bits and a sticky bit decide every rounding. -/
def sqrt32 : FVal → FVal
  | .nan => .nan
  | .inf neg => if neg then .nan else .inf false
  | .fin neg m =>
    if m == 0 then .fin neg 0
    else if neg then .nan
    else
      let e := ilog2 m
      let k : Int := 64 - e / 2
      let v := m * pow2 (2 * k)
      let n := v.floor.toNat
      let r := isqrt n
      let exact := decide ((r * r : Nat) = n) && decide (((n : Nat) : Rat) = v)
      rn32 (.fin false (((2 * r + (if exact then 0 else 1) : Nat) : Rat) * pow2 (-k - 1)))

/-! LG16 (09 R249). -/

/-- The largest m below 2^(n) with m^256 ≤ v, from its top bit down. -/
def root256 : Nat → Nat → Nat → Nat
  | 0, _, r => r
  | n + 1, v, r => root256 n v (if (r + 2 ^ n) ^ 256 ≤ v then r + 2 ^ n else r)

/-- T[j] × 2^23: 2^(23 + j/256) rounded to the nearest integer; T[256] is 2.0. -/
def lgTable (j : Nat) : Nat := if 256 ≤ j then 2 ^ 24 else (root256 25 (2 ^ (24 * 256 + j)) 0 + 1) / 2

/-- T[j]. -/
def lgT (j : Nat) : Rat := mkRat (lgTable j : Nat) (2 ^ 23)

/-- The value of a code. -/
def lgDecode (c : Nat) : FVal :=
  if c < 0x200 then .zero else .fin false (lgT (c % 256) * pow2 ((c / 256 : Nat) - 128 : Int))

/-- The largest index with T[j] ≤ μ, from its top bit down. -/
def lgIndex : Nat → Rat → Nat → Nat
  | 0, _, j => j
  | n + 1, mu, j => lgIndex n mu (if lgT (j + 2 ^ n) ≤ mu then j + 2 ^ n else j)

/-- The code of an FP32 value with the random bits of its key, and what it counts. -/
def lgEncode (r : Nat) : FVal → Nat × QEv
  | .nan => (0xFFFF, { nonfinite := 1 })
  | .inf neg => if neg then (0, {}) else (0xFFFF, { nonfinite := 1 })
  | .fin neg m =>
    if neg || decide (m < pow2 (-126)) then (0, {})
    else
      let e := ilog2 m
      let mu := m * pow2 (-e)
      let j := lgIndex 8 mu 0
      let f := (mu - lgT j) / (lgT (j + 1) - lgT j)
      let c := ((32768 + 256 * e + j : Int)).toNat
      (min 0xFFFF (if (r : Rat) < f * ((2 ^ 24 : Nat) : Rat) then c + 1 else c), {})

/-! Records (09 R250 to R254). -/

/-- A shard record without its commit granules. -/
structure Shard where
  at'    : Nat
  slot   : List Nat
  grad   : Nat
  dir    : Nat
  count  : Nat
  rule   : Nat
  compact : Bool
  extra  : Nat
  wrnd   : Nat
  wfmt   : Nat
  rows   : Nat
  cols   : Nat
  ebase  : Nat
  tensor : Nat
  sid    : Nat
  stride : Nat
deriving DecidableEq, Repr

/-- A record from its first eight words. -/
def Shard.parse (a : Nat) (w : Nat → Nat) : Shard :=
  { at' := a, slot := [fld (w 0) 40 0, fld (w 1) 40 0], grad := fld (w 2) 40 0, dir := fld (w 3) 40 0, count := fld (w 4) 63 24,
    rule := fld (w 4) 23 16, compact := (w 4).testBit 15, extra := fld (w 4) 14 12, wrnd := fld (w 4) 11 10, wfmt := fld (w 4) 7 0,
    rows := fld (w 5) 63 32, cols := fld (w 5) 31 0, ebase := fld (w 6) 63 24, tensor := fld (w 6) 23 0, sid := fld (w 7) 63 32,
    stride := fld (w 7) 31 0 }

/-- A rule, working format or FACTORED shape that gives BAD_RULE (09 R246, R252, R256). -/
def Shard.badRule (h : Shard) : Bool :=
  !(decide (1 ≤ h.rule) && decide (h.rule ≤ 5)) ||
    !([2, 3, 4, 5, 6, 8].contains h.wfmt || (h.wfmt == 0xFF && h.compact)) ||
    (h.rule == 4 && h.rows * h.cols != h.count)

/-- A commit granule (09 R253). -/
structure Commit where
  step  : Nat
  fp    : Nat
  epoch : Nat
  dslot : Nat
deriving DecidableEq, Repr

/-- The 32 bytes of a commit granule. -/
def commitBytes (sid step fp epoch flags dslot : Nat) : List Byte :=
  toBytes 8 (place 63 32 step + sid) ++ toBytes 8 fp ++ toBytes 8 (place 63 32 epoch + place 7 5 flags + dslot) ++
    toBytes 8 (2 ^ 63)

/-- A commit granule that is valid (09 R254). -/
def commitOf (sid : Nat) : Option (List Byte) → Option Commit
  | none => none
  | some d =>
    if (leAt d 24 8).testBit 63 && leAt d 0 4 == sid then
      some ⟨leAt d 4 4, leAt d 8 8, leAt d 20 4, leAt d 16 1 % 2⟩
    else none

/-- The requester of the Rake (05 R157, 18 R459). -/
def rakeReq : Req := { cls := .rake, unit := 9 }

/-- The committed state of two commit granules (09 R254). -/
def committedOf (c0 c1 : Option Commit) : Option Commit :=
  match c0, c1 with
  | none, x => x
  | some a, none => some a
  | some a, some b => if a.step < b.step then some b else if b.step < a.step then some a else if a.step % 2 = 0 then some a else some b

/-- A shard record read with its committed state; none where a granule of it is not correctable. -/
def readShard (rq : Req) (a : Nat) : Prog (Option (Shard × Option Commit)) :=
  letI := Prog.monad
  do
  let a := fld a 40 0 / 32 * 32
  let m ← fetch rq (span a 128)
  let w k := (m.bytes (a + 8 * k) 8)
  if (List.range 8).all (fun k => (w k).isSome) then do
    let h := Shard.parse a (fun k => (w k).getD 0)
    let g k := (m.find? (fun e => e.1 == a + k)).bind (·.2)
    pure (some (h, committedOf (commitOf h.sid (g 64)) (commitOf h.sid (g 96))))
  else pure none

/-- Bytes of an element of the state arrays. -/
def Shard.b (h : Shard) : Nat := if h.compact then 2 else 4

/-- The address of array a of slot s (09 R250). -/
def Shard.array (h : Shard) (s a : Nat) : Nat := (nth h.slot s 0 / 32 * 32 + 32 * a * h.stride) % 2 ^ 41

/-- The base of the HB4 scales of the working copy (09 R248). -/
def Shard.scaleOff (h : Shard) : Nat := roundUp (ceilDiv h.count 2) 32

/-- Bytes of the working copy, scales included. -/
def Shard.wkBytes (h : Shard) : Nat :=
  match Fmt.ofCode h.wfmt with
  | none => 0
  | some .hb4 => h.scaleOff + 2 * ceilDiv h.count 32
  | some f => h.count * f.width / 8

/-- The arrays that the rule uses, with the bytes of COUNT elements (09 R246, R256, R266). -/
def Shard.used (h : Shard) : List (Nat × Nat) :=
  [(0, h.count * h.b), (1, h.count * h.b)] ++
    (if h.rule = 2 || h.rule == 4 then [(2, h.count * h.b)] else []) ++
    (if h.wkBytes = 0 then [] else [(3, h.wkBytes)]) ++
    (if h.rule = 5 then (List.range h.extra).map (fun k => (4 + k, h.count * h.b)) else [])

/-! Fingerprints (09 R266). -/

/-- h(x). -/
def fpHash (x : Nat) : Nat := ((2 * x + 1) * 0x9E3779B97F4A7C15) % 2 ^ 64

/-- The terms of granule q of array a. -/
def fpTerms (a q : Nat) (d : List Byte) : Nat :=
  ((List.range 4).map (fun j => leAt d (8 * j) 8 * fpHash (2 ^ 40 * a + 4 * q + j))).sum % 2 ^ 64

/-- The terms of the first bytes of an array. -/
def fpArray (a : Nat) (bs : List Byte) : Nat :=
  ((List.range (ceilDiv bs.length 32)).map (fun q => fpTerms a q (slice bs (32 * q) 32))).sum % 2 ^ 64

/-- The bytes of an array as they fold: those beyond COUNT in a final granule fold as zero, also between the codes and the scales of an
HB4 working copy (09 R266). -/
def Shard.folded (h : Shard) (a bytes : Nat) (bs : List Byte) : List Byte :=
  if a = 3 ∧ Fmt.ofCode h.wfmt = some .hb4 then
    let codes := ceilDiv h.count 2
    bs.take codes ++ zeroBytes (h.scaleOff - codes) ++ slice bs h.scaleOff (bytes - h.scaleOff)
  else bs.take bytes

/-- The fingerprint of a slot as it stands; none where a granule of it is not correctable. -/
def foldSlot (rq : Req) (h : Shard) (s : Nat) (only : Nat → Bool) : Prog (Option Nat) :=
  letI := Prog.monad
  do
  let fs ← collect (h.used.filter (fun x => only x.1)) (fun x => do
    let bs ← readArray rq (h.array s x.1) x.2
    pure (bs.map (fun b => fpArray x.1 (h.folded x.1 x.2 b))))
  pure (if fs.all Option.isSome then some ((fs.map (fun f => f.getD 0)).sum % 2 ^ 64) else none)

/-- Bytes that a copy of an array moves: under FACTORED M2 holds ROWS + COLS elements (log 24), which may be more than COUNT. -/
def Shard.kept (h : Shard) (a : Nat × Nat) : Nat := if h.rule = 4 ∧ a.1 = 2 then max a.2 ((h.rows + h.cols) * h.b) else a.2

/-- Bytes written from a granule boundary on, the last granule filled with zeros (09 R266). -/
def writeArray (base : Nat) (bs : List Byte) : Prog Unit :=
  letI := Prog.monad
  do
  let n := ceilDiv bs.length 32
  let _ ← writePatches rakeReq ((List.range n).map (fun q =>
    (⟨(base / 32 * 32 + 32 * q) % 2 ^ 41, (slice bs (32 * q) 32).map (fun b => (0xFF, b.toNat)), false⟩ : Patch)))
  skip

end Sys2Proof.Machine
end

