-- ==== Sys2Proof/Machine/Rake.lean ====
section
/-!
DEFINITION. The Rake: its ring, the commands UPDATE, PREP, SEAL and VERIFY, and drains (spec 09 R256 to R262, R275).
-/
namespace Sys2Proof.Machine
open Prog hiding pure bind get op run monad

/-! The rules (09 R256). -/

/-- The hyperparameters of a command, as FP32 values (09 R259). -/
structure Hyper where
  lr  : FVal
  wd  : FVal
  b1  : FVal
  b2  : FVal
  eps : FVal
  gs  : FVal
  c1  : FVal
  c2  : FVal

/-- The hyperparameters in the words of a command. -/
def Hyper.ofCmd (c : List Word) : Hyper :=
  let hi k := val32 (fld (nth c k 0).toNat 63 32)
  let lo k := val32 (fld (nth c k 0).toNat 31 0)
  { lr := hi 2, wd := lo 2, b1 := hi 3, b2 := lo 3, eps := hi 4, gs := lo 4, c1 := hi 5, c2 := lo 5 }

def one32 : FVal := .ofInt 1

/-- B × x + (1 − B) × y. -/
def blend (b x y : FVal) : FVal := add32 (mul32 b x) (mul32 (sub32 one32 b) y)

/-- w − LR × (u + WD × w). -/
def Hyper.step (h : Hyper) (w u : FVal) : FVal := sub32 w (mul32 h.lr (add32 u (mul32 h.wd w)))

/-- sign(c): ±1, ±0 for ±0, NaN for NaN. -/
def signOf : FVal → FVal
  | .nan => .nan
  | .inf n => .ofInt (if n then -1 else 1)
  | .fin n m => if m == 0 then .fin n 0 else .ofInt (if n then -1 else 1)

/-- One element of MOMENTUM, ADAPT, SIGN or DIRECTION (d: the direction element): w', m', v'. -/
def ruleElem (h : Hyper) (rule : Nat) (w m v g d : FVal) : FVal × FVal × FVal :=
  match rule with
  | 1 =>
    let m' := add32 (mul32 h.b1 m) g
    (h.step w m', m', v)
  | 2 =>
    let m' := blend h.b1 m g
    let v' := blend h.b2 v (mul32 g g)
    let u := div32 (mul32 m' h.c1) (add32 (sqrt32 (mul32 v' h.c2)) h.eps)
    (h.step w u, m', v')
  | 3 =>
    let c := blend h.b1 m g
    (h.step w (signOf c), blend h.b2 m g, v)
  | _ => (h.step w d, m, v)

/-- A sum in FP32, in order, from +0. -/
def sum32 (l : List FVal) : FVal := l.foldl add32 .zero

/-- FACTORED: row and column sums by units, the new statistics, and the elements (09 R256). `unit i` is the unit of element i. -/
def factored (h : Hyper) (rows cols : Nat) (unit : Nat → Nat) (w m g r c : List FVal) :
    List FVal × List FVal × List FVal × List FVal :=
  let n := rows * cols
  let z : FVal := .zero
  let sq := (List.range n).map (fun i => mul32 (nth g i z) (nth g i z))
  let sumOver (is : List Nat) : FVal :=
    sum32 ((List.range 32).map (fun u => sum32 ((is.filter (fun i => unit i == u)).map (fun i => nth sq i z))))
  let r' := (List.range rows).map (fun i =>
    blend h.b2 (nth r i z) (div32 (sumOver ((List.range cols).map (fun j => i * cols + j))) (rn32 (.ofInt cols))))
  let c' := (List.range cols).map (fun j =>
    blend h.b2 (nth c j z) (div32 (sumOver ((List.range rows).map (fun i => i * cols + j))) (rn32 (.ofInt rows))))
  let mean := div32 (sum32 r') (rn32 (.ofInt rows))
  let el := (List.range n).map (fun i =>
    let v := div32 (mul32 (nth r' (i / cols) z) (nth c' (i % cols) z)) mean
    let u := div32 (nth g i z) (add32 (sqrt32 (mul32 v h.c2)) h.eps)
    let m' := blend h.b1 (nth m i z) u
    (h.step (nth w i z) m', m'))
  (el.map (·.1), el.map (·.2), r', c')

/-! Reading and writing the arrays. -/

/-- The random bits of element i of array a (09 R257). -/
def Shard.rnd (h : Shard) (seed step a i : Nat) : Nat :=
  srBits seed step ((h.tensor + a) % 2 ^ 24) ((h.ebase + i) % 2 ^ 40)

/-- Values of an array read as stored; a granule that failed gives NaN, and the answer says so. -/
def readVals (fmt : Fmt) (base n : Nat) : Prog (List FVal × Bool) :=
  letI := Prog.monad
  do
  let m ← fetch rakeReq (span base (n * (fmt.width / 8)))
  let vs := (List.range n).map (fun i => m.bytes ((base + i * (fmt.width / 8)) % 2 ^ 64) (fmt.width / 8))
  pure (vs.map (fun v => match v with | some b => fmt.decode b | none => .nan), vs.any Option.isNone)

/-- The format in which W, M1 and the extras are stored (09 R246). -/
def Shard.fmt (h : Shard) : Fmt := if h.compact then .bf16 else .fp32

/-- M2 or the factored statistics read. -/
def Shard.readM2 (h : Shard) (s n : Nat) : Prog (List FVal × Bool) :=
  letI := Prog.monad
  do
  if h.compact then do
    let base := h.array s 2
    let m ← fetch rakeReq (span base (2 * n))
    let vs := (List.range n).map (fun i => m.bytes ((base + 2 * i) % 2 ^ 64) 2)
    pure (vs.map (fun v => match v with | some b => lgDecode b | none => .nan), vs.any Option.isNone)
  else readVals .fp32 (h.array s 2) n

/-- W or M1 as stored: FP32, or BF16 by stochastic rounding (09 R257). -/
def Shard.encode (h : Shard) (seed step a : Nat) (vs : List FVal) : List Byte × QEv :=
  let es := (List.range vs.length).map (fun i =>
    if h.compact then Fmt.bf16.convert (.sr (h.rnd seed step a i)) (nth vs i .zero)
    else (bits32 (nth vs i .zero), {}))
  ((es.map (fun e => toBytes h.b e.1)).flatten, QEv.total (es.map (·.2)))

/-- M2 as stored: FP32, or LG16 (09 R257). -/
def Shard.encodeM2 (h : Shard) (seed step : Nat) (vs : List FVal) : List Byte × QEv :=
  let es := (List.range vs.length).map (fun i =>
    if h.compact then lgEncode (h.rnd seed step 2 i) (nth vs i .zero) else (bits32 (nth vs i .zero), {}))
  ((es.map (fun e => toBytes h.b e.1)).flatten, QEv.total (es.map (·.2)))

/-- The working copy of W' (09 R248, R257). -/
def Shard.encodeWk (h : Shard) (seed step : Nat) (vs : List FVal) : List Byte × QEv :=
  match Fmt.ofCode h.wfmt with
  | none => ([], {})
  | some f =>
    let mode i : Rnd := Rnd.ofField h.wrnd (h.rnd seed step 3 i)
    if f = .hb4 then
      let blocks := (List.range (ceilDiv vs.length 32)).map (fun j =>
        hb4Encode ((List.range (min 32 (vs.length - 32 * j))).map (fun k => (mode (32 * j + k), nth vs (32 * j + k) .zero))))
      let codes := (blocks.map (fun b => b.2.1)).flatten
      let bytes := (List.range (ceilDiv codes.length 2)).map (fun k => BitVec.ofNat 8 (nth codes (2 * k) 0 + 16 * nth codes (2 * k + 1) 0))
      (slice bytes 0 h.scaleOff ++ (blocks.map (fun b => toBytes 2 b.1)).flatten, QEv.total (blocks.map (fun b => b.2.2)))
    else
      let es := (List.range vs.length).map (fun i => f.convert (mode i) (nth vs i .zero))
      ((es.map (fun e => toBytes (f.width / 8) e.1)).flatten, QEv.total (es.map (·.2)))

/-- What conversions of the Rake count (09 R257). -/
def rakeEvents (e : QEv) : Prog Unit := incF F.RAKE_EVENTS.NONFINITE 0 0 e.nonfinite

/-! Commands (09 R259 to R262). -/

/-- What the gradient header says (09 R255). -/
structure GradHeader where
  ok    : Bool
  jobNf : Bool
  nf    : Bool
  fmt   : Fmt

/-- The gradient header of a shard read for a step; none where its granule is not correctable. -/
def readHeader (h : Shard) (step : Nat) : Prog (Option GradHeader) :=
  letI := Prog.monad
  do
  let bs ← readArray rakeReq h.grad 32
  pure (bs.map (fun d =>
    let b4 := leAt d 4 1
    let fc := leAt d 5 1
    { ok := leAt d 0 4 == step && b4.testBit 0 && (fc == 0 || (fc == 2 && h.compact)), jobNf := b4.testBit 2, nf := b4.testBit 1,
      fmt := if fc = 2 then .bf16 else .fp32 }))

/-- The commit of a step written (09 R251, R253); `flags` are SEALED, ZEROED, SKIPPED. -/
def writeCommit (h : Shard) (step fp epoch flags dslot : Nat) : Prog Unit :=
  writeArray (h.at' + 64 + 32 * (step % 2)) (commitBytes h.sid step fp epoch flags dslot)

/-- HALVE: the loss scale is halved once for a step (09 R262). It answers whether the loss granule could be read (09 R260). -/
def halveLoss (step : Nat) : Prog Bool :=
  letI := Prog.monad
  do
  let p ← getF F.RAKE_LOSS_PTR.PTR
  let d ← readArray rakeReq (32 * p) 32
  match d with
  | none => pure false
  | some bs => do
    when (decide (leAt bs 4 4 < step)) do
      let v := val32 (leAt bs 0 4)
      let v' := if v = .fin false (pow2 (-126)) then v else rn32 (v.mul (.fin false (mkRat 1 2)))
      let _ ← writePatches rakeReq (Patch.addBytes (32 * p) (toBytes 4 (bits32 v') ++ toBytes 4 step) [])
      skip
    pure true

/-- The gradient of a shard, GSCALE × G, or zeros (09 R256, R262). -/
def readGrad (h : Shard) (hy : Hyper) (f : Fmt) (zero : Bool) : Prog (List FVal × Bool) :=
  letI := Prog.monad
  do
  let (g, bad) ← readVals f (h.grad / 32 * 32 + 32) h.count
  pure (if zero then List.replicate h.count .zero else g.map (mul32 hy.gs), bad)

/-- The unit of an element: it stands at the controller of the channel of its W line (09, 01 R19). -/
def Shard.unitOf (h : Shard) (d i : Nat) : Nat := channelOf ((h.array d 0 + h.b * i) % 2 ^ 41) / 2

/-- UPDATE past its checks: the new slot written and folded; none where a read was not correctable. -/
def updateSlot (h : Shard) (hy : Hyper) (step d : Nat) (gf : Fmt) (zero : Bool) : Prog (Option Nat) :=
  letI := Prog.monad
  do
  let s ← ask id
  let seed := s.reg .TOP_SR_SEED 0 0
  let e := 1 - d
  let z : FVal := .zero
  let (w, bad1) ← readVals h.fmt (h.array d 0) h.count
  let (m, bad2) ← (if h.rule = 5 then pure ([], false) else readVals h.fmt (h.array d 1) h.count)
  let (g, bad3) ← readGrad h hy gf zero
  let (x, bad4) ← (if h.rule = 5 then readVals .bf16 h.dir h.count else pure ([], false))
  let n2 := if h.rule = 2 then h.count else if h.rule = 4 then h.rows + h.cols else 0
  let (v, bad5) ← (if n2 = 0 then pure ([], false) else h.readM2 d n2)
  let (w', m', v') :=
    if h.rule = 4 then
      let (a, b, r, c) := factored hy h.rows h.cols (h.unitOf d) w m g (v.take h.rows) (v.drop h.rows)
      (a, b, r ++ c)
    else
      let el := (List.range h.count).map (fun i => ruleElem hy h.rule (nth w i z) (nth m i z) (nth v i z) (nth g i z) (nth x i z))
      (el.map (·.1), el.map (fun t => t.2.1), el.map (fun t => t.2.2))
  let (bw, ew) := h.encode seed step 0 w'
  writeArray (h.array e 0) bw
  rakeEvents ew
  let f0 := fpArray 0 bw
  let f1 ← (if h.rule = 5 then pure 0
    else do
      let (bm, em) := h.encode seed step 1 m'
      writeArray (h.array e 1) bm
      rakeEvents em
      pure (fpArray 1 bm))
  let f2 ← (if n2 = 0 then pure 0
    else do
      let (bv, ev) := h.encodeM2 seed step v'
      writeArray (h.array e 2) bv
      rakeEvents ev
      pure (fpArray 2 bv))
  -- FACTORED's M2 folds COUNT elements of its array, as far as they stand (09 R266)
  let f2' ← (if h.rule = 4 then foldSlot rakeReq h e (· == 2) else pure (some f2))
  let (bk, ek) := h.encodeWk seed step w'
  writeArray (h.array e 3) bk
  rakeEvents ek
  let rest ← (if h.rule = 5 then foldSlot rakeReq h e (fun a => a == 1 || decide (4 ≤ a)) else pure (some 0))
  match rest, f2' with
  | some r, some f2 =>
    pure (if bad1 || bad2 || bad3 || bad4 || bad5 then none else some ((f0 + f1 + f2 + fpArray 3 bk + r) % 2 ^ 64))
  | _, _ => pure none

/-- UPDATE and PREP up to the header (09 R261): a status that ends the command, or the committed state and the header. -/
def stepChecks (h : Shard) (c : Option Commit) (step : Nat) : Prog (Nat ⊕ (Commit × GradHeader)) :=
  letI := Prog.monad
  do
  match c with
  | none => pure (.inl 3)
  | some t =>
    if step ≤ t.step then pure (.inl 1)
    else if t.step + 1 != step then pure (.inl 3)
    else do
      let hd ← readHeader h step
      match hd with
      | none => pure (.inl 8)
      | some g => pure (if g.ok then .inr (t, g) else .inl 4)

/-- Whether the policy skips a step whose header says so (09 R262). -/
def skips (policy : Nat) (g : GradHeader) : Bool := g.jobNf && policy != 1

/-- UPDATE (09 R261, R262). -/
def updateCmd (k : RakeRun) (h : Shard) (t : Option Commit) : Prog Nat :=
  letI := Prog.monad
  let c := k.cmd
  let step := fld (nth c 0 0).toNat 31 0
  let policy := k.policy
  do
  let r ← stepChecks h t step
  match r with
  | .inl st => pure st
  | .inr (t, g) =>
    if skips policy g then do
      let ok ← if policy = 2 then halveLoss step else pure true
      if !ok then pure 8
      else do
        writeCommit h step t.fp t.epoch 1 t.dslot
        incF F.RAKE_EVENTS.SKIPS 0 0 1
        pure 2
    else do
      let zero := policy == 1 && g.nf
      let f ← updateSlot h (Hyper.ofCmd c) step t.dslot g.fmt zero
      match f with
      | none => pure 8
      | some fp => do
        writeCommit h step fp (fld (nth c 6 0).toNat 63 32) (if zero then 2 else 0) (1 - t.dslot)
        incF F.RAKE_EVENTS.UPDATES 0 0 1
        when zero (incF F.RAKE_EVENTS.ZEROED 0 0 1)
        pure 0

/-- PREP (09 R261): DIRECTION only; M1 of the other slot. -/
def prepCmd (k : RakeRun) (h : Shard) (t : Option Commit) : Prog Nat :=
  letI := Prog.monad
  let c := k.cmd
  let step := fld (nth c 0 0).toNat 31 0
  let policy := k.policy
  do
  if h.rule != 5 then pure 6
  else do
    let r ← stepChecks h t step
    match r with
    | .inl st => pure st
    | .inr (t, g) =>
      if skips policy g then pure 2
      else do
        let hy := Hyper.ofCmd c
        let s ← ask id
        let (m, bad1) ← readVals h.fmt (h.array t.dslot 1) h.count
        let (gr, bad2) ← readGrad h hy g.fmt (policy == 1 && g.nf)
        let m' := List.zipWith (fun m g => add32 (mul32 hy.b1 m) g) m gr
        let (bm, em) := h.encode (s.reg .TOP_SR_SEED 0 0) step 1 m'
        writeArray (h.array (1 - t.dslot) 1) bm
        rakeEvents em
        pure (if bad1 || bad2 then 8 else 0)

/-- SEAL (09 R261). -/
def sealCmd (k : RakeRun) (h : Shard) (t : Option Commit) : Prog Nat :=
  letI := Prog.monad
  let c := k.cmd
  do
  let w0 := (nth c 0 0).toNat
  let step := fld w0 31 0
  let s ← ask id
  let e := match t with
    | some t => 1 - t.dslot
    | none => b2n (w0.testBit 49)
  let bad ← (if w0.testBit 48 then do
      let (w, bad) ← readVals h.fmt (h.array e 0) h.count
      let (bk, ek) := h.encodeWk (s.reg .TOP_SR_SEED 0 0) step w
      writeArray (h.array e 3) bk
      rakeEvents ek
      pure bad
    else pure false)
  let f ← foldSlot rakeReq h e (fun _ => true)
  match f with
  | some fp =>
    if bad then pure 8
    else do
      writeCommit h step fp (fld (nth c 6 0).toNat 63 32) 4 e
      pure 0
  | none => pure 8

/-- VERIFY (09 R261): the committed slot refolded. -/
def verifyCmd (h : Shard) (t : Option Commit) : Prog Nat :=
  letI := Prog.monad
  do
  match t with
  | none => pure 3
  | some t => do
    let f ← foldSlot rakeReq h t.dslot (fun _ => true)
    pure (match f with
      | none => 8
      | some fp => if fp = t.fp then 0 else 7)

/-! The ring (09 R259, R275). -/

/-- Entries of the ring. -/
def State.rakeSize (s : State) : Nat := 2 ^ min 16 (max 4 (s.field F.RAKE_RING_SIZE.LOG2 0 0))

/-- Where ring entry k lies. -/
def State.rakeEntry (s : State) (k : Nat) : Nat := (64 * s.field F.RAKE_RING_BASE.BASE 0 0 + 64 * (k % s.rakeSize)) % 2 ^ 41

/-- HEAD is a number of an entry modulo the ring's size, also when a smaller size is written (09 R275). -/
def wrapHead : Prog Unit :=
  .get (fun s => setF F.RAKE_RING_PTRS.HEAD 0 0 (s.field F.RAKE_RING_PTRS.HEAD 0 0 % s.rakeSize))

/-- The next command is taken if the Rake is idle, not draining, not held, and the ring has one. -/
def rakeKick : Prog Unit :=
  letI := Prog.monad
  do
  let s ← ask id
  let head := s.field F.RAKE_RING_PTRS.HEAD 0 0 % s.rakeSize
  let tail := s.field F.RAKE_RING_PTRS.TAIL 0 0 % s.rakeSize
  when (s.rake.run.isNone && !s.rake.draining && !s.hushed && head != tail) do
    let m ← fetch rakeReq (span (s.rakeEntry head) 64)
    let ws := (List.range 8).map (fun k => m.bytes (s.rakeEntry head + 8 * k) 8)
    let policy ← getF F.RAKE_CONFIG.NF_POLICY
    modRake (fun r => { r with run := some ⟨ws.map (fun w => BitVec.ofNat 64 (w.getD 0)), ws.any Option.isNone, policy⟩ })
    setF F.RAKE_STATUS.BUSY 0 0 1
    setF F.RAKE_STATUS.UNITS_BUSY 0 0 32

/-- A command completes: word 7, the signal, the status, its event; the next one starts. -/
def rakeFinish (c : List Word) (status sid : Nat) : Prog Unit :=
  letI := Prog.monad
  do
  let s ← ask id
  let w0 := (nth c 0 0).toNat
  let head := s.field F.RAKE_RING_PTRS.HEAD 0 0
  let _ ← writePatches rakeReq (Patch.addNum (s.rakeEntry head + 56) 8 (place 63 63 1 + place 55 48 status) false [])
  when (w0.testBit 47) (.get (fun s => match s.siteOf (fld w0 46 40) with
    | some i => if s.deaf i then skip else addF F.CORE_CC.VALUE i (fld w0 39 36) 1
    | none => skip))
  setF F.RAKE_STATUS.LAST_STEP 0 0 (fld w0 31 0)
  setF F.RAKE_STATUS.LAST_STATUS 0 0 status
  when (decide (3 ≤ status)) (incF F.RAKE_EVENTS.ERRORS 0 0 1)
  setF F.RAKE_STATUS.BUSY 0 0 0
  setF F.RAKE_STATUS.UNITS_BUSY 0 0 0
  setF F.RAKE_RING_PTRS.HEAD 0 0 ((head + 1) % s.rakeSize)
  modRake (fun r => { r with run := none })
  traceEvent 7 2 0 7 0 0 (place 63 32 (fld w0 31 0) + place 31 24 status + place 23 16 (fld w0 63 56)) sid
  rakeKick

/-- The local offsets that the unit of element i of a shard reads and writes for it. -/
def Shard.touches (h : Shard) (i : Nat) : List Nat :=
  ([0, 1].map (fun s => h.used.map (fun a => (h.array s a.1 + a.2 * i / max 1 h.count) % 2 ^ 41))).flatten ++
    [h.grad, (h.grad / 32 * 32 + 32 + 4 * i) % 2 ^ 41, (h.grad / 32 * 32 + 32 + 2 * i) % 2 ^ 41] ++
    (if h.rule = 5 then [(h.dir + 2 * i) % 2 ^ 41] else [])

/-- Whether a lost seam channel holds traffic between a unit of the Rake, at its memory stop, and what it reads and writes (01 R17, R19). -/
def State.rakeHeld (s : State) (r : RakeRun) : Bool :=
  !s.noc.seams.isEmpty && (match ((readShard rakeReq (nth r.cmd 1 0).toNat).run s).1 with
    | none => false
    | some (h, _) => (List.range h.count).any (fun i =>
        let stop := channelStop (channelOf ((h.array 0 0 + h.b * i) % 2 ^ 41))
        (h.touches i).any (s.pathCut stop)))

/-- The command in execution, if it has one of the given operations, runs and completes. An UPDATE of a shard that is being
replaced under ADOPT waits (09 R268), and so does a command of whose traffic a lost seam channel holds some. -/
def rakeRun (ops : Nat → Bool) (body : RakeRun → Shard → Option Commit → Prog Nat) : Prog Unit :=
  letI := Prog.monad
  do
  let s ← ask id
  match s.rake.run with
  | none => skip
  | some r =>
    let w0 := (nth r.cmd 0 0).toNat
    let record := fld (nth r.cmd 1 0).toNat 40 0 / 32 * 32
    when (ops (fld w0 63 56) && !s.hushed && !s.rakeHeld r && !(fld w0 63 56 == 1 && s.rake.adopt.any (fun a => a.1 == record))) do
      if r.bad then rakeFinish r.cmd 8 0
      else if !(decide (1 ≤ fld w0 63 56) && decide (fld w0 63 56 ≤ 4)) then rakeFinish r.cmd 5 0
      else do
        let x ← readShard rakeReq (nth r.cmd 1 0).toNat
        match x with
        | none => rakeFinish r.cmd 8 0
        | some (h, t) =>
          if h.badRule then rakeFinish r.cmd 6 h.sid
          else do
            let st ← body r h t
            rakeFinish r.cmd st h.sid

def updateProg : Prog Unit := rakeRun (· == 1) updateCmd
def execUpdate (s : State) : Host.Outcome State Fault Refusal := Prog.next updateProg s
def prepProg : Prog Unit := rakeRun (· == 2) prepCmd
def execPrep (s : State) : Host.Outcome State Fault Refusal := Prog.next prepProg s
def sealProg : Prog Unit := rakeRun (· == 3) sealCmd
def execSeal (s : State) : Host.Outcome State Fault Refusal := Prog.next sealProg s
def verifyProg : Prog Unit := rakeRun (· == 4) (fun _ => verifyCmd)
def execVerify (s : State) : Host.Outcome State Fault Refusal := Prog.next verifyProg s
def rakeBadOpProg : Prog Unit := rakeRun (fun o => o == 0 || decide (4 < o)) (fun _ _ _ => .pure 5)
def execRakeBadOp (s : State) : Host.Outcome State Fault Refusal := Prog.next rakeBadOpProg s

/-- TAIL written (09 R275). -/
def rakeDoorbell (tail : Nat) : Prog Unit := (setF F.RAKE_RING_PTRS.TAIL 0 0 tail).bind (fun _ => rakeKick)
def execRakeDoorbell (tail : BitVec 32) (s : State) : Host.Outcome State Fault Refusal := Prog.next (gated (Reg.addr .RAKE_RING_PTRS 0 0) (rakeDoorbell tail.toNat)) s

/-- RAKE_CTRL.DRAIN. -/
def rakeDrain : Prog Unit :=
  (modRake (fun r => { r with draining := true })).bind (fun _ => setF F.RAKE_STATUS.DRAINING 0 0 1)
def execRakeDrain (s : State) : Host.Outcome State Fault Refusal := Prog.next (gated (Reg.addr .RAKE_CTRL 0 0) rakeDrain) s

/-- What a command does by its operation. -/
def rakeBody (op : Nat) : RakeRun → Shard → Option Commit → Prog Nat :=
  match op with
  | 1 => updateCmd
  | 2 => prepCmd
  | 3 => sealCmd
  | 4 => fun _ => verifyCmd
  | _ => fun _ _ _ => .pure 5

/-- The shard of the command in execution, and the granules that it would write but for its commit granules, with what stands there and
what it would leave. -/
def State.rakeReach (s : State) (r : RakeRun) : Nat × List (Nat × Gran × Gran) :=
  match ((readShard rakeReq (nth r.cmd 1 0).toNat).run s).1 with
  | some (h, t) =>
    if r.bad || h.badRule then (h.sid, [])
    else
      let s1 := ((rakeBody (fld (nth r.cmd 0 0).toNat 63 56) r h t).run s).2
      (h.sid, (s.writtenIn s1).filter (fun g => g.1 != h.at' / 32 + 2 && g.1 != h.at' / 32 + 3))
  | none => (0, [])

/-- A command cut off before its commit: of what it was writing, whichever whole granules were written stand (09 R261, R262, R265, 10
R289). -/
def rakeCut : Prog Unit :=
  .get (fun s => match s.rake.run with
    | some r => partly (s.rakeReach r).2
    | none => skip)

/-- RAKE_CTRL.ABORT: the current command ends with ABORTED and no commit, then as DRAIN. -/
def rakeAbort : Prog Unit :=
  letI := Prog.monad
  do
  rakeDrain
  let s ← ask id
  match s.rake.run with
  | some r => do
    rakeCut
    rakeFinish r.cmd 9 (s.rakeReach r).1
  | none => skip
def execRakeAbort (s : State) : Host.Outcome State Fault Refusal := Prog.next (gated (Reg.addr .RAKE_CTRL 0 0) rakeAbort) s

/-- RAKE_CTRL.RESUME. -/
def rakeResume : Prog Unit :=
  letI := Prog.monad
  do
  modRake (fun r => { r with draining := false })
  setF F.RAKE_STATUS.DRAINING 0 0 0
  rakeKick
def execRakeResume (s : State) : Host.Outcome State Fault Refusal := Prog.next (gated (Reg.addr .RAKE_CTRL 0 0) rakeResume) s

end Sys2Proof.Machine
end

