-- ==== Sys2Proof/Machine/Coll.lean ====
section
/-!
DEFINITION. What the collective engine is made of: records and tables, elements as they travel, stores, barriers
(spec 12 R336 to R346, R353, R367).
-/
namespace Sys2Proof.Machine
open Prog hiding pure bind get op run monad

/-- The format code of a WIRE format (12 R341). -/
def wireCode (wire : Nat) : Nat := if wire = 0 then 0 else if wire = 1 then 2 else 9

/-- The requester of a run. -/
def CollRun.req (r : CollRun) : Req := collReq r.site r.flight.word

/-- FAB_LAYOUT.EPOCH[7:0] at the moment of sending (12 R336). -/
def State.lepoch (s : State) : Nat := s.field F.FAB_LAYOUT.EPOCH 0 0 % 256

/-- A global address. -/
def globalAddr (dev off : Nat) : Nat := place 63 62 1 + place 56 42 dev + place 40 0 off

/-! Tables (12 R342 to R344). -/

/-- A number of a table; a granule that is not correctable reads 0. -/
def numAt (rq : Req) (a n : Nat) : Prog Nat :=
  letI := Prog.monad
  do
  let v ← readNum rq (a % 2 ^ 64) n
  pure (v.getD 0)

/-- A group table: its entries and MY_RANK; none where SIZE is not in its range. -/
def readGroup (rq : Req) (p top : Nat) : Prog (Option (List Nat × Nat)) :=
  letI := Prog.monad
  do
  let n ← numAt rq p 4
  let k ← numAt rq (p + 4) 4
  if decide (1 ≤ n) && decide (n ≤ top) then do
    let m ← fetch rq (span (p + 8) (2 * n))
    pure (some ((List.range n).map (fun j => (m.bytes ((p + 8 + 2 * j) % 2 ^ 64) 2).getD 0), k))
  else pure none

/-- A segment table. -/
def readSegs (rq : Req) (p n : Nat) : Prog (List (Nat × Nat × Nat)) :=
  letI := Prog.monad
  do
  let m ← fetch rq (span p (32 * n))
  let at' k j := (m.bytes ((p + 32 * k + 8 * j) % 2 ^ 64) 8).getD 0
  pure ((List.range n).map (fun k => (at' k 0, at' k 1, fld (at' k 2) 40 0 / 32 * 32)))

/-- A tree table: four words an entry. -/
def readTrees (rq : Req) (p : Nat) : Prog (List (List Nat)) :=
  letI := Prog.monad
  do
  let n ← numAt rq p 4
  let m ← fetch rq (span (p + 32) (32 * n))
  pure ((List.range n).map (fun k => (List.range 4).map (fun j => (m.bytes ((p + 32 + 32 * k + 8 * j) % 2 ^ 64) 8).getD 0)))

def treeType (e : List Nat) : Nat := fld (nth e 2 0) 55 48
def treeRound (e : List Nat) : Nat := fld (nth e 2 0) 63 56
def treeSeg (e : List Nat) : Nat := fld (nth e 2 0) 31 0
def treeTag (e : List Nat) : Nat := fld (nth e 0 0) 49 34
def treeMc (e : List Nat) : Bool := (nth e 0 0).testBit 62
def treeLocal (e : List Nat) : Bool := (nth e 0 0).testBit 61
def treeOut (e : List Nat) : Nat := fld (nth e 0 0) 60 54

/-- The TYPE 0 entries of a round written into FAB_TREE, in order (12 R344). -/
def loadTrees (es : List (List Nat)) (round : Nat) : Prog Unit :=
  each (es.filter (fun e => treeType e == 0 && treeRound e == round)) (fun e =>
    (setR .FAB_TREE 0 (treeTag e % 1024) (nth e 0 0)).bind (fun _ => setR .FAB_TREE_LINKS 0 (treeTag e % 1024) (nth e 1 0)))

/-- The last round of a tree table. -/
def lastRound (es : List (List Nat)) : Nat := (es.filter (fun e => treeType e == 0)).foldl (fun a e => max a (treeRound e)) 0

/-! Elements as they travel. -/

/-- The bytes of elements of one width laid out one after another, with the mark of each byte. -/
def packBits (width : Nat) (els : List (Nat × Bool)) : List (Byte × Bool) :=
  if width = 4 then
    (List.range (ceilDiv els.length 2)).map (fun k =>
      let a := nth els (2 * k) (0, false)
      let b := nth els (2 * k + 1) (0, false)
      (BitVec.ofNat 8 (a.1 % 16 + 16 * (b.1 % 16)), a.2 || b.2))
  else (els.map (fun e => (toBytes (width / 8) e.1).map (fun b => (b, e.2)))).flatten

/-- Bytes cut into granules, poison-marked where a byte is marked; bytes that fill the last granule are free (log 1). -/
def packGrans (bs : List (Byte × Bool)) : Prog (List Gran) :=
  letI := Prog.monad
  do
  let pad ← collect (List.range (roundUp bs.length 32 - bs.length)) (fun _ => fresh 8)
  let all := bs ++ pad.map (fun v => (BitVec.ofNat 8 v, false))
  pure ((chunksOf 32 all).map (fun c => if c.any (·.2) then .poisoned (c.map (·.1)) else .valid (c.map (·.1))))

/-- The bits of elements of a descriptor in its own format, copied (02 R48): FILL beyond the extents (05 R149, R150). -/
def copyEls (rq : Req) (d : Desc) (ixs : List (List Nat)) : Prog (List (Nat × Bool)) :=
  letI := Prog.monad
  do
  let m ← fetchCopy rq (granulesOf ((ixs.filter d.inside).map (fun ix => d.bytesAt (d.number ix))).flatten)
  pure (ixs.map (fun ix =>
    if d.inside ix then
      let n := d.number ix
      let bs := (d.bytesAt n).map (copyByte m)
      let v := leAt (bs.map (fun b => BitVec.ofNat 8 b.1)) 0 bs.length
      (if d.fmt!.width = 4 then (if n % 2 = 0 then v % 16 else v / 16) else v, bs.any (·.2))
    else (d.fillBits, false)))

/-- One element read for conversion: its value, and whether a granule of it failed. -/
structure ElIn where
  val  : FVal
  bad  : Bool

/-- Elements of a one-dimensional descriptor read as values, FILL beyond the extents. -/
def readEls (rq : Req) (d : Desc) (is : List Nat) : Prog (List ElIn) :=
  letI := Prog.monad
  do
  let m ← fetch rq ((is.filter (fun i => d.inside [i])).map (fun i => d.needs (d.number [i]))).flatten
  pure (is.map (fun i =>
    if d.inside [i] then
      let n := d.number [i]
      { val := d.valueIn m n, bad := (d.bitsIn m n).isNone }
    else { val := d.fillElem, bad := false }))

/-- Elements of SB as WIRE bits under RND, keyed by their index in SB and TENSOR of SB (12 R346), and whether any of them, FILL beyond
the extents included, is not finite (12 R348). Equal formats keep their bits. The engine's conversions count in no CORE_QNT_EVENTS
(02 R75). -/
def wireEls (r : CollRun) (is : List Nat) : Prog (List (Nat × Bool) × Bool) :=
  letI := Prog.monad
  do
  let sb := r.desc 1
  let s ← ask id
  let code := wireCode r.wire
  if sb.code = code then do
    let bits ← copyEls r.req sb (is.map (fun i => [i]))
    pure (bits, bits.any (fun b => !(if b.2 then sb.fmt!.failed else sb.fmt!.decode b.1).isFinite))
  else do
    let es ← readEls r.req sb is
    let nf := es.any (fun e => !e.val.isFinite)
    let f := (Fmt.ofCode code).getD .fp32
    let cs := List.zipWith (fun (i : Nat) (e : ElIn) =>
      (f.convert (Rnd.ofField (wRnd r.flight.word) (srBits (s.reg .TOP_SR_SEED 0 0) r.flight.step sb.tensor (i % 2 ^ 40))) e.val, e.bad)) is es
    pure (cs.map (fun c => (c.1.1, c.2)), nf)

/-- `n` elements of SB from `first` on as SC's bits, converted at the sender (12 R351; keyed by TENSOR of SC and the index in SB, log 25),
with the scales of an HB4 SC, one for every 32 elements from the segment's first on (02 R58, R59; log 161). -/
def sendEls (r : CollRun) (first n : Nat) : Prog (List (Nat × Bool) × List (Nat × Bool)) :=
  letI := Prog.monad
  do
  let sb := r.desc 1
  let sc := r.desc 2
  let is := (List.range n).map (· + first)
  if sb.code = sc.code then do
    let els ← copyEls r.req sb (is.map (fun i => [i]))
    pure (els, [])
  else do
    let s ← ask id
    let es ← readEls r.req sb is
    let els := List.zipWith (fun (j : Nat) (e : ElIn) => ((j : Int), (first + j) % 2 ^ 40, e.val)) (List.range n) es
    let (codes, scales, _) := sc.encode (s.reg .TOP_SR_SEED 0 0) r.flight.step (wRnd r.flight.word) els
    let bad (j : Nat) : Bool := match es[j]? with | some e => e.bad | none => false
    pure ((List.range n).map (fun (j : Nat) => (((codes.find? (fun c => c.1 == (j : Int))).map (·.2)).getD 0, bad j)),
      scales.map (fun c => (c.2, (List.range 32).any (fun k => bad (32 * c.1.toNat + k)))))

/-! Counters and stores. -/

/-- CORE_CC[cc] of a logical core. -/
def State.ccValue (s : State) (core cc : Nat) : Nat :=
  match s.siteOf core with
  | some i => s.field F.CORE_CC.VALUE i cc
  | none => 0

/-- Subtracted from CORE_CC[cc] of a logical core. -/
def ccTake (core cc n : Nat) : Prog Unit :=
  .get (fun s => match s.siteOf core with
    | some i => setF F.CORE_CC.VALUE i cc (s.field F.CORE_CC.VALUE i cc - n)
    | none => skip)

/-- A granule as it travels placed at a local offset, its check bytes unchanged. -/
def landRaw (off : Nat) (g : Gran) : Prog Unit :=
  (placeGran off g).bind (fun _ => landed off 1 (b2n (g.err % 2 ^ 32 == poisonErr)))

/-- Result granules of a run written poison-marked (12 R345). -/
def poisoned (id n : Nat) : Prog Unit :=
  when (n != 0) (modRun id (fun r => { (r.fail 1) with poison := r.poison + n }))

/-- Granules of a run sent to a device as TC1 STOREs, the last with a signal; to this device, written here with the same
signal. -/
def sendTo (r : CollRun) (dev off : Nat) (gs : List Gran) (sig : Option (Nat × Nat)) : Prog Unit :=
  letI := Prog.monad
  do
  let s ← ask id
  if dev = s.ownId then do
    each (List.range gs.length) (fun k => placeGran ((fld off 40 0 / 32 * 32 + 32 * k) % 2 ^ 41) (nth gs k (.valid (zeroBytes 32))))
    poisoned r.id (gs.filter (fun g => g.err % 2 ^ 32 == poisonErr)).length
    match sig with
    | some (c, n) => signalCC c n
    | none => skip
  else
    let sg : Signal := match sig with
      | some (c, n) => { sig := true, core := c, cc := n }
      | none => {}
    sendStores (.coll r.id) 1 (s.collStream r.site) s.lepoch sg
      ((List.range gs.length).map (fun k => (globalAddr dev (fld off 40 0 / 32 * 32 + 32 * k), nth gs k (.valid (zeroBytes 32)))))

/-- The scales of a segment sent to a device, for an HB4 SC: they stand at SC's scale array by the place of DEST behind SC's BASE, in whole
granules whose other bytes are free (02 R58; DESIGN CHOICE, log 161). -/
def sendScales (r : CollRun) (dev dest : Nat) (scales : List (Nat × Bool)) : Prog Unit :=
  letI := Prog.monad
  do
  let sc := r.desc 2
  let a := wrap 41 ((sc.scl : Int) + 2 * (((dest : Int) - (sc.base % 2 ^ 41 : Nat)) / 16))
  when (!scales.isEmpty) do
    let pad ← collect (List.range (a % 32 / 2)) (fun _ => fresh 16)
    let gs ← packGrans (packBits 16 (pad.map (fun v => (v, false)) ++ scales))
    sendTo r dev a gs none

/-- A STORE of one granule that only carries a signal; its content is free (log 1). -/
def sendSignal (r : CollRun) (dev off core cc : Nat) : Prog Unit :=
  letI := Prog.monad
  do
  let v ← fresh 256
  sendTo r dev off [.valid (toBytes 32 v)] (some (core, cc))

/-- Whether packets of a run wait at their source, or await their answers. -/
def State.collHeld (s : State) (id : Nat) : Bool := s.fabric.held.any (fun h => h.req.origin == .coll id)
def State.collOpen (s : State) (id : Nat) : Bool :=
  s.collHeld id || s.fabric.reqs.any (fun q => q.origin == .coll id && q.op == 2)

/-- A tree packet of a run on TC1 (12 R336). -/
def treePacket (s : State) (r : CollRun) (op fmt : Nat) (ord poison : Bool) (addr w2 w3 : Nat) (gs : List Gran) : Packet :=
  { w0 := BitVec.ofNat 64 (place 63 60 op + place 59 58 1 + place 57 54 gs.length + place 50 50 (b2n ord) + place 49 49 (b2n poison) +
      place 48 47 fmt + place 44 30 s.ownId + place 7 0 (s.collStream r.site))
    w1 := BitVec.ofNat 64 addr
    w2 := BitVec.ofNat 64 w2
    w3 := BitVec.ofNat 64 w3
    grans := gs.map burstOf }

/-! Barriers (12 R353). -/

/-- The key of a barrier packet: TAG_BASE, SEQ, and the round (word 1 [39:32], DESIGN CHOICE, log 26). -/
def syncKey (g : Gran) : Nat × Nat × Nat :=
  let w := leAt g.data 8 8
  (fld w 63 48, fld w 31 0, fld w 39 32)

/-- A barrier packet to a device: TC0, KIND 0x01, one granule. -/
def syncPacket (s : State) (stream dev : Nat) (k : BarrierKey) (word lastDev lastTime : Nat) : Packet :=
  { w0 := BitVec.ofNat 64 (place 63 60 0xA + place 57 54 1 + place 44 30 s.ownId + place 7 0 stream)
    w1 := BitVec.ofNat 64 (globalAddr dev 0)
    w2 := 1
    w3 := 0
    grans := [burstOf (.valid (toBytes 8 word ++ toBytes 8 (place 63 48 k.tag + place 39 32 k.round + place 31 0 k.seq) ++
      toBytes 8 lastDev ++ toBytes 8 lastTime))] }

def BarrierKey.children (k : BarrierKey) : Nat := fld k.entry 22 16
def BarrierKey.root (k : BarrierKey) : Bool := k.entry.testBit 15
def BarrierKey.parent (k : BarrierKey) : Nat := fld k.entry 14 0

/-- Whether a key has all that it gathers. -/
def BarrierKey.ready (k : BarrierKey) : Bool :=
  k.mine.isSome && !k.sent && k.done.isNone && decide (k.children ≤ k.kids.length)

/-- The OR of a key's words, with the device and time of the latest arrival; the own part first. -/
def BarrierKey.result (k : BarrierKey) : Nat × Nat × Nat :=
  k.kids.foldl (fun a c => (a.1 ||| c.2.1, if a.2.2 < c.2.2.2 then (c.2.2.1, c.2.2.2) else a.2)) (k.mine.getD (0, 0, 0))

def modKey (tag seq round : Nat) (f : BarrierKey → BarrierKey) : Prog Unit :=
  modColl (fun c => { c with keys := c.keys.map (fun k => if k.tag = tag && k.seq == seq && k.round == round then f k else k) })

/-- The stream of a barrier packet: that of the run that waits on the key. -/
def State.keyStream (s : State) (k : BarrierKey) : Nat :=
  match s.coll.runs.find? (fun r => r.bkey == some (k.tag, k.seq, k.round)) with
  | some r => s.collStream r.site
  | none => 1

/-- The release of a key: it travels to the children, and the run that waits on it may go on. -/
def releaseKey (k : BarrierKey) (word dev time : Nat) : Prog Unit :=
  letI := Prog.monad
  do
  let s ← ask id
  modKey k.tag k.seq k.round (fun x => { x with done := some (word, dev) })
  each k.kids (fun c => sendPacket (syncPacket s (s.keyStream k) c.1 k word dev time))

/-- A key that has gathered all is released at the root and sent to the parent elsewhere. -/
def pumpKey (k : BarrierKey) : Prog Unit :=
  letI := Prog.monad
  do
  let s ← ask id
  when k.ready do
    let (word, dev, time) := k.result
    if k.root then releaseKey k word dev time
    else do
      modKey k.tag k.seq k.round (fun x => { x with sent := true })
      sendPacket (syncPacket s (s.keyStream k) k.parent k word dev time)

/-- Every key pumped; released keys that no run waits on are forgotten. -/
def pumpKeys : Prog Unit :=
  letI := Prog.monad
  do
  let ks ← ask (·.coll.keys)
  each ks pumpKey
  modColl (fun c => { c with keys := c.keys.filter (fun k =>
    k.done.isNone || c.runs.any (fun r => r.bkey == some (k.tag, k.seq, k.round))) })

/-- The TYPE 1 entry of round 0; without one the key never has all that it waits for. -/
def CollRun.barrierEntry (r : CollRun) : Nat :=
  match r.trees.find? (fun e => treeType e == 1 && treeRound e == 0) with
  | some e => nth e 0 0
  | none => place 22 16 127

/-- What a run waits on at a barrier key (12 R369): while children are missing, the lowest-numbered of them, then no peer. No table names
the children (12 R344), so that which member of the group it is, among those of which enough others are left, is free (log 116). -/
def nameChild (id tag seq round : Nat) : Prog Unit :=
  letI := Prog.monad
  do
  let s ← ask (fun s => s)
  match s.coll.keys.find? (fun k => k.tag == tag && k.seq == seq && k.round == round) with
  | none => skip
  | some k =>
    if k.kids.length < k.children then do
      let v ← fresh 15
      modRun id (fun x =>
        let may := (x.group.filter (fun d => d != s.ownId && d != k.parent && !(k.kids.any (fun c => c.1 == d)))).foldl (fun l d => addAsc d l) []
        let left := k.children - k.kids.length
        { x with wait := ⟨2, true, if left ≤ may.length then nth may (v % (may.length + 1 - left)) 0 else v, tag⟩ })
    else modRun id (fun x => { x with wait := ⟨2, false, 0, tag⟩ })

/-- A run enters a barrier with its word and its time, unless the engine's 16 keys are taken; it answers whether it has entered. -/
def barrierEnter (r : CollRun) (seq round word time : Nat) : Prog Bool :=
  letI := Prog.monad
  do
  let s ← ask id
  let is (k : BarrierKey) : Bool := k.tag == r.tagBase && k.seq == seq && k.round == round
  let known := s.coll.keys.any is
  if !known && decide (16 ≤ s.coll.keys.length) then pure false
  else do
    when (!known) (modColl (fun c => { c with keys := c.keys ++ [⟨r.tagBase, seq, round, [], none, 0, 0, false, none⟩] }))
    modKey r.tagBase seq round (fun k => { k with mine := some (word, s.ownId, time), entry := r.barrierEntry })
    modRun r.id (fun x => { x with bkey := some (r.tagBase, seq, round) })
    nameChild r.id r.tagBase seq round
    pumpKeys
    pure true

/-- SEQ of the next BARRIER with a TAG_BASE, counted (12 R353; the first is 0, log 27). -/
def nextSeq (tag : Nat) : Prog Nat :=
  letI := Prog.monad
  do
  let s ← ask id
  let n := ((s.coll.seqs.find? (fun e => e.1 == tag)).map (·.2)).getD 0
  modColl (fun c => { c with seqs := (tag, (n + 1) % 2 ^ 32) :: c.seqs.filter (fun e => e.1 != tag) })
  pure n

/-- BARRIERs counted so far with a TAG_BASE. -/
def State.seqOf (s : State) (tag : Nat) : Nat := ((s.coll.seqs.find? (fun e => e.1 == tag)).map (·.2)).getD 0

/-- The release of the key that a run waits on, if it has come: the key is left, and cycles of a core's wait are attributed to
LAST_DEV (12 R369). -/
def barrierDone (r : CollRun) : Prog (Option Nat) :=
  letI := Prog.monad
  do
  let s ← ask id
  match s.coll.keys.find? (fun k => r.bkey == some (k.tag, k.seq, k.round)) with
  | none => pure none
  | some k =>
    match k.done with
    | none => pure none
    | some (word, dev) => do
      modColl (fun c => { c with keys := c.keys.filter (fun x => !(x.tag == k.tag && x.seq == k.seq && x.round == k.round)) })
      modRun r.id (fun x => { x with bkey := none, wait := ⟨0, false, 0, 0⟩ })
      let v := s.reg .CORE_COLL_WAIT r.site 0
      when (v.testBit 63 && fld v 62 60 == 2)
        (setR .CORE_COLL_WAIT r.site 0 (waitWord ⟨2, true, dev, r.tagBase⟩))
      pure (some word)

/-- Whether a BARRIER in execution has still to enter a key: that of its own round while the engine's keys are taken, or that of a later
round of its trees (12 R344, R353). -/
def CollRun.toEnter (r : CollRun) (tag seq round : Nat) : Bool :=
  r.op == 5 && !r.ended && r.tagBase == tag && r.seq == seq &&
    ((round == 0 && r.stage == 0 && r.bkey.isNone) || (decide (r.round < round) && decide (round ≤ lastRound r.trees)))

/-- Whether this device has issued the BARRIER of a key and neither holds the key nor has still to enter it: its run has left it, or was
stopped (12 R336). -/
def State.keyGone (s : State) (tag seq round : Nat) : Bool :=
  decide ((2 ^ 32 + seq - s.seqOf tag % 2 ^ 32) % 2 ^ 32 ≥ 2 ^ 31) && !s.coll.runs.any (fun r => r.toEnter tag seq round)

/-- Whether a gather would open a key beyond the engine's 16: it waits on its channel (12 R353). -/
def State.syncFull (s : State) (p : Packet) : Bool :=
  let (tag, seq, round) := syncKey (granOf (nth p.grans 0 0))
  pOp p == 0xA && fld p.w2.toNat 7 0 == 1 && !(s.coll.keys.any (fun k => k.tag == tag && k.seq == seq && k.round == round)) &&
    !s.keyGone tag seq round && decide (16 ≤ s.coll.keys.length)

/-- A barrier packet arrives (12 R353): a release from the parent, or a gather of a child. A gather of a key not yet issued is held; one
of a key that is gone finds nothing (log 17). -/
def syncArrive (p : Packet) : Prog Unit :=
  letI := Prog.monad
  do
  let s ← ask id
  let d ← packetUse p 0
  let g : Gran := .valid d
  let (tag, seq, round) := syncKey g
  let word := leAt g.data 0 8
  let dev := leAt g.data 16 8
  let time := leAt g.data 24 8
  match s.coll.keys.find? (fun k => k.tag == tag && k.seq == seq && k.round == round) with
  | some k =>
    if k.sent && pSrc p == k.parent then releaseKey k word dev time
    else do
      modKey tag seq round (fun x => { x with kids := x.kids ++ [(pSrc p, word, dev, time)] })
      each (s.coll.runs.filter (fun r => r.bkey == some (tag, seq, round))) (fun r => nameChild r.id tag seq round)
  | none =>
    when (!s.keyGone tag seq round)
      (modColl (fun c => { c with keys := c.keys ++ [⟨tag, seq, round, [(pSrc p, word, dev, time)], none, 0, 0, false, none⟩] }))
  pumpKeys

end Sys2Proof.Machine
end

