-- ==== Sys2Proof/Machine/Engine.lean ====
section
/-!
DEFINITION. Collectives over trees, exchanges, barriers and layout moves: how each starts and goes on
(spec 12 R339, R342, R346 to R354, R367, R368, 09 R268).
-/
namespace Sys2Proof.Machine
open Prog hiding pure bind get op run monad

/-! Conditions of the record and the descriptors (12 R339, R341, R342). -/

/-- A one-dimensional dense descriptor (12 R339). -/
def Desc.flat (d : Desc) : Bool := d.ok && d.rank == 1 && d.sparse == 0

/-- The slots of an operation's data descriptors: 1 SB, 2 SC (12 R339). -/
def CollRun.dataSlots (r : CollRun) : List Nat :=
  match r.op with
  | 0 | 1 | 2 | 3 | 6 | 7 | 11 => [1, 2]
  | 8 => if r.flight.word.toNat.testBit 32 then [2] else [1, 2]
  | 9 => [1]
  | _ => []

/-- The slots of which only BASE is used: SA, and SD where the operation has it (12 R337). -/
def CollRun.baseSlots (r : CollRun) : List Nat :=
  match r.op with
  | 4 | 7 | 8 | 9 | 10 => [0, 3]
  | _ => [0]

/-- A reduction whose SC is not of the record's WIRE format (12 R339). -/
def CollRun.wireSlot (r : CollRun) : Bool :=
  (r.op == 0 || r.op == 1 || r.op == 6) && (r.desc 2).code != wireCode r.wire

/-- The slot that makes an operation a format error whatever its record holds, if one does: a failed load (05 R144), or a descriptor
that breaks the conditions (12 R339). -/
def CollRun.badSlot (r : CollRun) : Option Nat :=
  let w := r.flight.word
  let sb := r.desc 1
  let sc := r.desc 2
  let narrow (d : Desc) : Bool := d.fmt! == .hb4 || d.fmt! == .int4
  let ret := w.toNat.testBit 32
  match r.baseSlots.find? r.flight.lostSlot with
  | some k => some (nth (slotsOf w) k 0)
  | none =>
  match r.op with
  | 0 | 1 | 6 =>
    if !sb.flat || sb.fmt! == .fp24 || narrow sb then some (wSB w)
    else if !sc.flat then some (wSC w) else none
  | 2 | 3 =>
    if !sb.flat then some (wSB w) else if !sc.flat || (narrow sb && sc.code != sb.code) then some (wSC w) else none
  | 7 =>
    if !sb.flat || !(sb.code == 0 || sb.code == 2) then some (wSB w) else if !sc.flat then some (wSC w) else none
  | 8 =>
    if !ret && !sb.flat then some (wSB w) else if !sc.flat || sc.code != 0 then some (wSC w) else none
  | 9 => if !sb.ok || sb.sparse != 0 then some (wSB w) else none
  | 11 =>
    if !sb.flat || fld sb.base 63 62 != 1 then some (wSB w)
    else if !sc.flat || fld sc.base 63 62 != 0 then some (wSC w) else none
  | _ => none

/-! Tree collectives (12 R346 to R350). -/

/-- Bytes of an element of the landing format of a tree collective, times two (4-bit formats take half a byte). -/
def CollRun.landWidth (r : CollRun) : Nat := if r.op = 2 then (r.desc 2).fmt!.width else if r.wire = 1 then 16 else 32

/-- Granules of `n` elements of a width in bits. -/
def granCount (n width : Nat) : Nat := ceilDiv (n * width) 256

/-- What must still land on this device in a round (12 R340, R345, R347, R348, R350). -/
def CollRun.needs (r : CollRun) (round : Nat) : List Landing :=
  let st := fld r.statusPtr 40 0
  let seg (k : Nat) (n : Nat) : Landing :=
    let (_, count, dest) := nth r.segs k (0, 0, 0)
    ⟨dest, dest + ceilDiv (count * r.landWidth) 8, n⟩
  let here := r.trees.filter (fun e => treeType e == 0 && treeRound e == round && decide (treeSeg e < r.size) &&
    (nth r.segs (treeSeg e) (0, 0, 0)).2.1 != 0)
  (here.map (fun e =>
    let k := treeSeg e
    let count := (nth r.segs k (0, 0, 0)).2.1
    if r.op = 2 then
      (if treeMc e && treeLocal e then [seg k (granCount count (r.desc 1).fmt!.width)] else [])
    else if !treeMc e then
      (if treeOut e = 64 && k == r.rank then
        [seg k (granCount count r.landWidth)] ++ (if r.grad then [⟨st + 32, st + 64, 1⟩] else [])
      else [])
    else if r.op = 0 && treeLocal e && k != r.rank then
      [seg k (granCount count r.landWidth)] ++ (if r.grad then [⟨st + 32 * (2 + k), st + 32 * (3 + k), 1⟩] else [])
    else [])).flatten

/-- Whether all that a round needs here has landed. -/
def CollRun.landedAll (r : CollRun) : Bool := r.need.all (fun l => l.left == 0)

/-- The REDUCE packets of one segment on a tree (12 R346), and whether an element read is not finite or failed. -/
def segPackets (r : CollRun) (k tag : Nat) : Prog (List Packet × Bool × Bool) :=
  letI := Prog.monad
  do
  let s ← ask id
  let (first, count, dest) := nth r.segs k (0, 0, 0)
  let lanes := laneCount r.wire
  let (els, nf) ← wireEls r ((List.range count).map (· + first))
  let per := 8 * lanes
  let ps ← collect (List.range (ceilDiv count per)) (fun q => do
    let part := (els.drop (q * per)).take per
    let gs ← packGrans (packBits r.landWidth part)
    let i := first + q * per
    pure (treePacket s r 7 r.wire r.ord (part.any (·.2)) (globalAddr (nth r.group k 0) (dest + (i - first) * r.landWidth / 8))
      (place 63 32 r.flight.step + place 31 8 r.tensor) (place 63 24 (r.elemBase + i) + place 23 8 tag)
      (gs.map (fun g => .valid g.data))))
  pure (ps, nf, els.any (·.2))

/-- The status key of a segment (12 R348). -/
def statusPacket (s : State) (r : CollRun) (k tag : Nat) (nf bad : Bool) : Packet :=
  treePacket s r 7 2 true false (globalAddr (nth r.group k 0) (fld r.statusPtr 40 0 + 32))
    (place 63 32 r.flight.step + place 31 8 r.tensor) (place 63 24 0xFFFFFFFFFF + place 23 8 tag)
    [.valid (toBytes 4 (b2n nf) ++ toBytes 4 1 ++ toBytes 4 (b2n bad) ++ zeroBytes 20)]

/-- All that a reduction sends, by rounds, segments in the order (MY_RANK + 1 + j) mod SIZE (12 R346, R348). -/
def reducePlan (r : CollRun) : Prog (List (Nat × Packet)) :=
  letI := Prog.monad
  do
  let order := (List.range r.size).map (fun j => (r.rank + 1 + j) % r.size)
  let segs := order.filterMap (fun k =>
    if (nth r.segs k (0, 0, 0)).2.1 = 0 then none
    else (r.trees.find? (fun e => treeType e == 0 && !treeMc e && treeSeg e == k)).map (fun e => (k, treeRound e, treeTag e)))
  let parts ← collect segs (fun x => do
    let (ps, nf, bad) ← segPackets r x.1 x.2.2
    pure (x, ps, nf, bad))
  let nf := parts.any (fun p => p.2.2.1)
  let bad := parts.any (fun p => p.2.2.2)
  when (r.grad && nf) (incF F.FAB_COLL_EVENTS.NONFINITE 0 0 1)
  let s ← ask id
  pure ((parts.map (fun p => p.2.1.map (fun q => (p.1.2.1, q)) ++
    (if r.grad then [(p.1.2.1, statusPacket s r p.1.1 p.1.2.2 nf bad)] else []))).flatten)

/-- MCAST packets of at most `per` granules, the q-th landing at `off q` (12 R347, R350). -/
def spread (r : CollRun) (tag per : Nat) (off : Nat → Nat) (gs : List Gran) : Prog Unit :=
  letI := Prog.monad
  do
  let s ← ask id
  let cs := chunksOf per gs
  each (List.range cs.length) (fun q => treeMcast 64 (treePacket s r 8 0 false false (globalAddr s.ownId (off q))
    (place 39 32 s.lepoch + r.flight.step % 2 ^ 32) (place 23 8 tag) (nth cs q [])))

/-- Granules stored at a local offset, as they travel. -/
def rawGrans (rq : Req) (off n : Nat) : Prog (List Gran) :=
  collect (List.range n) (fun k => readRaw rq ((off + 32 * k) % 2 ^ 41))

/-- The source part of an MCAST tree: this rank's segment, from SB under ALL_GATHER, as written under ALL_REDUCE, with its status
granule (12 R347, R348, R350). -/
def castSegment (r : CollRun) (tag : Nat) : Prog Unit :=
  letI := Prog.monad
  do
  let (_, count, dest) := nth r.segs r.rank (0, 0, 0)
  if r.op = 2 then do
    let sb := r.desc 1
    let els ← copyEls r.req sb ((List.range count).map (fun i => [i]))
    let gs ← packGrans (packBits sb.fmt!.width els)
    let per := if sb.fmt! = .fp24 then 6 else 8
    spread r tag per (fun q => dest + q * per * 256 / sb.fmt!.width * (r.desc 2).fmt!.width / 8) gs
  else do
    let gs ← rawGrans r.req dest (granCount count r.landWidth)
    spread r tag 8 (fun q => dest + 256 * q) gs
    when r.grad do
      let st ← rawGrans r.req (fld r.statusPtr 40 0 + 32) 1
      spread r tag 1 (fun _ => fld r.statusPtr 40 0 + 32 * (2 + r.rank)) st

/-- A round begins: its trees are loaded, and what it needs is noted (12 R344). -/
def openRound (r : CollRun) (round : Nat) : Prog Unit :=
  letI := Prog.monad
  do
  loadTrees r.trees round
  modRun r.id (fun x => { x with round := round, stage := 0, need := r.needs round })

/-- REDUCE packets of the round injected while the window and the merge slots allow (12 R326, R346). -/
def inject : Nat → Nat → Prog Unit
  | 0, _ => skip
  | n + 1, id => .get (fun s => match s.coll.runs.find? (fun r => r.id == id) with
    | none => skip
    | some r =>
      match r.todo.find? (fun t => t.1 == r.round) with
      | none => skip
      | some t =>
        let own := (s.fabric.holds.filter (fun h => h.parts.any (fun q => q.1.isNone))).length
        let known := s.fabric.holds.any (fun h => h.parts.any (fun q => sameSpot q.2 t.2))
        let win := max 1 (s.field F.FAB_COLL_CONFIG.WINDOW 0 0)
        if decide (own < win) && (known || decide (s.fabric.holds.length < 256)) then
          (modRun id (fun x => { x with todo := x.todo.erase t })).bind (fun _ =>
            (treeReduce none { t.2 with w2 := BitVec.ofNat 64 (setFld t.2.w2.toNat 7 0 s.lepoch) }).bind (fun _ => inject n id))
        else skip)

/-- What a tree collective waits on: its oldest waiting key, one that it has contributed to or that is of a tree of its own (12 R369). A
key that misses no input waits for its output link, and names no peer. -/
def State.treeWait (s : State) (r : CollRun) : WaitOn :=
  match s.fabric.holds.find? (fun h => h.parts.any (fun q => q.1.isNone) || r.trees.any (fun e => treeType e == 0 && treeTag e == h.tag)) with
  | some h =>
    match (s.treeMissing h).filterMap id, s.treeMissing h with
    | l :: _, _ => ⟨1, true, s.field F.FAB_LINK_STATUS.PEER_DEV l 0, h.tag⟩
    | [], _ :: _ => ⟨1, true, s.ownId, h.tag⟩
    | [], [] => ⟨1, false, 0, h.tag⟩
  | none => ⟨1, false, 0, r.tagBase⟩

/-! Fingerprints (12 R354, 09 R268). -/

/-- A fingerprint block. -/
structure FpBlock where
  n      : Nat
  rank   : Nat
  group  : List Nat
  area   : Nat
  trees  : List (List Nat)
  shards : List Nat

/-- The fingerprint block at FP_PTR; none where its group is too large. -/
def readFp (rq : Req) (p : Nat) : Prog (Option FpBlock) :=
  letI := Prog.monad
  do
  let n ← numAt rq p 4
  let rank ← numAt rq (p + 4) 4
  let gp ← numAt rq (p + 8) 8
  let area ← numAt rq (p + 16) 8
  let tp ← numAt rq (p + 24) 8
  let shards ← collect (List.range n) (fun k => numAt rq (p + 32 + 8 * k) 8)
  let g ← readGroup rq gp 1024
  match g with
  | none => pure none
  | some (l, _) => do
    let ts ← readTrees rq tp
    pure (some ⟨n, rank, l, fld area 40 0 / 32 * 32, ts, shards⟩)

/-- The granule that a member spreads for a shard (12 R354; its layout DESIGN CHOICE, log 28). -/
def fpGranule (sid step fp dev : Nat) : List Byte := toBytes 4 sid ++ toBytes 4 step ++ toBytes 8 fp ++ toBytes 2 dev ++ zeroBytes 14

/-- What must land in the fingerprint area: SIZE × NSHARD granules (12 R354). -/
def FpBlock.landing (b : FpBlock) : Landing := ⟨b.area, b.area + 32 * b.group.length * b.n, b.group.length * b.n⟩

/-- The exchange begins: the trees of FP_TREES are loaded, this member's granules are spread. -/
def fpBegin (r : CollRun) : Prog Unit :=
  letI := Prog.monad
  do
  let b ← readFp r.req r.fpPtr
  match b with
  | none => skip
  | some b => do
    loadTrees b.trees 0
    match b.trees.find? (fun e => treeType e == 0 && treeRound e == 0 && treeMc e && treeSeg e == b.rank) with
    | none => skip
    | some e =>
      each (List.range b.n) (fun i => do
        let own ← ask (·.ownId)
        let x ← readShard r.req (nth b.shards i 0)
        let (sid, step, fp) := match x with
          | some (h, some c) => (h.sid, c.step, c.fp)
          | some (h, none) => (h.sid, 0, 0)
          | none => (0, 0, 0)
        spread r (treeTag e) 1 (fun _ => b.area + 32 * (b.rank * b.n + i)) [.valid (fpGranule sid step fp own)])

/-- The value that more than half of a list holds, if one does. -/
def majority (l : List (Option (List Byte))) : Option (List Byte) :=
  match l.find? (fun v => v.isSome && decide (l.length < 2 * (l.filter (· == v)).length)) with
  | some v => v
  | none => none

/-- A mismatch is recorded if the record is armed (09 R268, R275). -/
def mismatchRecord (dev sid step : Nat) : Prog Unit :=
  .get (fun s => when (!s.flag F.RAKE_MISMATCH.VALID 0 0)
    ((setR .RAKE_MISMATCH 0 0 (place 63 63 1 + place 46 32 dev + place 31 0 sid)).bind (fun _ =>
      (setR .RAKE_MISMATCH_STEP 0 0 step).bind (fun _ => raise 0))))

/-- STOP: a job error, and every core halts at a drain point (09 R268). -/
def mismatchStop : Prog Unit :=
  letI := Prog.monad
  do
  jobError 3
  let s ← ask id
  each s.liveCores haltRequest

/-- A slot begins to be replaced by that of a majority device (09 R268): a copy beside the queues. -/
def adoptBegin (r : CollRun) (shard dev : Nat) : Prog Unit :=
  letI := Prog.monad
  do
  let c ← ask (·.coll)
  modColl (fun c => { c with nextId := c.nextId + 1, runs := c.runs ++ [{
    id := c.nextId, site := r.site, flight := { r.flight with word := 0xF <<< 116 },
    record := [BitVec.ofNat 64 shard, BitVec.ofNat 64 dev], bg := true }] })
  modRake (fun k => { k with adopt := k.adopt ++ [(shard, c.nextId)] })

/-- The comparison of one shard's fingerprints. -/
def fpCompare (r : CollRun) (b : FpBlock) (i : Nat) : Prog Unit :=
  letI := Prog.monad
  do
  let own ← ask (·.ownId)
  let shard := fld (nth b.shards i 0) 40 0 / 32 * 32
  let x ← readShard r.req shard
  match x with
  | none => skip
  | some (h, c) => do
    let hd ← readArray r.req h.grad 32
    let ordered := match hd with
      | some d => (leAt d 4 1).testBit 3
      | none => false
    if !ordered then incF F.RAKE_EVENTS.NOT_COMPARED 0 0 1
    else do
      let vs ← collect (List.range b.group.length) (fun k => do
        let d ← readArray r.req (b.area + 32 * (k * b.n + i)) 32
        pure (d.map (fun d => d.take 16)))
      let devs := b.group
      let best := majority vs
      let differs := (List.range vs.length).filter (fun k => match best with
        | some m => nth vs k none != some m
        | none => false)
      let same := vs.all (fun v => v == vs.head?.getD none)
      let step := (c.map (·.step)).getD 0
      when (!same) do
        let s ← ask id
        match best with
        | none => do
          mismatchRecord (devs.foldl min (devs.head?.getD 0)) h.sid step
          mismatchStop
        | some m => do
          let bad := differs.map (fun k => nth devs k 0)
          mismatchRecord (bad.foldl min (bad.head?.getD 0)) h.sid step
          if s.field F.RAKE_CONFIG.MISMATCH 0 0 = 0 then mismatchStop
          else do
            let good := ((List.range vs.length).filter (fun k => nth vs k none == some m)).map (fun k => nth devs k 0)
            when (bad.contains own) (adoptBegin r shard (good.foldl min (good.head?.getD 0)))

/-- The slot of the majority device copied over the committed slot and sealed with the majority's step (09 R268). Granules that
have not arrived are wanted. -/
def adoptBody (r : CollRun) : Prog Unit :=
  letI := Prog.monad
  do
  let shard := r.w 0
  let dev := r.w 1
  let far (o : Nat) : Nat := globalAddr dev o
  let rq := r.req
  let gs ← collect (List.range 4) (fun k => do
    let g ← readRaw rq (far (shard + 32 * k))
    consume rq (far (shard + 32 * k)) g)
  let words := ((gs.take 2).map (fun g => g.getD (zeroBytes 32))).flatten
  let h := Shard.parse shard (fun k => leAt words (8 * k) 8)
  -- a commit granule that does not decode is not valid, and a record that does not decode shows no state (09 R254)
  let t := if (gs.take 2).any Option.isNone then none
    else committedOf (commitOf h.sid (nth gs 2 none)) (commitOf h.sid (nth gs 3 none))
  let mine ← readShard rakeReq shard
  match mine, t with
  | some (own, some c), some t => do
    each own.used (fun a =>
      each (List.range (ceilDiv (own.kept a) 32)) (fun q => do
        let g ← readRaw rq (far ((h.array t.dslot a.1 + 32 * q) % 2 ^ 41))
        landRaw ((own.array c.dslot a.1 + 32 * q) % 2 ^ 41) g))
    let f ← foldSlot rakeReq own c.dslot (fun _ => true)
    match f with
    | some fp => writeCommit own t.step fp t.epoch 4 c.dslot
    | none => skip
  | _, _ => skip

/-! Gradient headers (12 R349). -/

/-- The deferred headers of an NFSYNC barrier are written with JOB_NF (12 R349). -/
def writeHeaders (r : CollRun) (word : Nat) : Prog Unit :=
  letI := Prog.monad
  each r.nfs (fun h => do
    let d := h.2.1.set 4 (BitVec.ofNat 8 ((nth h.2.1 4 0).toNat + place 2 2 (word % 2)))
    let _ ← writePatches r.req (Patch.addBytes h.1.toNat d [])
    skip)

end Sys2Proof.Machine
end

