-- ==== Sys2Proof/Machine/Pollinator.lean ====
section
/-!
DEFINITION. The Pollinator: DISPATCH and COMBINE, and the stage queues (spec 12 R357 to R364).
-/
namespace Sys2Proof.Machine
open Prog hiding pure bind get op run monad

/-- The Pollinator record (12 R357). -/
structure Poll where
  home   : Nat
  recv   : Nat
  table  : Nat
  stats  : Nat
  e      : Nat
  k      : Nat
  next   : Bool
  cap    : Nat
  row    : Nat
  layer0 : Nat
  el     : Nat
  countp : Nat
  ret    : Nat

def readPoll (rq : Req) (p : Nat) : Prog Poll :=
  letI := Prog.monad
  do
  let m ← fetch rq (span p 64)
  let w k := (m.bytes ((p + 8 * k) % 2 ^ 64) 8).getD 0
  pure { home := w 0, recv := w 1, table := w 2, stats := w 3, e := fld (w 4) 63 48, k := fld (w 4) 47 40,
         next := fld (w 4) 39 32 == 1, cap := fld (w 4) 31 0, row := fld (w 5) 63 32, layer0 := fld (w 5) 31 12,
         el := fld (w 5) 11 0, countp := w 6, ret := w 7 }

/-- Bytes of a request block and of a grant block (12 R358). -/
def Poll.qr (p : Poll) : Nat := 32 * ceilDiv p.el 8
def Poll.qg (p : Poll) : Nat := 32 * ceilDiv p.el 4

/-- Experts of a token by descending score, ties to the lower expert, NaN last (12 R357). -/
def rankExperts (scores : List FVal) : List Nat :=
  let better (a b : FVal) : Bool := if a.isNan then false else if b.isNan then true else b.lt a
  (List.range scores.length).mergeSort (fun i j =>
    let a := nth scores i .nan
    let b := nth scores j .nan
    better a b || (!better b a && decide (i ≤ j)))

/-- The choices of every token and its fallbacks (12 R357). -/
def pollChoices (r : CollRun) (p : Poll) : Prog (List Choice × List Choice) :=
  letI := Prog.monad
  do
  let sb := r.desc 1
  let toks := if p.e = 0 then 0 else sb.extent 0 / p.e
  let es ← readEls r.req sb (List.range (toks * p.e))
  let hm ← fetch r.req (span p.home (4 * p.e))
  let home e := (hm.bytes ((p.home + 4 * e) % 2 ^ 64) 2).getD 0
  let loc e := (hm.bytes ((p.home + 4 * e + 2) % 2 ^ 64) 2).getD 0
  let all := (List.range toks).map (fun t =>
    let sc := ((es.drop (t * p.e)).take p.e).map (·.val)
    ((rankExperts sc).take (2 * p.k)).map (fun e => (t, e, bits32 (nth sc e .nan))))
  let mk (i : Nat) (x : Nat × Nat × Nat) (round : Nat) : Choice :=
    { tok := x.1, i := i, home := home x.2.1, x := loc x.2.1, gate := x.2.2, slot := none, round := round }
  let pick (lo : Nat) (round : Nat) : List Choice :=
    (all.map (fun l => (List.range (min p.k (l.length - lo))).map (fun i => mk i (nth l (lo + i) (0, 0, 0)) round))).flatten
  pure (pick 0 1, pick p.k 2)

/-- Requests of this source for local expert x of home h that have no slot in a round. -/
def asks (cs : List Choice) (round h x : Nat) : Nat :=
  (cs.filter (fun c => c.round == round && c.slot.isNone && c.home == h && c.x == x)).length

/-- The request blocks of a round (12 R358 step 1). -/
def sendRequests (r : CollRun) (p : Poll) (round : Nat) : Prog Unit :=
  each (List.range r.size) (fun h =>
    let bytes := ((List.range p.el).map (fun x => toBytes 4 (asks r.choices round h x))).flatten
    let gs := (List.range (p.qr / 32)).map (fun k => Gran.valid (slice bytes (32 * k) 32))
    sendTo r (nth r.group h 0) (p.countp + p.qr * r.rank) gs (some (r.core, r.ccA)))

/-- The grants of one local expert, sources in ascending rank: first slot and count each (12 R358 step 2). -/
def grantExpert (cap used : Nat) (reqs : List Nat) : List (Nat × Nat) × Nat :=
  reqs.foldl (fun (acc : List (Nat × Nat) × Nat) q =>
    let g := min q (cap - acc.2)
    (acc.1 ++ [(acc.2, g)], acc.2 + g)) ([], used)

/-- The grants of a round by this home (12 R358 step 2). -/
def sendGrants (r : CollRun) (p : Poll) : Prog Unit :=
  letI := Prog.monad
  do
  let m ← fetch r.req (span p.countp (p.qr * r.size))
  let req s x := (m.bytes ((p.countp + p.qr * s + 4 * x) % 2 ^ 64) 4).getD 0
  let gr := (List.range p.el).map (fun x => grantExpert p.cap (nth r.used x 0) ((List.range r.size).map (fun s => req s x)))
  modRun r.id (fun q => { q with used := gr.map (·.2) })
  each (List.range r.size) (fun s => do
    let bytes := (gr.map (fun g => let v := nth g.1 s (0, 0); toBytes 4 v.1 ++ toBytes 4 v.2)).flatten
    let gs := (List.range (p.qg / 32)).map (fun k => Gran.valid (slice bytes (32 * k) 32))
    sendTo r (nth r.group s 0) (p.countp + p.qr * r.size + p.qg * r.rank) gs (some (r.core, (r.ccA + 1) % 16)))

/-- The granted slots given to the requesting tokens in ascending t (12 R358 step 3). -/
def assignSlots (cs : List Choice) (round : Nat) (grant : Nat → Nat → Nat × Nat) : List Choice :=
  (cs.foldl (fun (acc : List Choice × List (Nat × Nat × Nat)) c =>
    if c.round = round && c.slot.isNone then
      let n := ((acc.2.find? (fun e => e.1 == c.home && e.2.1 == c.x)).map (·.2.2)).getD 0
      let (f, g) := grant c.home c.x
      let rest := acc.2.filter (fun e => !(e.1 == c.home && e.2.1 == c.x))
      (acc.1 ++ [if n < g then { c with slot := some (f + n) } else c], (c.home, c.x, n + 1) :: rest)
    else (acc.1 ++ [c], acc.2)) ([], [])).1

/-- Under NEXT, choices that overflowed become requests for their token's fallbacks, in order (12 R357, R358). -/
def fallbacks (cs spare : List Choice) : List Choice :=
  (cs.foldl (fun (acc : List Choice × List (Nat × Nat)) c =>
    if c.slot.isSome then (acc.1 ++ [c], acc.2)
    else
      let j := ((acc.2.find? (fun e => e.1 == c.tok)).map (·.2)).getD 0
      let rest := acc.2.filter (fun e => e.1 != c.tok)
      match spare.find? (fun f => f.tok == c.tok && f.i == j) with
      | some f => (acc.1 ++ [{ f with i := c.i }], (c.tok, j + 1) :: rest)
      | none => (acc.1 ++ [c], (c.tok, j + 1) :: rest)) ([], [])).1

/-- The grants of this source read and its slots given (12 R358 step 3). -/
def takeGrants (r : CollRun) (p : Poll) (round : Nat) : Prog Unit :=
  letI := Prog.monad
  do
  let base := p.countp + p.qr * r.size
  let m ← fetch r.req (span base (p.qg * r.size))
  let grant h x := ((m.bytes ((base + p.qg * h + 8 * x) % 2 ^ 64) 4).getD 0, (m.bytes ((base + p.qg * h + 8 * x + 4) % 2 ^ 64) 4).getD 0)
  modRun r.id (fun q => { q with choices := assignSlots q.choices round grant })

/-- The row of a token from SC as granules (12 R359). -/
def rowGrans (r : CollRun) (p : Poll) (t : Nat) : Prog (List Gran) :=
  letI := Prog.monad
  do
  let sc := r.desc 2
  let n := p.row * 8 / sc.fmt!.width
  let els ← copyEls r.req sc ((List.range n).map (fun q => [t * n + q]))
  packGrans (packBits sc.fmt!.width els)

/-- The header granule of a slot (12 R359). -/
def slotHeader (rank i t gate : Nat) : List Byte := toBytes 2 rank ++ toBytes 2 i ++ toBytes 4 t ++ toBytes 4 gate ++ zeroBytes 20

/-- Slots stored, the last to each peer with the signal; one granule at COUNT_PTR where a peer gets none (12 R359, R361). -/
def sendSlots (r : CollRun) (p : Poll) (slots : List (Nat × Nat × List Gran)) : Prog Unit :=
  letI := Prog.monad
  each (List.range r.size) (fun h => do
    let mine := slots.filter (fun x => x.1 == h)
    if mine.isEmpty then sendSignal r (nth r.group h 0) p.countp r.core r.cc
    else each (List.range mine.length) (fun k => do
      let (_, off, gs) := nth mine k (0, 0, [])
      sendTo r (nth r.group h 0) off gs (if k + 1 = mine.length then some (r.core, r.cc) else none)))

/-- The last stage of DISPATCH: slots, table, statistics (12 R359, R360). -/
def finishDispatch (r : CollRun) (p : Poll) : Prog Unit :=
  letI := Prog.monad
  do
  let granted := r.choices.filter (fun c => c.slot.isSome)
  let slots ← collect granted (fun c => do
    let row ← rowGrans r p c.tok
    pure (c.home, p.recv + (c.x * p.cap + c.slot.getD 0) * (p.row + 32),
      Gran.valid (slotHeader r.rank c.i c.tok c.gate) :: row))
  sendSlots r p slots
  let table := r.choices.foldl (fun ps c => Patch.addBytes ((p.table + 16 * (c.tok * p.k + c.i)) % 2 ^ 64)
    (toBytes 2 c.home ++ toBytes 2 c.x ++ toBytes 4 (c.slot.getD 0xFFFFFFFF) ++ toBytes 4 c.gate ++ zeroBytes 4) ps) []
  let _ ← writePatches r.req table
  let g1 := (granted.filter (fun c => c.round == 1)).length
  let g2 := (granted.filter (fun c => c.round == 2)).length
  let dropped := r.choices.length - granted.length
  incF F.FAB_POLL_EVENTS.GRANTED 0 0 g1
  incF F.FAB_POLL_EVENTS.NEXT 0 0 g2
  incF F.FAB_POLL_EVENTS.DROPPED 0 0 dropped
  let layer := wLayer r.flight.word
  when (decide (p.layer0 ≤ layer)) do
    let a := p.stats + 32 * (layer - p.layer0)
    let old ← collect (List.range 4) (fun k => numAt r.req (a + 8 * k) 8)
    let new := List.zipWith (· + ·) old [r.choices.length, g1, g2, dropped]
    let _ ← writePatches r.req (Patch.addBytes (a % 2 ^ 64) ((new.map (toBytes 8)).flatten) [])
    skip
  modColl (fun c => { c with granted := (p.recv, r.used) :: c.granted.filter (fun e => e.1 != p.recv) })

/-- COMBINE in phase RETURN: each written slot back to its source (12 R361). -/
def combineReturnSend (r : CollRun) (p : Poll) : Prog Unit :=
  letI := Prog.monad
  do
  let counts ← ask (fun s => ((s.coll.granted.find? (fun e => e.1 == p.recv)).map (·.2)).getD [])
  let places := ((List.range counts.length).map (fun x => (List.range (nth counts x 0)).map (fun k =>
    p.recv + (x * p.cap + k) * (p.row + 32)))).flatten
  let slots ← collect places (fun a => do
    let gs ← rawGrans r.req (fld a 40 0) ((p.row + 32) / 32)
    let h := (nth gs 0 (.valid (zeroBytes 32))).decode.2
    pure (leAt h 0 2, p.ret + (leAt h 4 4 * p.k + leAt h 2 2) * (p.row + 32), gs))
  sendSlots r p slots

/-- COMBINE in phase ADD: gated rows as contributions (12 R361). -/
def combineAddSend (r : CollRun) (p : Poll) : Prog Unit :=
  letI := Prog.monad
  do
  let sb := r.desc 1
  let sc := r.desc 2
  let n := p.row / 4
  let toks := if n = 0 then 0 else sc.extent 0 / n
  let tm ← fetch r.req (span p.table (16 * toks * p.k))
  let at' t i o k := (tm.bytes ((p.table + 16 * (t * p.k + i) + o) % 2 ^ 64) k).getD 0
  each (List.range p.k) (fun i => do
    let live := (List.range toks).filter (fun t => at' t i 4 4 != 0xFFFFFFFF)
    let els ← collect live (fun t => do
      let base := sb.base + (t * p.k + i) * (p.row + 32) + 32
      let m ← fetch r.req (span base p.row)
      let gate := val32 (at' t i 8 4)
      pure ((List.range n).map (fun q =>
        let v := match m.bytes ((base + 4 * q) % 2 ^ 64) 4 with
          | some b => val32 b
          | none => .nan
        let a := sc.byteAt (sc.number [t * n + q])
        ({ gran := fld a 40 5, lane := a % 32 / 4, idx := t * n + q, val := bits32 (mul32 v gate) } : AddEl))))
    let w := r.flight.word
    let packets := addRuns (wf w 47 40) 0 ((wf w 63 48 * 256 + i) % 2 ^ 24) true (addPackets els.flatten)
    modNoc (fun n => { n with inserts := n.inserts ++ packets.map (fun c => ⟨r.site, r.flight.seq, c⟩) })
    each packets (fun c => emit (.contribution c)))

/-! Stage queues (12 R363, R364). -/

/-- A stage record: eight words. -/
def readStage (rq : Req) (p : Nat) : Prog (Nat → Nat) :=
  letI := Prog.monad
  do
  let m ← fetch rq (span p 64)
  pure (fun k => (m.bytes ((p + 8 * k) % 2 ^ 64) 8).getD 0)

/-- The elements of any dense descriptor within its caps in the order of their linear index, FILL beyond its extents (05 R147, R149), as
granules. -/
def tensorGrans (rq : Req) (d : Desc) : Prog (List Gran) :=
  letI := Prog.monad
  do
  let els ← copyEls rq d (tuples d.capExts)
  packGrans (packBits d.fmt!.width els)

/-- A STORE of granules at a global address, with a signal. -/
def storeAt (r : CollRun) (addr : Nat) (gs : List Gran) (core cc : Nat) : Prog Unit :=
  .get (fun s =>
    let dev := if fld addr 63 62 = 0 then s.ownId else fld addr 56 42
    sendTo r dev addr gs (some (core, cc)))

/-- STAGE_SEND once a credit is there. -/
def stageSend (r : CollRun) (p : Nat) (w : Nat → Nat) : Prog Unit :=
  letI := Prog.monad
  do
  let next := fld (w 3) 31 0
  let slot := next % fld (w 1) 63 32
  ccTake (fld (w 4) 10 4) (fld (w 4) 3 0) 1
  let gs ← tensorGrans r.req (r.desc 1)
  if gs.isEmpty then sendSignal r (fld (w 0) 56 42) (fld (w 0) 40 0 + slot * fld (w 1) 31 0) (fld (w 4) 26 20) (fld (w 4) 19 16)
  else storeAt r (w 0 + slot * fld (w 1) 31 0) gs (fld (w 4) 26 20) (fld (w 4) 19 16)
  let _ ← writePatches r.req (Patch.addNum ((p + 24) % 2 ^ 64) 4 ((next + 1) % 2 ^ 32) false [])
  skip

end Sys2Proof.Machine
end

