-- ==== Sys2Proof/Machine/CollOps.lean ====
section
/-!
DEFINITION. The collective engine at work: COLLs reach it, start, go on and complete, each core's in its order
(spec 12 R336 to R340, R345, R351 to R354, R364, R367 to R371).
-/
namespace Sys2Proof.Machine
open Prog hiding pure bind get op run monad

/-- A run of the engine by its number. -/
def State.collRun (s : State) (id : Nat) : Option CollRun := s.coll.runs.find? (fun r => r.id == id)

/-- The run is complete; its record and signal follow in its core's order. -/
def collOver (id : Nat) : Prog Unit := modRun id (fun r => { r with ended := true, wait := ⟨0, false, 0, 0⟩ })

/-- A run goes to a stage. -/
def toStage (id n : Nat) : Prog Unit := modRun id (fun r => { r with stage := n })

/-- What a run waits on. -/
def waitsOn (id : Nat) (w : WaitOn) : Prog Unit := modRun id (fun r => { r with wait := w })

/-! LOCAL (12 R352). -/

/-- The packets of a LOCAL: SB from its first element, granules rounded up to whole flits with FILL. -/
def localSend (r : CollRun) : Prog Unit :=
  letI := Prog.monad
  do
  let s ← ask id
  let sb := r.desc 1
  let lanes := laneCount r.wire
  let n := roundUp (sb.extent 0) (2 * lanes)
  let (els, _) ← wireEls r (List.range n)
  let gs ← packGrans (packBits (if r.wire = 1 then 16 else 32) els)
  let (_, _, dest) := nth r.segs 0 (0, 0, 0)
  let mask := maskOf r.group
  let cs := chunksOf 8 gs
  each (List.range cs.length) (fun q => do
    let part := nth cs q []
    let bad := part.any (fun g => g.err != 0)
    let head := place 383 256 mask + place 167 128 (r.elemBase + 8 * lanes * q) + place 127 96 r.flight.step +
      place 87 64 r.tensor + place 63 60 4 + place 59 59 (b2n r.ord) + place 58 58 (b2n bad) + place 57 56 r.wire +
      place 55 54 (part.length / 2 - 1) + place 47 32 r.tagBase + place 30 24 (nth r.group r.rank 0) + place 23 16 1 +
      place 15 0 (dest / 32 + 8 * q)
    emit (.nocPacket r.site.val ⟨BitVec.ofNat 512 head, part.map (fun g => burstOf (.valid g.data))⟩))
  let dst := nth r.group r.rank 0
  when (s.siteOf dst == some r.site)
    (modRun r.id (fun x => { x with need := [⟨windowBase r.site.val + dest, windowBase r.site.val + dest + 32 * gs.length, gs.length⟩] }))

/-! Starting (12 R336, R341, R342). -/

/-- What a COLL reads at its start: none where its record or its group table is bad (12 R341, R342, R349, R352, R354, R357). A
collective that uses no trees reads a tree table only where TREE_PTR is not 0 (log 113). -/
def collTables (r : CollRun) : Prog (Option CollRun) :=
  letI := Prog.monad
  do
  let s ← ask id
  let rq := r.req
  let op := r.op
  if 2 < r.wire then pure none
  else do
    let g ← readGroup rq (r.w 0) (if op = 6 then 128 else 32768)
    match g with
    | none => pure none
    | some (l, k) => do
      let good :=
        if op = 6 then l.all (fun c => decide (c < 128)) && l.any (fun c => s.siteOf c == some r.site) && decide (k < l.length)
        else nth l k 0x8000 == s.ownId
      if !good then pure none
      else do
        let segs ← (if op ≤ 3 then readSegs rq (r.w 1) l.length else if op = 6 then readSegs rq (r.w 1) 1 else pure [])
        let needsTrees := decide (op ≤ 2 ∨ op = 4 ∨ op = 5)
        let trees ← (if op != 6 && (needsTrees || r.w 2 != 0) then readTrees rq (r.w 2) else pure [])
        let r1 := { r with group := l, rank := k, segs := segs, trees := trees }
        let noShard := decide (op ≤ 1) && r1.grad && (r1.statusPtr == 0 || (r1.ownsShard && r1.hdrPtr == 0))
        let fp ← (if op != 6 && r1.fpPtr != 0 then readFp rq r1.fpPtr else pure none)
        let fpBad := op != 6 && r1.fpPtr != 0 && fp.isNone
        let pollBad ← (if op = 7 || op = 8 then do
            let p ← readPoll rq (r.flight.baseOf 3)
            pure (!(decide (1 ≤ p.k) && decide (p.k ≤ 4)))
          else pure false)
        pure (if noShard || fpBad || pollBad then none else some { r1 with fp := (fp.map FpBlock.landing).toList })

/-- A run's own first actions (12 R346, R350 to R353, R357, R367). -/
def collOpen (r : CollRun) : Prog Unit :=
  letI := Prog.monad
  do
  match r.op with
  | 0 | 1 => do
    let plan ← reducePlan r
    let casts := if r.op = 0 then
        (r.trees.filter (fun e => treeType e == 0 && treeMc e && treeSeg e == r.rank)).map (fun e => (treeRound e, treeTag e))
      else []
    modRun r.id (fun x => { x with todo := plan, casts := if (nth r.segs r.rank (0, 0, 0)).2.1 = 0 then [] else casts })
    openRound r 0
  | 2 => do
    let casts := (r.trees.filter (fun e => treeType e == 0 && treeMc e && treeSeg e == r.rank)).map (fun e => (treeRound e, treeTag e))
    modRun r.id (fun x => { x with casts := if (nth r.segs r.rank (0, 0, 0)).2.1 = 0 then [] else casts })
    openRound r 0
  | 3 =>
    each (List.range r.size) (fun j => do
      let k := (r.rank + 1 + j) % r.size
      let (first, count, dest) := nth r.segs k (0, 0, 0)
      let dev := nth r.group k 0
      if count = 0 then sendSignal r dev (fld r.statusPtr 40 0 + 32) r.core r.ccA
      else do
        let (els, scales) ← sendEls r first count
        let gs ← packGrans (packBits (r.desc 2).fmt!.width els)
        sendScales r dev dest scales
        sendTo r dev dest gs (some (r.core, r.ccA)))
  | 5 => do
    let seq ← nextSeq r.tagBase
    modRun r.id (fun x => { x with seq := seq })
  | 6 => localSend r
  | 7 => do
    let p ← readPoll r.req (r.flight.baseOf 3)
    let (cs, spare) ← pollChoices r p
    modRun r.id (fun x => { x with choices := cs, spare := spare, used := List.replicate p.el 0 })
    sendRequests { r with choices := cs } p 1
  | 8 => do
    let p ← readPoll r.req (r.flight.baseOf 3)
    if r.flight.word.toNat.testBit 32 then combineReturnSend r p else combineAddSend r p
  | 10 => do
    let w ← readStage r.req (r.flight.baseOf 3)
    let v ← fresh 256
    storeAt r (w 2) [.valid (toBytes 32 v)] (fld (w 4) 10 4) (fld (w 4) 3 0)
  | _ => skip

/-- The flight of a COLL. -/
def State.collFlight (s : State) (id : Nat) : Option (SiteId × Flight) :=
  (List.finRange 144).findSome? (fun i => (s.sites[i].flights.find? (fun f => f.unit == .coll && f.tag == id)).map (fun f => (i, f)))

/-- A COLL whose descriptors are sound acts (12 R341 to R345): its record and tables are read; one that is bad completes with
BAD_RECORD; a HINT without GO is armed and ends; the others write their trees of round 0 and begin. -/
def collBegin (r0 : CollRun) : Prog Unit :=
  letI := Prog.monad
  do
  let f := r0.flight
  let record ← readRecord r0.site f.word (nth f.descs 0 [])
  let r : CollRun := { r0 with record := record }
  if r.wire ≤ 2 && r.wireSlot then formatError r.site f (wSC f.word)
  else do
    let t ← collTables r
    match t with
    | none => do
      giveBack r.nfs
      modColl (fun c => { c with runs := c.runs ++ [{ (r.fail 3) with nfs := [], ended := true }] })
    | some r1 =>
      if r.op = 11 && !wb f.word 112 then modSite r.site (fun x => { x with hint := some r1 })
      else do
        when (r.op == 11) (modSite r.site (fun x => { x with hint := none }))
        modColl (fun c => { c with runs := c.runs ++ [r1] })
        when (decide (3 ≤ r.op)) (loadTrees r1.trees 0)
        collOpen r1

/-- A COLL starts (12 R336 to R339): a reserved OP is a FIELD error, a bad descriptor a format error, a zero extent makes it a no-op (05
R148); none of these reads or writes anything (log 113). -/
def collStart (id : Nat) : Prog Unit :=
  letI := Prog.monad
  do
  let s ← ask (fun s => s)
  modColl (fun c => { c with queue := c.queue.filter (fun e => e.id != id) })
  match s.collFlight id, s.coll.queue.find? (fun e => e.id == id) with
  | some (i, f), some e => do
    modSite i (fun x => { x with flights := x.flights.map (fun g => if g.tag == id then { g with phase := .done } else g) })
    tagSet i (unitEngine .coll) f.word
    let r : CollRun := { id := id, site := i, flight := f, record := [], issued := e.issued, nfs := e.nfs }
    if 11 < r.op then fieldError i f
    else match r.badSlot with
      | some k => do
        giveBack e.nfs
        formatError i f k
      | none => do
        let go ← checkShapes i (r.dataSlots.map r.desc)
        when go (collBegin r)
  | _, _ => skip
  showColl

/-- COLLs start in the order in which they reached the engine, up to eight at once, a PERMUTE alone (12 R336). -/
def collKick : Nat → Prog Unit
  | 0 => skip
  | n + 1 => .get (fun s =>
      let live := s.coll.runs.filter (fun r => !r.bg)
      match s.coll.queue with
      | [] => skip
      | e :: _ =>
        let alone := match s.collFlight e.id with
          | some (_, f) => wf f.word 119 116 == 4
          | none => false
        if decide (live.length < 8) && !(live.any (fun r => r.op == 4)) && (!alone || live.isEmpty) then
          (collStart e.id).bind (fun _ => collKick n)
        else skip)

/-! Going on. -/

/-- The copy of a HINT (12 R371): the elements of SB, over its caps with FILL beyond its extents, converted to SC (05 R147, R149). The
engine's conversions count in no CORE_QNT_EVENTS (02 R75). -/
def hintBody (r : CollRun) : Prog Unit :=
  letI := Prog.monad
  do
  let sb := r.desc 1
  let sc := r.desc 2
  let ms := movesOf sb sc ((List.range (min (nth sb.cap 0 1) (sc.extent 0))).map (fun i => (some [i], [i])))
  let (ps, _) ← moveEls r.flight r.req sb sc granulesOf ms
  let ps ← markFailed sb sc ms ps
  let _ ← writePatches r.req ps
  poisoned r.id (ps.filter (·.bad)).length

/-- A copy that reads other devices acts once all that it needs has arrived; what is missing is requested on TC2. It answers
whether it acted. -/
def fetchRun (r : CollRun) (body : Prog Unit) : Prog Bool :=
  .get (fun s =>
    let s0 := Prim.apply (.want []) (Prim.apply (.got r.got) s)
    let ws := (body.run s0).2.want.eraseDups
    if ws.isEmpty then
      .op (.want []) (.op (.got r.got) (body.bind (fun _ => .op (.got []) (.pure true))))
    else
      let new := ws.filter (fun a => !(r.got.any (fun g => g.1 == a)) && !(r.want.contains a))
      (modRun r.id (fun x => { x with want := x.want ++ new })).bind (fun _ =>
        (requestWanted (.coll r.id) 2 (s.collStream r.site) 0 new).bind (fun _ => .pure false)))

/-- Bytes of the moves of PERMUTE (12 R367, R368). -/
def permuteMoves (r : CollRun) : Prog Unit :=
  letI := Prog.monad
  do
  let p := r.flight.baseOf 3
  let n ← numAt r.req p 4
  let m ← fetch r.req (span (p + 32) (32 * n))
  let at' k j := (m.bytes ((p + 32 + 32 * k + 8 * j) % 2 ^ 64) 8).getD 0
  each (List.range n) (fun k => do
    let gs ← rawGrans r.req (fld (at' k 0) 40 0 / 32 * 32) (at' k 2 / 32)
    when (!gs.isEmpty) (storeAt r (at' k 1) gs r.core r.ccA))

/-- A run's next barrier is entered, counted as a BARRIER of its TAG_BASE; it answers whether it has entered. -/
def permuteBarrier (r : CollRun) (stage : Nat) : Prog Bool :=
  letI := Prog.monad
  do
  let s ← ask id
  let ok ← barrierEnter r (s.seqOf r.tagBase) 0 0 s.now
  when ok do
    let _ ← nextSeq r.tagBase
    toStage r.id stage
  pure ok

/-- Tree collectives go on (12 R344, R347, R354). -/
def advanceTree (r : CollRun) : Prog Bool :=
  letI := Prog.monad
  do
  match r.stage with
  | 0 => do
    inject r.todo.length r.id
    let s ← ask (fun s => s)
    match s.collRun r.id with
    | none => pure false
    | some r1 =>
      let (_, count, dest) := nth r1.segs r1.rank (0, 0, 0)
      let st := fld r1.statusPtr 40 0
      let ownLanded := r1.need.all (fun l => l.left == 0 || !(l.lo == dest || l.lo == st + 32))
      match r1.casts.find? (fun c => c.1 == r1.round) with
      | some c =>
        if r1.op = 2 || (ownLanded && count != 0) then do
          runWaitOver r1
          waitsOn r1.id ⟨0, false, 0, 0⟩
          modRun r1.id (fun x => { x with casts := x.casts.erase c })
          castSegment r1 c.2
          pure true
        else do
          waitsOn r1.id (s.treeWait r1)
          pure (r1.todo.length != r.todo.length)
      | none =>
        if !(r1.todo.any (fun t => t.1 == r1.round)) && r1.landedAll then do
          runWaitOver r1
          waitsOn r1.id ⟨0, false, 0, 0⟩
          toStage r1.id 99
          pure true
        else do
          waitsOn r1.id (s.treeWait r1)
          pure (r1.todo.length != r.todo.length)
  | _ => pure false

/-- A collective whose own work of its round is done: the group's barrier and the next round (12 R344), then the fingerprint exchange
(12 R354), then it is over. It answers whether it went on. -/
def collEnd (r : CollRun) : Prog Bool :=
  letI := Prog.monad
  do
  let s ← ask id
  if r.round < lastRound r.trees then do
    let ok ← barrierEnter r (if r.op = 5 then r.seq else s.seqOf r.tagBase) (r.round + 1) 0 s.now
    when ok (toStage r.id 100)
    pure ok
  else if r.op != 6 && r.fpPtr != 0 then do
    toStage r.id 101
    fpBegin r
    pure true
  else do
    collOver r.id
    pure true

/-- The barrier between two rounds is released: the trees of the next round are loaded (12 R344). -/
def roundNext (r : CollRun) : Prog Bool :=
  letI := Prog.monad
  do
  let w ← barrierDone r
  match w with
  | none => pure false
  | some _ => do
    openRound r (r.round + 1)
    when (decide (3 ≤ r.op)) (toStage r.id 99)
    pure true

/-- All fingerprints of the exchange have arrived: they are compared (12 R354, 09 R268). -/
def fpEnd (r : CollRun) : Prog Bool :=
  letI := Prog.monad
  do
  if r.fp.all (fun l => l.left == 0) then do
    let b ← readFp r.req r.fpPtr
    match b with
    | none => skip
    | some b => each (List.range b.n) (fpCompare r b)
    collOver r.id
    pure true
  else pure false

/-- DISPATCH goes on (12 R358, R359). -/
def advanceDispatch (r : CollRun) : Prog Bool :=
  letI := Prog.monad
  do
  let s ← ask id
  let p ← readPoll r.req (r.flight.baseOf 3)
  let round := r.stage / 2 + 1
  let ccB := (r.ccA + 1) % 16
  if r.stage % 2 = 0 then
    (if r.size ≤ s.ccValue r.core r.ccA then do
      ccTake r.core r.ccA r.size
      sendGrants r p
      toStage r.id (r.stage + 1)
      pure true
    else do
      waitsOn r.id ⟨3, false, 0, r.tagBase⟩
      pure false)
  else if r.size ≤ s.ccValue r.core ccB then do
    ccTake r.core ccB r.size
    takeGrants r p round
    if round = 1 && p.next then do
      modRun r.id (fun x => { x with choices := fallbacks x.choices x.spare, stage := 2 })
      let s1 ← ask (fun s => s)
      match s1.collRun r.id with
      | some r1 => sendRequests r1 p 2
      | none => skip
    else do
      let s1 ← ask (fun s => s)
      match s1.collRun r.id with
      | some r1 => finishDispatch r1 p
      | none => skip
      toStage r.id 98
    pure true
  else do
    waitsOn r.id ⟨3, false, 0, r.tagBase⟩
    pure false

/-- PERMUTE goes on (12 R367). -/
def advancePermute (r : CollRun) : Prog Bool :=
  letI := Prog.monad
  do
  let s ← ask id
  match r.stage with
  | 0 => permuteBarrier r 1
  | 2 => permuteBarrier r 3
  | 5 => permuteBarrier r 6
  | 4 => do
    let n ← numAt r.req (r.flight.baseOf 3 + 4) 4
    if !s.collOpen r.id && decide (n ≤ s.ccValue r.core r.ccA) then do
      ccTake r.core r.ccA n
      toStage r.id 5
      pure true
    else do
      waitsOn r.id ⟨3, false, 0, r.tagBase⟩
      pure false
  | st => do
    let w ← barrierDone r
    match w with
    | none => pure false
    | some _ => do
      if st = 1 then do
        setF F.FAB_LAYOUT.EPOCH 0 0 (s.field F.FAB_LAYOUT.EPOCH 0 0 + 1)
        toStage r.id 2
      else if st = 3 then do
        permuteMoves r
        toStage r.id 4
      else toStage r.id 99
      pure true

/-- BARRIER goes on (12 R349, R353). -/
def advanceBarrier (r : CollRun) : Prog Bool :=
  letI := Prog.monad
  do
  if r.bkey.isNone then
    barrierEnter r r.seq 0 (place 63 32 (wf r.flight.word 63 32) + b2n (r.nfs.any (fun h => h.2.2))) r.issued
  else do
    let w ← barrierDone r
    match w with
    | none => pure false
    | some word => do
      when (r.statusPtr != 0) do
        let _ ← writePatches r.req (Patch.addNum ((r.statusPtr + 32) % 2 ^ 64) 8 word false [])
        skip
      writeHeaders r word
      toStage r.id 99
      pure true

/-- A run that is over leaves the engine, behind the earlier ones of its core: its header is deferred, its record written, its signal
given (12 R336, R340, R349). -/
def collLeave (r : CollRun) : Prog Bool :=
  letI := Prog.monad
  do
  let s ← ask id
  if !r.bg && s.coll.runs.any (fun q => q.site == r.site && !q.bg && decide (q.id < r.id)) then pure false
  else do
    deferHeader r
    modColl (fun c => { c with runs := c.runs.filter (fun q => q.id != r.id) })
    collRecord r.site r.flight.word r.flight.step r.record r.status r.poison
    showColl
    pure true

/-- A copy that replaces a slot under ADOPT goes on (09 R268). -/
def advanceAdopt (r : CollRun) : Prog Bool :=
  letI := Prog.monad
  do
  let acted ← fetchRun r (adoptBody r)
  when acted do
    modColl (fun c => { c with runs := c.runs.filter (fun q => q.id != r.id) })
    modRake (fun k => { k with adopt := k.adopt.filter (fun a => a.2 != r.id) })
  pure acted

/-- STAGE_SEND goes on: it waits for a credit, sends, and is done once its STOREs have left (12 R364). -/
def advanceStage (r : CollRun) : Prog Bool :=
  letI := Prog.monad
  do
  let s ← ask id
  let p := r.flight.baseOf 3
  let w ← readStage r.req p
  if 1 ≤ s.ccValue (fld (w 4) 10 4) (fld (w 4) 3 0) then do
    runWaitOver r
    waitsOn r.id ⟨0, false, 0, 0⟩
    toStage r.id 98
    stageSend r p w
    pure true
  else do
    waitsOn r.id ⟨4, true, fld (w 0) 56 42, r.tagBase⟩
    pure false

/-- A run goes to a stage if a condition holds; it answers whether it did. -/
def stageIf (r : CollRun) (c : Bool) (n : Nat) : Prog Bool := (when c (toStage r.id n)).bind (fun _ => .pure c)

/-- Whether contributions of a run are on their way to their Anthills, which have yet to accept them (05 R132, 08 R241). -/
def State.collInserts (s : State) (r : CollRun) : Bool := s.noc.inserts.any (fun x => x.site == r.site && x.seq == r.flight.seq)

/-- One run goes on if it can; it answers whether it did. Stage 98: all is sent and what waits at the source must leave (12 R340);
99: its own work is done; 100: it waits between two rounds; 101: it exchanges fingerprints. -/
def advance (r : CollRun) : Prog Bool :=
  .get (fun s =>
    if r.ended then collLeave r
    else if r.stage = 98 then stageIf r (!s.collHeld r.id) 99
    else if r.stage = 99 then collEnd r
    else if r.stage = 100 then roundNext r
    else if r.stage = 101 then fpEnd r
    else match r.op with
      | 0 | 1 | 2 => advanceTree r
      | 3 => stageIf r (!s.collOpen r.id) 99
      | 4 => advancePermute r
      | 5 => advanceBarrier r
      | 6 => stageIf r r.landedAll 99
      | 7 => advanceDispatch r
      | 9 => advanceStage r
      | 11 => (fetchRun r (hintBody r)).bind (fun acted => stageIf r acted 99)
      | 15 => advanceAdopt r
      | _ => stageIf r (!s.collHeld r.id && !s.collInserts r) 99)

/-- Every run in turn; whether one went on. -/
def advanceAll : List Nat → Bool → Prog Bool
  | [], b => .pure b
  | id :: ids, b => .get (fun s => match s.collRun id with
    | none => advanceAll ids b
    | some r => (advance r).bind (fun x => advanceAll ids (b || x)))

/-- Barrier packets that waited for a key of the engine arrive (12 R353; `fuel` bounds how many). -/
def drainSyncs : Nat → Prog Unit
  | 0 => skip
  | n + 1 => .get (fun s =>
      match s.fabric.stalls.find? (fun w => pOp w.packet == 0xA && !s.syncFull w.packet) with
      | none => skip
      | some w =>
        (modFabric (fun x => { x with stalls := x.stalls.erase w })).bind (fun _ => (syncArrive w.packet).bind (fun _ =>
          (match w.vc with
            | some v => rxFree w.input v (pBytes w.packet)
            | none => skip).bind (fun _ => drainSyncs n))))

/-- The engine goes on until nothing more can (`fuel` bounds the rounds). -/
def pollLoop : Nat → Prog Unit
  | 0 => skip
  | n + 1 => .get (fun s =>
      if s.hushed then skip
      else (collKick s.coll.queue.length).bind (fun _ => .get (fun s1 =>
        (drainSyncs s1.fabric.stalls.length).bind (fun _ =>
          (advanceAll (s1.coll.runs.map (·.id)) false).bind (fun more => if more then pollLoop n else skip)))))

/-- The rounds that a poll may take: a few for each COLL at the engine and each packet it still sends. -/
def State.pollFuel (s : State) : Nat :=
  16 + 16 * (s.coll.queue.length + s.coll.runs.length) + ((s.coll.runs.map (fun r => r.todo.length + r.trees.length)).sum)

/-- The engine goes on after something happened. -/
def collPoll : Prog Unit := .get (fun s => pollLoop s.pollFuel)

/-! COLL instructions (12 R336 to R338). -/

/-- What a COLL finds at issue: a full queue, or the order at the accumulator memory. Where the core's oldest collective waits on a tree
or on stage credit, that wait is named (12 R369). -/
def State.collBlocked (s : State) (i : SiteId) (w : IWord) : Option (Option WaitOn) :=
  (s.held i .coll w).map (fun b =>
    let c := s.collWait i
    if c.kind = 1 || c.kind = 4 then some c else b)

/-- Headers that a BARRIER with NFSYNC takes with it at its issue: those deferred by collectives that have completed (12 R349). -/
def State.headersFor (s : State) (w : IWord) : List (Word × List Byte × Bool) :=
  if wf w 119 116 = 5 && wb w 113 then s.coll.nfs else []

/-- A COLL enters its queue and reaches the engine (05 R131, R133). -/
def collEnter (i : SiteId) (w : IWord) (pc : Nat) : Prog Unit :=
  letI := Prog.monad
  do
  let s ← ask id
  let f : Flight := { s.flightOf i .coll w pc with tag := s.coll.nextId }
  let nfs := s.headersFor w
  modSite i (fun x => { x with flights := x.flights ++ [f] })
  modColl (fun c => { c with nextId := c.nextId + 1, queue := c.queue ++ [⟨f.tag, s.now, nfs⟩],
                             nfs := c.nfs.filter (fun h => !(nfs.contains h)) })

/-- A COLL issues, and the engine goes on. -/
def collIssue (i : SiteId) (w : IWord) : Prog Unit :=
  (attempt i w skip (fun s => s.collBlocked i w) (collEnter i w)).bind (fun _ => collPoll)

def execAllReduce (i : SiteId) (w : IWord) (s : State) : Host.Outcome State Fault Refusal := Prog.next (collIssue i w) s
def execReduceScatter (i : SiteId) (w : IWord) (s : State) : Host.Outcome State Fault Refusal := Prog.next (collIssue i w) s
def execAllGather (i : SiteId) (w : IWord) (s : State) : Host.Outcome State Fault Refusal := Prog.next (collIssue i w) s
def execAllToAll (i : SiteId) (w : IWord) (s : State) : Host.Outcome State Fault Refusal := Prog.next (collIssue i w) s
def execPermute (i : SiteId) (w : IWord) (s : State) : Host.Outcome State Fault Refusal := Prog.next (collIssue i w) s
def execBarrier (i : SiteId) (w : IWord) (s : State) : Host.Outcome State Fault Refusal := Prog.next (collIssue i w) s
def execLocal (i : SiteId) (w : IWord) (s : State) : Host.Outcome State Fault Refusal := Prog.next (collIssue i w) s
def execDispatch (i : SiteId) (w : IWord) (s : State) : Host.Outcome State Fault Refusal := Prog.next (collIssue i w) s
def execCombineReturn (i : SiteId) (w : IWord) (s : State) : Host.Outcome State Fault Refusal := Prog.next (collIssue i w) s
def execCombineAdd (i : SiteId) (w : IWord) (s : State) : Host.Outcome State Fault Refusal := Prog.next (collIssue i w) s
def execStageSend (i : SiteId) (w : IWord) (s : State) : Host.Outcome State Fault Refusal := Prog.next (collIssue i w) s
def execStageCredit (i : SiteId) (w : IWord) (s : State) : Host.Outcome State Fault Refusal := Prog.next (collIssue i w) s
def execHint (i : SiteId) (w : IWord) (s : State) : Host.Outcome State Fault Refusal := Prog.next (collIssue i w) s

/-- PREFETCH: an armed hint of a core starts when a core of the device has waited, in a wait that began under that policy (12 R370, R371, 20
R497). -/
def prefetchProg (i : SiteId) : Prog Unit :=
  letI := Prog.monad
  do
  let s ← ask id
  let waiting := (List.finRange 144).any (fun j => (s.reg .CORE_COLL_WAIT j 0).testBit 63 && s.sites[j].policy == 1)
  match s.sites[i].hint with
  | none => skip
  | some h =>
    when (waiting && !s.hushed && !s.deaf i) do
      modSite i (fun x => { x with hint := none })
      modColl (fun c => { c with nextId := c.nextId + 1, runs := c.runs ++ [{ h with id := c.nextId, bg := true }] })
      loadTrees h.trees 0
      collPoll
def execPrefetchStart (i : SiteId) (s : State) : Host.Outcome State Fault Refusal := Prog.next (prefetchProg i) s

end Sys2Proof.Machine
end

