-- ==== Sys2Proof/Machine/Noc.lean ====
section
/-!
DEFINITION. The on-chip network: reads and writes at their target, multicast, reductions along the mesh, and the seam
(spec/01_organisation.md R17 to R34, R41).
-/
namespace Sys2Proof.Machine
open Prog hiding pure bind get op run monad

/-! Packets (01 R25). -/

def nHead (p : NocPacket) (hi lo : Nat) : Nat := fld p.head.toNat hi lo
def nMask (p : NocPacket) : Nat := nHead p 383 256
def nElem (p : NocPacket) : Nat := nHead p 167 128
def nStep (p : NocPacket) : Nat := nHead p 127 96
def nTensor (p : NocPacket) : Nat := nHead p 87 64
def nOrd (p : NocPacket) : Bool := p.head.toNat.testBit 59
def nPoison (p : NocPacket) : Bool := p.head.toNat.testBit 58
def nFmt (p : NocPacket) : Nat := nHead p 57 56
def nLen (p : NocPacket) : Nat := nHead p 55 54
def nTag (p : NocPacket) : Nat := nHead p 47 32
def nDest (p : NocPacket) : Nat := nHead p 30 24
def nCount (p : NocPacket) : Nat := nHead p 23 16
def nGran (p : NocPacket) : Nat := nHead p 15 0

/-- The granules of a packet: two to a data flit. -/
def nGrans (p : NocPacket) : List Gran := (List.range (2 * (nLen p + 1))).map (fun k => granOf (nth p.grans k 0))

/-! The reduction tree (01 R28). -/

/-- The inputs of a stop that carry contributions, in the order of the fold (01 R28, R29): local cores, then west, east, north,
south. -/
def State.stopInputs (s : State) (mask dest stop : Nat) : List Nat :=
  let ins := (s.presentOf mask).filterMap (fun c => match s.siteOf c with
    | none => none
    | some i =>
      if siteStop i = stop then some c
      else ((meshRoute 16 (siteStop i) dest).find? (fun h => h.1 == stop)).map (·.2))
  (List.range 132).filter ins.contains

/-! Delivery. -/

/-- Granules written to a site's scratchpad by a multicast or reduction as they travel (05 R157: under the owner DMA); `record` says
that the owner records them as POISON (01 R32). A packet whose granules run past index 65,535 wraps to index 0, which is the model's
choice (log 141). Flits to a core whose clock Hush has stopped wait in its queue (01 R41). -/
def deliver (i : SiteId) (gran : Nat) (gs : List Gran) (record : Bool) : Prog Unit :=
  letI := Prog.monad
  do
  let s ← ask id
  if s.deaf i then nocDrop F.TOP_NOC_ERROR.DROP_FENCED (siteStop i)
  else if s.hushed then modNoc (fun n => { n with cores := n.cores ++ [.grans i gran gs record] })
  else do
    each (List.range gs.length) (fun k => do
      let off := windowBase i.val + 32 * ((gran + k) % 65536)
      landGran off (nth gs k (.valid (zeroBytes 32))))
    when record (each (List.range gs.length) (fun k =>
      let x := 32 * ((gran + k) % 65536)
      when (s.owns .dma i (x / 0x10000)) (faultRecord 2 0x0A { Where.ofSite i with struct := 1, address := windowBase i.val + x })))

/-- What waited for stopped cores is delivered, in order, once Hush releases them. -/
def deliverHeld : Prog Unit :=
  .get (fun s => (modNoc (fun n => { n with cores := [] })).bind (fun _ =>
    each s.noc.cores (fun d => match d with
      | .grans i gran gs record => deliver i gran gs record
      | .land off g => landGran off g
      | .signal core cc => signalCC core cc)))

/-- The location of a granule of a packet at a stop (18 R521). -/
def State.nocWhere (s : State) (stop core gran : Nat) : Where :=
  let addr := match s.siteOf core with
    | some i => windowBase i.val + 32 * gran
    | none => 0
  match (List.range 18).find? (fun c => clusterStop c == stop) with
  | some c => { Where.ofCluster c with struct := 6, address := addr }
  | none => { level := 6, half := if stop % 12 < 6 then 0 else 1, struct := 6, address := addr }

/-! Reads and writes at their target (01 R26, R41). -/

/-- A class as a requester on the network: a REMOTE class stands for itself. The unit that a record of a merge names is the class's, DMA for
a REMOTE class (log 151). -/
def nocReq (c : ReqClass) : Req :=
  { cls := c, unit := match c with | .seq => 1 | .dma | .remote _ => 5 | .lacewing => 6 | .rake => 9 }

/-- The site that a local offset addresses, if its cluster stop discards what is sent to it (01 R41): a packet goes to one target,
so that it is discarded whole and counted once. -/
def State.deafAt (s : State) (off : Nat) : Option SiteId :=
  match localTarget off with
  | .scratch i _ | .acc i _ _ | .passes i _ | .blank i => if s.deaf i then some i else none
  | _ => none

/-- Whether the packets of a core's loads and stores to a local offset cross a lost seam channel, on their way or back (01 R17, R19,
R20). The stops of the other classes are not told by the command. -/
def State.remoteCut (s : State) (c : ReqClass) (off : Nat) : Bool :=
  match c with
  | .remote k => match s.siteOf k.val with
    | some i => s.pathCut (siteStop i) off
    | none => false
  | _ => false

/-- A read request at its target: the granules it names, answered by a read response. -/
def nocReadProg (c : ReqClass) (off n : Nat) : Prog Unit :=
  letI := Prog.monad
  do
  let s ← ask id
  when (!s.hushed && !s.remoteCut c (off % 2 ^ 41)) (match s.deafAt (off % 2 ^ 41) with
  | some i => do
    nocDrop F.TOP_NOC_ERROR.DROP_FENCED (siteStop i)
    let gs ← collect (List.range n) (fun _ => poisonGran)
    emit (.nocResponse off (gs.map burstOf))
  | none => do
    let gs ← collect (List.range n) (fun k => readRaw (nocReq c) ((off / 32 * 32 + 32 * k) % 2 ^ 41))
    emit (.nocResponse off (gs.map burstOf)))
def execNocReadRequest (c : ReqClass) (off : BitVec 41) (n : Fin 9) (s : State) : Host.Outcome State Fault Refusal :=
  Prog.next (nocReadProg c off.toNat n.val) s

/-- A write packet at its target. -/
def nocWriteProg (c : ReqClass) (off : Nat) (bytes : List Byte) : Prog Unit :=
  letI := Prog.monad
  do
  let s ← ask id
  when (!s.hushed && !s.remoteCut c (off % 2 ^ 41)) (match s.deafAt (off % 2 ^ 41) with
  | some i => nocDrop F.TOP_NOC_ERROR.DROP_FENCED (siteStop i)
  | none => do
    let ps := (List.range bytes.length).foldl (fun ps k => Patch.add ((off + k) % 2 ^ 41) 0xFF (nth bytes k 0).toNat false ps) []
    let _ ← writePatches (nocReq c) ps
    skip)
def execNocWrite (c : ReqClass) (off : BitVec 41) (bytes : List Byte) (s : State) : Host.Outcome State Fault Refusal :=
  Prog.next (nocWriteProg c off.toNat bytes) s

/-- A completion packet at its requester: acceptance was taken with the write itself (log 6), and the instruction ends with its
INSTRUCTION_COMPLETE. -/
def execNocCompletion (_i : SiteId) (_u : CoreUnit) (s : State) : Host.Outcome State Fault Refusal := Prog.next skip s

/-- A reserved KIND at the first stop that receives it (01 R26). -/
def nocBadKindProg (stop : StopId) (kind : Fin 8) : Prog Unit :=
  letI _ := kind
  nocDrop F.TOP_NOC_ERROR.BAD_KIND stop.val
def execNocBadKind (stop : StopId) (kind : Fin 8) (s : State) : Host.Outcome State Fault Refusal := Prog.next (nocBadKindProg stop kind) s

/-! Multicast (01 R27). -/

/-- The stop of a logical core; none of an absent one. -/
def State.stopOf (s : State) (c : Nat) : Option Nat := (s.siteOf c).map siteStop

/-- Copies of a multicast for some cores. Its copies are one event in time, so that those at the highest stop come first: of several that
are discarded, LAST_STOP names the lowest stop (01 R45). -/
def mcDeliver (p : NocPacket) (cores : List Nat) : Prog Unit :=
  .get (fun s0 => each (((List.range 48).reverse).flatMap (fun st => cores.filter (fun c => s0.stopOf c == some st))) (fun c =>
    .get (fun s => match s.siteOf c with
      | some i => deliver i (nGran p) (nGrans p) false
      | none => skip)))

/-- A multicast injected at its source stop: each present destination gets one copy; copies beyond a seam channel without lock
are held there. -/
def multicastProg (src : SiteId) (p : NocPacket) : Prog Unit :=
  letI := Prog.monad
  do
  let s ← ask id
  let dests := s.presentOf (nMask p)
  if dests.isEmpty then nocDrop F.TOP_NOC_ERROR.MC_EMPTY (siteStop src)
  else do
    let plane := fld (nGran p) 4 2
    let row := siteStop src / 12
    let beyond (c : Nat) : Bool := match s.siteOf c with
      | some i => halfOf i != halfOf src && s.seamLost row plane
      | none => false
    mcDeliver p (dests.filter (fun c => !beyond c))
    let held := dests.filter beyond
    when (!held.isEmpty) (modNoc (fun n => { n with waits := n.waits ++ [⟨row, plane, 0, 0, held, p⟩] }))
    collPoll
def execMulticastWrite (src : SiteId) (p : NocPacket) (s : State) : Host.Outcome State Fault Refusal := Prog.next (multicastProg src p) s

/-! Reductions (01 R28 to R33). -/

/-- Whether two packets have one key, FMT left out. -/
def nSameBut (p q : NocPacket) : Bool :=
  nTag p == nTag q && nDest p == nDest q && nGran p == nGran q && nLen p == nLen q && nElem p == nElem q &&
    nTensor p == nTensor q && nStep p == nStep q

/-- A sum of packets at a stop or the destination: the stop enters the key of a BF16 rounding (01 R29, R30, R32). 01 R32 speaks of combining
stops; that a destination's holding buffer which meets an operand that is not correctable also sets RED_POISON, with the destination's
stop, is the model's choice (log 159). -/
def nocFold (stop : Nat) (poison : Bool) (ps : List NocPacket) : Prog NocPacket :=
  letI := Prog.monad
  match ps with
  | [] => pure ⟨0, []⟩
  | p :: _ => do
    let s ← ask id
    let lanes := laneCount (nFmt p)
    let out ← collect (List.range (nGrans p).length) (fun k => do
      let rq : Req := { cls := .dma, unit := 0x0A, pkt := some (s.nocWhere stop (nDest p) ((nGran p + k) % 65536)) }
      foldGrans rq (nFmt p) (s.reg .TOP_SR_SEED 0 0) (nStep p) (nTensor p) stop (nElem p + lanes * k)
        (ps.map (fun q => nth (nGrans q) k (.valid (zeroBytes 32)))))
    let bad := out.any (·.2)
    when bad (nocError F.TOP_NOC_ERROR.RED_POISON stop)
    let h := setFld (setFld p.head.toNat 23 16 ((ps.map nCount).sum)) 58 58 (b2n (poison || bad || ps.any nPoison))
    pure ⟨BitVec.ofNat 512 h, out.map (fun g => burstOf (.valid g.1))⟩

/-- A reduction written at its destination core; with POISON its granules are marked and reported (01 R32). -/
def nocLand (p : NocPacket) : Prog Unit :=
  .get (fun s => match s.siteOf (nDest p) with
    | none => skip
    | some i => deliver i (nGran p) ((nGrans p).map (fun g => if nPoison p then .poisoned g.data else g)) (nPoison p))

/-- A packet that its stop may not combine (01 R28). -/
def nBad (p : NocPacket) : Bool := nFmt p == 3 || nCount p == 0 || decide (128 < nCount p)

/-- The plane of a reduction (01 R20). -/
def nPlane (p : NocPacket) : Nat := nTag p % 8

/-- The destination core's interface: ORD = 1 writes what the last stop folded; ORD = 0 adds arriving packets until their COUNTs add up to
the contributors that were present as the wait began (01 R31, R33). The holding buffer keeps the packets and folds them when it writes,
in FP32 with BF16 rounded once under the key of the destination's stop, which is the model's choice (log 142). -/
def nocArrive (p : NocPacket) : Prog Unit :=
  letI := Prog.monad
  do
  let s ← ask id
  let stop := match s.siteOf (nDest p) with | some i => siteStop i | none => 0
  if nOrd p then nocLand p
  else
    let held := s.noc.holds.find? (fun h => h.stop.isNone && h.parts.any (fun q => nSameBut q.2 p))
    let old := held.getD ⟨none, [], s.field F.TOP_NOC_CONFIG.RED_TIMEOUT 0 0, [], (s.presentOf (nMask p)).length⟩
    if old.parts.any (fun q => nFmt q.2 != nFmt p) then nocDrop F.TOP_NOC_ERROR.RED_FORMAT stop
    else do
      let all := old.parts ++ [(132, p)]
      let rest := (s.noc.holds.erase old)
      if old.need = (all.map (fun q => nCount q.2)).sum then do
        modNoc (fun n => { n with holds := rest })
        let q ← nocFold stop false (all.map (·.2))
        nocLand q
      else modNoc (fun n => { n with holds := rest ++ [{ old with parts := all }] })

/-- Merge slots of a stop in use on a plane (01 R34). -/
def Noc.slots (n : Noc) (stop plane : Nat) : Nat :=
  (n.holds.filter (fun h => h.stop == some stop && h.parts.any (fun q => nPlane q.2 == plane))).length

/-- Whether packets of an input of a stop already wait on a plane: later ones of that input wait behind them (01 R22, R34). -/
def Noc.blocked (n : Noc) (stop input plane : Nat) : Bool :=
  n.stalls.any (fun w => w.stop == stop && w.input == input && nPlane w.packet == plane)

/-- The parts of a wait in the order of the fold (01 R29). -/
def NocHold.inOrder (h : NocHold) : List NocPacket :=
  ((List.range 132).map (fun k => h.parts.filter (fun q => q.1 == k))).flatten.map (·.2)

/-- What stands at a stop in the present cycle under the key of a packet. -/
def Noc.mates (n : Noc) (stop : Nat) (p : NocPacket) : List NocStall :=
  n.cycle.filter (fun w => w.stop == stop && nSameBut w.packet p)

/-- Packets of one key that a stop holds in one cycle, as what leaves it: one alone as it is, several folded in the order of the inputs (01
R29, R31). -/
def cycleSum (stop : Nat) (ws : List NocStall) : Prog (Option NocPacket) :=
  match ws with
  | [] => .pure none
  | [w] => .pure (some w.packet)
  | _ => (nocFold stop false (NocHold.inOrder { stop := some stop, parts := ws.map (fun w => (w.input, w.packet)), limit := 0 })).bind
      (fun q => .pure (some q))

/-- A packet at a stop by an input: passed on where it meets no other input; under ORD = 0 passed on at once, or, as the free cycle in
which it came says, with what the stop holds of its key in that cycle (01 R31, log 115); under ORD = 1 held, in one of the 16 merge slots
of its plane, until every input of the tree of its wait has come, folded and passed on (01 R28, R29, R33). Without a free slot it
waits in the input buffer, and so does what comes after it by that input (01 R34). `fuel` bounds the hops. -/
def nocReduce : Nat → Nat → Nat → NocPacket → Prog Unit
  | 0, _, _, _ => skip
  | n + 1, stop, input, p => .get (fun s =>
      match s.siteOf (nDest p) with
      | none => skip
      | some i =>
        let dest := siteStop i
        let wait : Prog Unit := modNoc (fun m => { m with stalls := m.stalls ++ [⟨stop, input, p⟩] })
        let pass (q : NocPacket) : Prog Unit := .get (fun s =>
          match s.siteOf (nDest q) with
          | none => skip
          | some j =>
            if stop = siteStop j then nocArrive q
            else
              let h := hop stop (siteStop j)
              match seamOf stop h.1 with
              | some row =>
                if s.seamLost row (nPlane q) then
                  modNoc (fun m => { m with waits := m.waits ++ [⟨row, nPlane q, h.1, h.2, [], q⟩] })
                else nocReduce n h.1 h.2 q
              | none => nocReduce n h.1 h.2 q)
        let goes (ws : List NocStall) : Prog Unit := (modNoc (fun m => { m with cycle := m.cycle.filter (fun w => !ws.contains w) })).bind
          (fun _ => (cycleSum stop ws).bind (fun q => match q with | some q => pass q | none => skip))
        let free : Prog Unit := .get (fun s =>
          let mates := s.noc.mates stop p
          if mates.any (fun w => nFmt w.packet != nFmt p) then nocDrop F.TOP_NOC_ERROR.RED_FORMAT stop
          else if (s.stopInputs (nMask p) dest stop).length ≤ 1 then pass p
          else (fresh 1).bind (fun v =>
            let w : NocStall := ⟨stop, input, p⟩
            if v == 0 then (modNoc (fun m => { m with cycle := m.cycle ++ [w] })).bind (fun _ => goes (mates ++ [w]))
            else modNoc (fun m => { m with cycle := m.cycle ++ [w] })))
        -- an input brings one packet of a plane in a cycle: what it brought before goes on first
        let before := (s.noc.cycle.filter (fun w => w.stop == stop && w.input == input && nPlane w.packet == nPlane p)).map
          (fun w => s.noc.mates stop w.packet)
        if s.noc.blocked stop input (nPlane p) then wait
        else if nBad p then nocDrop F.TOP_NOC_ERROR.RED_FORMAT stop
        else (each before goes).bind (fun _ => if !nOrd p then free else .get (fun s => match s.noc.holds.find? (fun h => h.stop == some stop && h.parts.any (fun q => nSameBut q.2 p)) with
        | some h =>
          if h.parts.any (fun q => nFmt q.2 != nFmt p) then nocDrop F.TOP_NOC_ERROR.RED_FORMAT stop
          else
            let h' := { h with parts := h.parts ++ [(input, p)] }
            if h.ins.all (fun k => h'.parts.any (fun q => q.1 == k)) then
              (modNoc (fun m => { m with holds := m.holds.erase h })).bind (fun _ =>
                (nocFold stop false h'.inOrder).bind pass)
            else modNoc (fun m => { m with holds := m.holds.erase h ++ [h'] })
        | none =>
          let ins := s.stopInputs (nMask p) dest stop
          if ins.length ≤ 1 then pass p
          else if 16 ≤ s.noc.slots stop (nPlane p) then wait
          else modNoc (fun m => { m with holds := m.holds ++
            [⟨some stop, [(input, p)], s.field F.TOP_NOC_CONFIG.RED_TIMEOUT 0 0, ins, 0⟩] }))))

/-- Packets in input buffers go on as far as they can, in order; `fuel` bounds the rounds. -/
def nocSettle : Nat → Prog Unit
  | 0 => skip
  | n + 1 => .get (fun s =>
      let ws := s.noc.stalls
      when (!ws.isEmpty) ((modNoc (fun m => { m with stalls := [] })).bind (fun _ =>
        (each ws (fun w => nocReduce 20 w.stop w.input w.packet)).bind (fun _ =>
          .get (fun t => when (t.noc.stalls != ws) (nocSettle n))))))

/-- What waits in input buffers after a merge slot may have come free. -/
def nocGoOn : Prog Unit := .get (fun s => nocSettle (20 * s.noc.stalls.length))

/-- A contribution injected by a site. -/
def reductionProg (src : SiteId) (p : NocPacket) : Prog Unit :=
  letI := Prog.monad
  do
  let s ← ask id
  nocReduce 20 (siteStop src) ((s.coreOf src).getD 131) p
  nocGoOn
  collPoll
def execReduction (src : SiteId) (p : NocPacket) (s : State) : Host.Outcome State Fault Refusal := Prog.next (reductionProg src p) s

/-- A packet leaves a stop towards its destination, held where its seam channel has lost lock (01 R17). -/
def nocForward (stop : Nat) (q : NocPacket) : Prog Unit :=
  .get (fun s => match s.siteOf (nDest q) with
    | none => skip
    | some i =>
      if stop = siteStop i then nocArrive q
      else
        let x := hop stop (siteStop i)
        match seamOf stop x.1 with
        | some row =>
          if s.seamLost row (nPlane q) then
            modNoc (fun m => { m with waits := m.waits ++ [⟨row, nPlane q, x.1, x.2, [], q⟩] })
          else nocReduce 20 x.1 x.2 q
        | none => nocReduce 20 x.1 x.2 q)

/-- A network cycle ends: what stops hold of ORD = 0 goes on, key by key, that of the highest stop first, so that LAST_STOP names the lowest
of those with an event (01 R45); `fuel` bounds the keys. -/
def cycleEnd : Nat → Prog Unit
  | 0 => skip
  | n + 1 => .get (fun s =>
      match s.noc.cycle.find? (fun w => s.noc.cycle.all (fun x => decide (x.stop ≤ w.stop))) with
      | none => skip
      | some w =>
        let ws := s.noc.mates w.stop w.packet
        (modNoc (fun m => { m with cycle := m.cycle.filter (fun x => !ws.contains x) })).bind (fun _ =>
          (cycleSum w.stop ws).bind (fun q => (match q with | some q => nocForward w.stop q | none => skip).bind (fun _ => cycleEnd n))))

/-- A wait for contributions that reaches its limit: what is held goes on, or is written, with POISON; a job error follows
(01 R33, 18 R460). -/
def nocTimeoutProg (stop : Option StopId) (p : NocPacket) : Prog Unit :=
  letI := Prog.monad
  do
  let s ← ask id
  let place' := stop.map (·.val)
  match s.noc.holds.find? (fun h => h.stop == place' && h.parts.any (fun q => nSameBut q.2 p && nFmt q.2 == nFmt p)) with
  | none => skip
  | some h =>
    when (h.limit != 0) do
      let dest := match s.siteOf (nDest p) with | some i => siteStop i | none => 0
      let at' := place'.getD dest
      modNoc (fun m => { m with holds := m.holds.erase h })
      nocError F.TOP_NOC_ERROR.RED_TIMEOUT at'
      let q ← nocFold at' true (if place'.isSome then h.inOrder else h.parts.map (·.2))
      if place'.isNone then nocLand q else nocForward at' q
      nocGoOn
      jobError 4
      collPoll
def execNocRedTimeout (stop : Option StopId) (p : NocPacket) (s : State) : Host.Outcome State Fault Refusal :=
  Prog.next (nocTimeoutProg stop p) s

/-! The seam (01 R17). -/

/-- A seam channel loses lock; the event is the west seam stop's (log 29). -/
def seamLossProg (row : Fin 4) (plane : Fin 8) : Prog Unit :=
  letI := Prog.monad
  do
  nocError F.TOP_NOC_ERROR.SEAM_LOCK (12 * row.val + 5)
  modNoc (fun n => { n with seams := if n.seams.contains (row.val, plane.val) then n.seams else n.seams ++ [(row.val, plane.val)] })
def execSeamLockLoss (row : Fin 4) (plane : Fin 8) (s : State) : Host.Outcome State Fault Refusal := Prog.next (seamLossProg row plane) s

end Sys2Proof.Machine
end

