-- ==== Sys2Proof/Machine/Complete.lean ====
section
/-!
DEFINITION. Ends of instructions: completion, the next queued instruction of the unit, and granules that arrive for an
instruction that waits for them (spec 05 R131, R132, 19 R483).
-/
namespace Sys2Proof.Machine
open Prog hiding pure bind get op run monad

/-- What an instruction of an opcode does once it acts. -/
def bodyOf (i : SiteId) (f : Flight) : Prog Unit :=
  match wOpcode f.word with
  | 0x10 => if f.batch.isSome then batchBody i f else mmaBody false i f
  | 0x11 => if f.batch.isSome then batchBody i f else mmaBody true i f
  | 0x12 => probeBody i f
  | 0x13 => parkBody i f
  | 0x14 => unparkBody i f
  | 0x20 | 0x21 => copyBody i f
  | 0x22 => gatherBody i f
  | 0x23 => scatterBody i f
  | 0x24 => if wb f.word 67 then drainBody i f else scatterAddBody i f
  | 0x30 => quantBody i f
  | 0x31 => requantBody i f
  | 0x32 => lutmvBody i f
  | 0x33 => scoutBody (wf f.word 119 118 == 1) i f
  | _ => mowerBody i f

/-- The bits that an instruction's last LOAD packet carries. -/
def extraOf (f : Flight) : Nat := if wOpcode f.word = 0x20 then acqOf f.word else 0

/-- The instruction that is next to start at a unit: the core's oldest that has not acted, at Lacewing only once it is the oldest at all
(06 R175); at the Mower the first of the cluster (07 R196). -/
def State.nextAt (s : State) (i : SiteId) (u : CoreUnit) : Option (SiteId × Flight) :=
  let mine := s.sites[i].flights.filter (fun f => f.unit == u)
  match u with
  | .coll => none
  | .lacewing => mine.head?.map (fun f => (i, f))
  | .mower => s.mowerNext (clusterOf i)
  | _ => ((mine.filter (fun f => f.phase != .done)).head?).map (fun f => (i, f))

/-- Queued instructions of a unit act, as far as their turn has come (05 R131). -/
def kickUnit : Nat → SiteId → CoreUnit → Prog Unit
  | 0, _, _ => skip
  | n + 1, i, u => .get (fun s =>
      match s.nextAt i u with
      | some (j, f) =>
        when (f.phase == .queued && !s.hushed && !s.xferWait j f) ((started j f).bind (fun _ =>
          (launch j f [] (bodyOf j f) (extraOf f)).bind (fun g => (putFlight j f g).bind (fun _ => (batchDone j g).bind (fun _ =>
            (when (u == .mower) (showMower (clusterOf i))).bind (fun _ => kickUnit n i u))))))
      | none => skip)

/-- A transfer ends (04 R117): an unparked tile is then held, a parked one is gone. An array instruction that waited for the registers
acts. -/
def transferDone (i : SiteId) (a : Fin 4) : Prog Unit :=
  letI := Prog.monad
  do
  modArr i a (fun y =>
    if y.xfer.busy then { y with xfer := { y.xfer with busy := false, held := !y.xfer.dir } } else y)
  showArrays i
  kickUnit 24 i .arrays

def execTileTransferDone (i : SiteId) (a : Fin 4) (s : State) : Host.Outcome State Fault Refusal :=
  Prog.next (transferDone i a) s

/-- Whether a COLL of the engine is over (12 R340). -/
def State.collDone (s : State) (f : Flight) : Bool :=
  !(s.coll.queue.any (fun e => e.id == f.tag)) && !(s.coll.runs.any (fun r => r.id == f.tag && !r.bg))

/-- The oldest instruction of a unit that has acted completes: its event, the waits on it, a drain (05 R132, R135). A SCATTER.ADD does
once its Anthills have accepted every packet of it (08 R241). -/
def completeProg (i : SiteId) (u : CoreUnit) : Prog Unit :=
  letI := Prog.monad
  do
  collPoll
  let s ← ask id
  match (s.sites[i].flights.filter (fun f => f.unit == u)).head? with
  | none => skip
  | some f =>
    let sent := s.noc.inserts.any (fun x => x.site == i && x.seq == f.seq)
    when (f.phase == .done && (u != .coll || s.collDone f) && !sent && !s.hushed) do
      match s.sites[i].mowed.find? (fun m => m.1 == f.seq) with
      | some m => setF F.MOW_STATUS.LAST_EPOCH (clusterOf i) 0 m.2
      | none => skip
      modSite i (fun x => { x with flights := x.flights.erase f, mowed := x.mowed.filter (fun m => m.1 != f.seq) })
      instrEvent i f false f.member
      leaveMower i (fun m => m == f.seq)
      kickUnit 24 i u
      drainCheck i
def execInstructionComplete (i : SiteId) (u : CoreUnit) (s : State) : Host.Outcome State Fault Refusal :=
  Prog.next (completeProg i u) s

/-- Whether a granule of this device that an instruction waits for is within reach: no lost seam channel is on the way (01 R17). -/
def State.inReach (s : State) (i : SiteId) (a : Nat) : Bool :=
  s.isLocal a && !s.pathCut (siteStop i) (fld a 40 0)

/-- Granules that arrive for the waiting instruction of a core with an address: when all are there, it acts, unless Hush holds the
core. -/
def feedFlight (i : SiteId) (u : CoreUnit) (pc : Word) (gs : List (Nat × Gran)) : Prog Unit :=
  letI := Prog.monad
  do
  let s ← ask id
  match s.sites[i].flights.find? (fun f => f.unit == u && f.pc == pc && (match f.phase with | .remote _ _ => true | _ => false)) with
  | none => skip
  | some f =>
    match f.phase with
    | .remote ws got => do
      let count (l : List Nat) (a : Nat) : Nat := (l.filter (· == a)).length
      let got' := got ++ gs.filter (fun g => decide (count (got.map (·.1)) g.1 < count ws g.1))
      let ask := f.unasked.filter (fun a => !s.cutFrom (siteStop i) a && !s.hushed)
      askFor i f (extraOf f) ask
      let left := f.unasked.filter (fun a => !ask.contains a)
      if ws.all (fun a => count (got'.map (·.1)) a == count ws a || s.inReach i a) && !s.hushed then do
        let f' ← launch i f got' (bodyOf i f) (extraOf f)
        putFlight i f f'
        batchDone i f'
        kickUnit 24 i u
      else putFlight i f { f with phase := .remote ws got', unasked := left }
    | _ => skip

/-- Instructions that got all they waited for act, and those whose turn at a Mower has come: once Hush releases their cores (19 R493), once
a seam channel has lock again (01 R17). -/
def wakeCores : Prog Unit :=
  (each (List.finRange 144) (fun i => .get (fun s => each s.sites[i].flights (fun f => feedFlight i f.unit f.pc [])))).bind (fun _ =>
    each (List.finRange 18) kickMower)

/-- A read response on the network at its requester (01 R26): a granule that an instruction of the site waits for. -/
def nocResponseProg (i : SiteId) (addr : Nat) (g : BitVec 288) : Prog Unit :=
  letI := Prog.monad
  do
  let s ← ask id
  each s.sites[i].flights (fun f => match f.phase with
    | .remote ws _ => when (ws.contains addr) (feedFlight i f.unit f.pc [(addr, granOf g)])
    | _ => skip)
def execNocReadResponse (i : SiteId) (addr : Word) (g : BitVec 288) (s : State) : Host.Outcome State Fault Refusal :=
  Prog.next (nocResponseProg i addr.toNat g) s

end Sys2Proof.Machine
end

