-- ==== Sys2Proof/Machine/Links.lean ====
section
/-!
DEFINITION. Fabric links: acknowledgement, replay and credit, link management, states, training and failure, lanes, TC0 windows
and time (spec/11_fabric.md R300 to R307, R314, R329 to R335).
-/
namespace Sys2Proof.Machine
open Prog hiding pure bind get op run monad

/-! The link map (11 R307, 15 R408). -/

/-- A field of LINK_MAP[n] of the option image in use. -/
def State.linkMap (s : State) (n hi lo : Nat) : Nat :=
  fld (s.reg .OPT_IMAGE 0 ((64 + 4 * n) / 8)) (hi + 32 * (n % 2)) (lo + 32 * (n % 2))
def State.mapped (s : State) (n : Nat) : Bool := s.linkMap n 31 31 == 1
def State.mapPeerDev (s : State) (n : Nat) : Nat := s.linkMap n 14 0
def State.mapPeerLink (s : State) (n : Nat) : Nat := s.linkMap n 20 15

/-! Time (11 R329, R330). -/

/-- The parent link: the one that the route to the grandmaster names, while it is up; else the link that is up whose peer has the
lowest stratum, the lowest number breaking ties. -/
def State.timeParent (s : State) : Option Nat :=
  let gm := s.field F.FAB_TIME_CONFIG.GM 0 0
  let named := s.field F.FAB_ROUTE_DEV.LINK 0 gm
  if s.field F.FAB_ROUTE_DEV.VALID 0 gm = 1 && s.linkIsUp named then some named
  else
    ((List.finRange 64).filter (fun l => s.linkIsUp l.val && decide (s.links[l].peerStratum < 63))).foldl
      (fun (best : Option (LinkId)) l => match best with
        | none => some l
        | some b => if s.links[l].peerStratum < s.links[b].peerStratum then some l else best) none |>.map (·.val)

/-- STRATUM, PARENT and HOLDOVER as they stand: 0 for the grandmaster, the parent's plus 1 up to 62, 63 and HOLDOVER while there is no
parent (11 R329, R330). -/
def timeState : Prog Unit :=
  letI := Prog.monad
  do
  let s ← ask id
  if s.ownId = s.field F.FAB_TIME_CONFIG.GM 0 0 then setF F.FAB_TIME_STATUS.STRATUM 0 0 0
  else match s.timeParent with
    | some l => do
      setF F.FAB_TIME_STATUS.HOLDOVER 0 0 0
      setF F.FAB_TIME_STATUS.PARENT 0 0 l
      setF F.FAB_TIME_STATUS.STRATUM 0 0 (min 62 ((if h : l < 64 then s.links[l].peerStratum else 63) + 1))
    | none => do
      setF F.FAB_TIME_STATUS.STRATUM 0 0 63
      setF F.FAB_TIME_STATUS.HOLDOVER 0 0 1

/-- A frequency trim within ±200 ppm: the loop's value is free (log 33). -/
def trimFree : Prog Unit :=
  letI := Prog.monad
  do
  let v ← fresh 32
  setF F.FAB_TIME_STATUS.TRIM 0 0 (wrap 16 ((v % 40001 : Nat) - (20000 : Int)))

/-- A TIME message sent on a link that is up. -/
def timeSendProg (l : LinkId) : Prog Unit :=
  letI := Prog.monad
  do
  let s ← ask id
  when (s.linkIsUp l.val) do
    timeState
    let s ← ask id
    sendOn l.val {
      w0 := BitVec.ofNat 64 (place 63 60 9 + place 44 30 s.ownId + place 28 14 (s.field F.FAB_TIME_CONFIG.GM 0 0) +
        place 13 8 (s.field F.FAB_TIME_STATUS.STRATUM 0 0))
      w1 := BitVec.ofNat 64 s.now
      w2 := BitVec.ofNat 64 s.links[l].rxStamp
      w3 := BitVec.ofNat 64 s.links[l].echo
      grans := [] }
def execTimeSend (l : LinkId) (s : State) : Host.Outcome State Fault Refusal := Prog.next (timeSendProg l) s

/-- A TIME message arrives at t4: on the parent link, with an echo to measure by, the device computes its offset, loads its timebase
at its first lock during bring-up and trims after it. Times are in ns (log 33). -/
def timeArrive (l : LinkId) (p : Packet) (t4 : Nat) : Prog Unit :=
  letI := Prog.monad
  do
  modLink l (fun k => { k with rxStamp := t4, echo := p.w1.toNat, peerStratum := fld p.w0.toNat 13 8 })
  timeState
  let s ← ask id
  let t1 : Int := (p.w3.toNat : Int)
  let t2 : Int := (p.w2.toNat : Int)
  let t3 : Int := (p.w1.toNat : Int)
  let twice := (t2 - t1) - ((t4 : Int) - t3)
  when (s.ownId != s.field F.FAB_TIME_CONFIG.GM 0 0 && s.timeParent == some l.val && p.w3 != 0) do
    setF F.FAB_TIME_STATUS.OFFSET 0 0 (wrap 32 (8 * twice))
    if !s.flag F.FAB_TIME_STATUS.LOCKED 0 0 && s.field F.RST_PHASE.PHASE 0 0 == 8 then do
      traceEvent 0xC 5 0 0xFF 0 0 s.now 0
      act (.now ((s.now : Int) + twice / 2).toNat)
      setF F.TBS_STATUS.STEPPED 0 0 1
    else trimFree
    setF F.FAB_TIME_STATUS.LOCKED 0 0 1

/-! States (11 R331, R332, R335). -/

/-- A link's new state, with its LINK event, what waits for it if it is up, and the time parent as it now is. -/
def linkState (l : LinkId) (st : Nat) : Prog Unit :=
  letI := Prog.monad
  do
  let old ← getF F.FAB_LINK_STATUS.STATE l.val
  when (old != st) do
    setF F.FAB_LINK_STATUS.STATE l.val 0 st
    traceEvent 9 4 l.val 9 0 0 (place 5 3 old + place 2 0 st) 0
    timeState
    when (st == 2 || st == 3) do
      pump l
      flushTrees

/-- Unacknowledged flits discarded and counted; the link's next training starts anew. What the peer asks of the lanes and a lane command
not yet sent stay (11 R301, R333). -/
def loseFlits (l : LinkId) : Prog Unit :=
  letI := Prog.monad
  do
  let s ← ask id
  incF F.FAB_LINK_ERR_COUNT.LOST l.val 0 s.links[l].replay.length
  modLink l (fun k => { k with replay := [], replays := [], partialRx := [], synced := false })

/-- A job error whose cause has no code of its own: DETAIL is free among the codes that are written (18 R460, log 34). -/
def jobErrorOther : Prog Unit := (fresh 2).bind (fun v => jobError (v + 1))

/-- A retrain: counted, the replay buffer kept. -/
def retrainLink (l : LinkId) : Prog Unit :=
  letI := Prog.monad
  do
  let s ← ask id
  let st := s.field F.FAB_LINK_STATUS.STATE l.val 0
  when (2 ≤ st && st ≤ 5) do
    incF F.FAB_LINK_ERR_COUNT.RETRAINS l.val 0 1
    modLink l (fun k => { k with fails := 0 })
    linkState l 1

/-- FAB_LINK_CTRL.RETRAIN written: the peer of a link that is up gets the retrain command (11 R303). -/
def writeRetrain (l : LinkId) : Prog Unit :=
  .get (fun s => (when (s.linkIsUp l.val) ((modLink l (fun k => { k with command := 3 })).bind (fun _ => mgmtSlot l))).bind (fun _ => retrainLink l))
def execRetrain (l : LinkId) (s : State) : Host.Outcome State Fault Refusal := Prog.next (gated (Reg.addr .FAB_LINK_CTRL l.val 0) (writeRetrain l)) s

/-- Both lanes of a link that is up lose lock. -/
def lockLoss (l : LinkId) : Prog Unit := .get (fun s => when (s.linkIsUp l.val) (retrainLink l))
def execLaneLockLoss (l : LinkId) (s : State) : Host.Outcome State Fault Refusal := Prog.next (lockLoss l) s

/-- A link enters its first training: mapped, enabled, DOWN, and bring-up has begun. -/
def trainLink (l : LinkId) : Prog Unit :=
  .get (fun s => when (s.mapped l.val && s.flag F.FAB_LINK_CTRL.ENABLE l.val 0 && s.field F.FAB_LINK_STATUS.STATE l.val 0 == 0 &&
    decide (8 ≤ s.field F.RST_PHASE.PHASE 0 0)) (linkState l 1))

/-- FAB_LINK_CTRL.ENABLE written 1. -/
def enableLink (l : LinkId) : Prog Unit := (setF F.FAB_LINK_CTRL.ENABLE l.val 0 1).bind (fun _ => trainLink l)
def execLinkEnable (l : LinkId) (s : State) : Host.Outcome State Fault Refusal := Prog.next (gated (Reg.addr .FAB_LINK_CTRL l.val 0) (enableLink l)) s

/-- FAB_LINK_CTRL.ENABLE written 0: DOWN, its unacknowledged flits discarded and counted. -/
def disableLink (l : LinkId) : Prog Unit :=
  letI := Prog.monad
  do
  setF F.FAB_LINK_CTRL.ENABLE l.val 0 0
  let s ← ask id
  when (s.field F.FAB_LINK_STATUS.STATE l.val 0 != 0) do
    loseFlits l
    linkState l 0
def execLinkDisable (l : LinkId) (s : State) : Host.Outcome State Fault Refusal := Prog.next (gated (Reg.addr .FAB_LINK_CTRL l.val 0) (disableLink l)) s

/-- A link that becomes FAILED or MISWIRED: its bit, LAST_LINK and its record (11 R307, R332, 18 R457). -/
def linkLost (l : LinkId) (f : Field) : Prog Unit :=
  letI := Prog.monad
  do
  setF F.FAB_ERROR.LAST_LINK 0 0 l.val
  fabError f
  faultRecord 6 l.val {}

/-- Whether a link runs HALF: either end asks for it (11 R301). -/
def State.wantsHalf (s : State) (l : LinkId) : Bool := s.flag F.FAB_CONFIG.LANES 0 0 || s.links[l].peerHalf

/-- Flits of the replay buffer sent again, in order. -/
def resend (l : LinkId) : Prog Unit := .get (fun s => each s.links[l].replay (fun f => sendFlit l f.2))

/-- A training ends: the peer's identity is compared with the map; no lane in four trainings in a row fails the link; a link that
was up before resends its replay buffer, any other starts its sequence numbers anew (log 35). -/
def trainingDone (l : LinkId) (t : Training) : Prog Unit :=
  letI := Prog.monad
  do
  let s ← ask id
  when (s.field F.FAB_LINK_STATUS.STATE l.val 0 == 1) do
    if t.lanes = 0 then do
      modLink l (fun k => { k with fails := k.fails + 1 })
      when (decide (4 ≤ s.links[l].fails + 1)) do
        modLink l (fun k => { k with fails := 0 })
        loseFlits l
        linkState l 4
        linkLost l F.FAB_ERROR.LINK_LOST
        jobErrorOther
    else do
      setF F.FAB_LINK_STATUS.PEER_DEV l.val 0 t.peerDev.toNat
      setF F.FAB_LINK_STATUS.PEER_LINK l.val 0 t.peerLink.val
      modLink l (fun k => { k with fails := 0 })
      if t.peerDev.toNat != s.mapPeerDev l.val || t.peerLink.val != s.mapPeerLink l.val then do
        linkState l 5
        linkLost l F.FAB_ERROR.MISWIRED
      else do
        modLink l (fun k => if k.synced then { k with replays := [], nakSent := false }
          else { k with nextSeq := 0, ackedSeq := 4095, expectSeq := 0, lastRx := 4095, nakSent := false, replay := [], replays := [],
                        credits := List.replicate 48 640, pool := 100352, owed := List.replicate 48 0, partialRx := [], synced := true,
                        laneCmd := 0 })
        modLink l (fun k => { k with slot := 0 })
        when (s.links[l].command != 0) (mgmtSlot l)
        setF F.FAB_LINK_STATUS.DEGRADED l.val 0 (b2n (t.lanes == 1 && !s.wantsHalf l))
        resend l
        linkState l (if t.lanes = 1 || s.wantsHalf l then 3 else 2)
def execLinkTrainingDone (l : LinkId) (t : Training) (s : State) : Host.Outcome State Fault Refusal :=
  Prog.next (trainingDone l t) s

/-! Lanes (11 R303, R333). -/

/-- The link's agreed width may have changed: the change is made at LANE_CHANGE. -/
def planLanes (l : LinkId) : Prog Unit :=
  .get (fun s =>
    let st := s.field F.FAB_LINK_STATUS.STATE l.val 0
    let cmd := if s.wantsHalf l && st == 2 then 1 else if !s.wantsHalf l && st == 3 then 2 else 0
    modLink l (fun k => { k with laneCmd := cmd }))

/-- A write of FAB_CONFIG.LANES, sent to each peer in the next link-management flit (11 R333): that of the next slot 255 of a link that is
up; of a link in training, the first one after it. -/
def writeLanes (half : Bool) : Prog Unit :=
  letI := Prog.monad
  do
  setF F.FAB_CONFIG.LANES 0 0 (b2n half)
  each (List.finRange 64) (fun l => do
    let s ← ask id
    modLink l (fun k => { k with command := if half then 1 else 2 })
    when (s.linkIsUp l.val) do
      mgmtSlot l
      planLanes l)
def execLanesWrite (half : Bool) (s : State) : Host.Outcome State Fault Refusal := Prog.next (gated (Reg.addr .FAB_CONFIG 0 0) (writeLanes half)) s

/-- Lane 1 stops or joins at a slot 255. -/
def laneChangeProg (l : LinkId) : Prog Unit :=
  letI := Prog.monad
  do
  let s ← ask id
  when (s.linkIsUp l.val && s.links[l].laneCmd != 0) do
    let cmd := s.links[l].laneCmd
    modLink l (fun k => { k with laneCmd := 0 })
    when (cmd == 2) (setF F.FAB_LINK_STATUS.DEGRADED l.val 0 0)
    linkState l (if cmd = 1 then 3 else 2)
def execLaneChange (l : LinkId) (s : State) : Host.Outcome State Fault Refusal := Prog.next (laneChangeProg l) s

/-! TC0 (11 R314). -/

/-- Whether the TC0 bytes of a window of 100 µs exceed 5 % of the capacity (11 R302): 50 GB/s × 244/256 × 255/256 FULL, half of it
HALF. -/
def overTc0 (half : Bool) (bytes : Nat) : Bool := decide (250000 * 62220 < bytes * 65536 * (if half then 2 else 1))

/-- A window of 100 µs ends. -/
def windowEnd (l : LinkId) : Prog Unit :=
  letI := Prog.monad
  do
  let s ← ask id
  when (overTc0 (s.field F.FAB_LINK_STATUS.STATE l.val 0 == 3) s.links[l].tc0Bytes) (setF F.FAB_LINK_STATUS.TC0_OVER l.val 0 1)
  modLink l (fun k => { k with tc0Bytes := 0 })
def execTc0WindowEnd (l : LinkId) (s : State) : Host.Outcome State Fault Refusal := Prog.next (windowEnd l) s

/-! Flit headers (11 R302, R304, R305). -/

/-- A header field of a flit. -/
def flitFld (f : BitVec 2048) (hi lo : Nat) : Nat := fld f.toNat hi lo

/-- Whether a flit's CRC matches and its FTYPE is not reserved. -/
def flitOk (f : BitVec 2048) : Bool :=
  let bs := toBytes 256 f.toNat
  decide (flitFld f 63 60 < 3) && crc32c (bs.take 252) == leAt bs 252 4

/-- One more replay of each flit of the replay buffer. -/
def Link.replayed (k : Link) : List Nat := (List.range k.replay.length).map (fun n => nth k.replays n 0 + 1)

/-- A replay of all outstanding flits from the oldest on: counted; the eighth of one SEQ, which is first that of the oldest, retrains the
link (11 R304). -/
def replayLink (l : LinkId) : Prog Unit :=
  letI := Prog.monad
  do
  let s ← ask id
  when (!s.links[l].replay.isEmpty) do
    incF F.FAB_LINK_ERR_COUNT.REPLAYS l.val 0 1
    modLink l (fun k => { k with replays := k.replayed })
    if 8 ≤ nth s.links[l].replayed 0 0 then retrainLink l else resend l

/-- ACK frees the flits that it covers, oldest first. -/
def Link.acked (k : Link) (a : Nat) : Link :=
  let n := (a + 4096 - k.ackedSeq) % 4096
  if n = 0 || decide (k.replay.length < n) then k else { k with replay := k.replay.drop n, ackedSeq := a, replays := k.replays.drop n }

/-- Credit returned: to the channel's own reserve first, the rest to the shared part. -/
def Link.credited (k : Link) (vc n : Nat) : Link :=
  let c := nth k.credits vc 0
  let own := min (640 - c) n
  if vc < 48 then { k with credits := k.credits.set vc (c + own), pool := min 100352 (k.pool + (n - own)) } else k

/-- What a flit's header says to the sender's side: ACK, NAK, and credit where `credit` says that it counts. -/
def takeHeader (l : LinkId) (f : BitVec 2048) (credit : Bool) : Prog Unit :=
  letI := Prog.monad
  do
  modLink l (fun k => k.acked (flitFld f 47 36))
  when credit (modLink l (fun k => k.credited (flitFld f 28 23) (32 * flitFld f 22 12)))
  when (f.toNat.testBit 35) (replayLink l)
  pump l
  flushTrees

/-- What a link answers to a data flit: credit for what has left its receive buffer, else an idle flit; either acknowledges (11 R304,
R305). -/
def returnCredit (l : LinkId) : Prog Unit :=
  .get (fun s => if (List.range 48).any (fun v => decide (32 ≤ nth s.links[l].owed v 0)) then creditsOut l
    else sendFlit l (idleFlit s.links[l].lastRx false))

/-- FEC codewords of a flit corrected, and those of a flit that did not decode, as far as they are not of another flit: a flit lies in at
most two codewords of each lane that carries it, and how many of them is not said (11 R300, R335, log 84). -/
def fecCount (l : LinkId) (fec : Bool) : Prog Unit :=
  letI := Prog.monad
  do
  let s ← ask id
  let most := if s.field F.FAB_LINK_STATUS.STATE l.val 0 = 2 then 4 else 2
  let c ← fresh 3
  incF F.FAB_LINK_FEC.CORRECTED l.val 0 (c % (most + 1))
  when (!fec) do
    let u ← fresh 3
    incF F.FAB_LINK_FEC.UNCORRECTABLE l.val 0 (u % (most + 1))

/-- An idle flit of a link that is up; any flit that fails its check is ignored, only data flits being counted (11 R335). -/
def idleProg (l : LinkId) (f : BitVec 2048) : Prog Unit :=
  .get (fun s => when (s.linkIsUp l.val) ((fecCount l (flitOk f)).bind (fun _ =>
    when (flitOk f && flitFld f 63 60 == 1) (takeHeader l f true))))
def execIdleFlit (l : LinkId) (flit : BitVec 2048) (s : State) : Host.Outcome State Fault Refusal := Prog.next (idleProg l flit) s

/-- ACK has not advanced for 4 µs while flits are outstanding. -/
def replayTimeoutProg (l : LinkId) : Prog Unit := .get (fun s => when (s.linkIsUp l.val) (replayLink l))
def execReplayTimeout (l : LinkId) (s : State) : Host.Outcome State Fault Refusal := Prog.next (replayTimeoutProg l) s

/-- A link-management flit: the peer's identity and lane command, also of a link in training (11 R303, R333). -/
def managementProg (l : LinkId) (f : BitVec 2048) : Prog Unit :=
  letI := Prog.monad
  do
  let s ← ask id
  let st := s.field F.FAB_LINK_STATUS.STATE l.val 0
  when (s.linkIsUp l.val) (fecCount l (flitOk f))
  when ((st == 1 || st == 2 || st == 3) && flitOk f && flitFld f 63 60 == 2) do
    setF F.FAB_LINK_STATUS.PEER_DEV l.val 0 (flitFld f 78 64 % 2 ^ 15)
    setF F.FAB_LINK_STATUS.PEER_LINK l.val 0 (flitFld f 87 80 % 64)
    when (s.linkIsUp l.val) (takeHeader l f true)
    match flitFld f 95 88 with
    | 1 => do
      modLink l (fun k => { k with peerHalf := true })
      planLanes l
    | 2 => do
      modLink l (fun k => { k with peerHalf := false })
      planLanes l
    | 3 => retrainLink l
    | _ => skip
    collPoll
def execLinkManagementFlit (l : LinkId) (flit : BitVec 2048) (s : State) : Host.Outcome State Fault Refusal :=
  Prog.next (managementProg l flit) s

end Sys2Proof.Machine
end

