-- ==== Sys2Proof/Machine/MemCtl.lean ====
section
/-!
DEFINITION. Memory controllers: granule reads and writes, scrub, fill, refresh and power-down (spec/10_memory_system.md R277 to R279,
R285, R289 to R293, 16 R433).
-/
namespace Sys2Proof.Machine
open Prog hiding pure bind get op run monad

/-- Local offsets that LPDDR6 backs, the firmware's range included (10 R286). -/
def lpddrEnd : Nat := 0x014000000000

/-- A granule read at its controller, whose line the slice has written back before (01 R37). The command does not name the unit that it reads for: a report of it names any (log 151). -/
def memReadProg (off : Nat) : Prog Unit :=
  letI := Prog.monad
  let a := off / 32 * 32
  do
  when (decide (a < lpddrEnd)) do
    let s ← ask id
    let unit ← fresh 8
    let g ← (if s.flag F.MEM_CH_STATUS.FAILED (channelOf a) 0 then poisonGran else
      (flushLine a).bind (fun _ => channelRead { cls := .dma, unit := 1 + unit % 13 } a))
    emit (.nocResponse a [burstOf g])
def execMemRead (off : BitVec 41) (s : State) : Host.Outcome State Fault Refusal := Prog.next (memReadProg off.toNat) s

/-- A whole granule written at its controller, its check bytes unchanged; a failed channel drops it (10 R284, R296). -/
def memWriteProg (off : Nat) (g : BitVec 288) : Prog Unit :=
  letI := Prog.monad
  let a := off / 32 * 32
  do
  when (decide (a < lpddrEnd)) do
    wake a
    let s ← ask id
    when (!s.flag F.MEM_CH_STATUS.FAILED (channelOf a) 0) ((flushLine a).bind (fun _ => putGran a (granOf g)))
def execMemWrite (off : BitVec 41) (g : BitVec 288) (s : State) : Host.Outcome State Fault Refusal :=
  Prog.next (memWriteProg off.toNat g) s

/-! Scrub (10 R291). -/

/-- Granules of a channel: 20 GiB. -/
def chanGrans : Nat := 671088640

/-- Usable channels (10 R294, R298). -/
def State.usable (s : State) : List ChannelId := (List.finRange 64).filter (fun c => s.flag F.MEM_CH_STATUS.USABLE c.val 0)

/-- The pass starts again at the beginning. -/
def scrubRestart : Prog Unit :=
  (each (List.finRange 64) (fun c => modChannel c (fun x => { x with scrub := 0 }))).bind (fun _ =>
    setF F.MEM_SCRUB_STATUS.PROGRESS 0 0 0)

def writePeriod (p : Nat) : Prog Unit := (setF F.MEM_SCRUB_CTRL.PERIOD 0 0 p).bind (fun _ => scrubRestart)
def execScrubPeriodWrite (period : Byte) (s : State) : Host.Outcome State Fault Refusal :=
  Prog.next (gated (Reg.addr .MEM_SCRUB_CTRL 0 0) (writePeriod period.toNat)) s

/-- PROGRESS follows the channel that is furthest behind; a pass ends when every usable channel has ended it. -/
def scrubProgress : Prog Unit :=
  letI := Prog.monad
  do
  let s ← ask id
  let n := (s.usable.map (fun c => s.channels[c].scrub)).foldl min chanGrans
  if n = chanGrans then do
    scrubRestart
    addF F.MEM_SCRUB_STATUS.PASSES 0 0 1
  else setF F.MEM_SCRUB_STATUS.PROGRESS 0 0 (n * 65536 / chanGrans)

/-- The scrub reads one granule of a channel: its sub-channels in turn, positions upwards. It finds what LPDDR6 holds, which a slice may
hold newer (01 R35); a corrected granule is written back there. -/
def scrubProg (ch : ChannelId) : Prog Unit :=
  letI := Prog.monad
  do
  let s ← ask id
  let n := s.channels[ch].scrub
  when (s.field F.MEM_SCRUB_CTRL.PERIOD 0 0 != 0 && s.flag F.MEM_CH_STATUS.USABLE ch.val 0 && decide (n < chanGrans)) do
    let off := offsetAt ch.val (n % 2) (n / 2)
    wake off
    let line ← settleLine off
    let k := off % 128 / 32
    let g := nth line k (s.stored off)
    let (o, d) := match s.erased off with
      | some pin => ((g.erasureDecode pin).1, (g.erasureDecode pin).2.data)
      | none => g.decode
    match o with
    | .corrected _ => do
      reportGran { cls := .dma, unit := 0x0D, direct := true } off o 1
      let s1 ← ask id
      match s1.dirtyLine off with
      | some _ => setLine off [line.set k (.valid d)]
      | none => putGran off (.valid d)
    | .uncorr => reportGran { cls := .dma, unit := 0x0D, direct := true } off o 1
    | _ => skip
    modChannel ch (fun c => { c with scrub := n + 1 })
    scrubProgress
def execScrubGranule (ch : ChannelId) (s : State) : Host.Outcome State Fault Refusal := Prog.next (scrubProg ch) s

/-! Fill (10 R292). -/

/-- The end of a fill. -/
def fillDone : Prog Unit := (setF F.MEM_FILL_CTRL.BUSY 0 0 0).bind (fun _ => raise 2)

/-- MEM_FILL_CTRL written: dropped while a fill runs; with GO the fill starts, one of no granules ending at once. -/
def writeFill (v : Nat) : Prog Unit :=
  letI := Prog.monad
  do
  let s ← ask id
  when (!s.flag F.MEM_FILL_CTRL.BUSY 0 0) do
    setF F.MEM_FILL_CTRL.LEN 0 0 v
    when (v.testBit 63) (if v % 2 ^ 36 = 0 then fillDone else setF F.MEM_FILL_CTRL.BUSY 0 0 1)
def execFillGo (v : Word) (s : State) : Host.Outcome State Fault Refusal :=
  Prog.next (gated (Reg.addr .MEM_FILL_CTRL 0 0) (writeFill (v.toNat ||| 2 ^ 63))) s

/-- The fill engine's granules: zero data with a valid code, each coherent with the
last-level cache as a Rake write is, and of owner class DMA where it reaches a bank (10 R292, 01 R37, 05 R157). -/
def fillProg : Prog Unit :=
  letI := Prog.monad
  do
  let s ← ask id
  when (s.flag F.MEM_FILL_CTRL.BUSY 0 0) do
    let base := 32 * s.field F.MEM_FILL_BASE.BASE 0 0
    each (List.range (s.field F.MEM_FILL_CTRL.LEN 0 0)) (fun k => do
      let _ ← writePatch { cls := .dma, unit := 0, direct := true } ⟨(base + 32 * k) % 2 ^ 41, List.replicate 32 (0xFF, 0), false⟩
      skip)
    fillDone
def execFillComplete (s : State) : Host.Outcome State Fault Refusal := Prog.next fillProg s

/-! Refresh and power-down (10 R278, 16 R433). -/

/-- A package's temperature readout, which its channels' refresh rate follows; at 95 °C the package is held to half its bursts until
it reads below 90 °C. -/
def refreshProg (j : Fin 16) (temp : Nat) : Prog Unit :=
  letI := Prog.monad
  do
  each (List.finRange 64) (fun c => when (decide (c.val / 4 = j.val)) (modChannel c (fun x => { x with refresh := temp })))
  modPwr (fun p => { p with memTemp := p.memTemp.set j.val temp,
                            memHot := if 95 ≤ temp then j.val :: p.memHot.filter (· != j.val)
                              else if temp < 90 then p.memHot.filter (· != j.val) else p.memHot })
  when (decide (95 ≤ temp)) (pwrEvent F.PWR_EVENT.MEM_HOT)
def execRefreshRateUpdate (j : Fin 16) (temp : Byte) (s : State) : Host.Outcome State Fault Refusal :=
  Prog.next (refreshProg j temp.toNat) s

/-- A channel idle for 64 memory cycles enters active power-down. -/
def powerDownProg (ch : ChannelId) : Prog Unit := modChannel ch (fun c => { c with powerDown := true })
def execPowerDownEntry (ch : ChannelId) (s : State) : Host.Outcome State Fault Refusal := Prog.next (powerDownProg ch) s

end Sys2Proof.Machine
end

