-- ==== Sys2Proof/Machine/HostIf.lean ====
section
/-!
DEFINITION. The host interface: command rings and completion queues, interrupts held and sent, BAR2, PTM, power states and the PCIe
link (spec/14_host_interface.md R376 to R393, 15 R404, 21 R515). Commands that write registers stand in RegAccess.
-/
namespace Sys2Proof.Machine
open Prog hiding pure bind get op run monad

/-! Held vectors (14 R378, R389). -/

/-- A vector whose pending bit is set and whose Mask is clear is sent. -/
def sendHeld (v : Nat) : Prog Unit :=
  .get (fun s => when ((s.reg .MSIX_PBA 0 (v / 64)).testBit (v % 64) && !s.flag F.MSIX_CTRL.MASK 0 v)
    ((setR .MSIX_PBA 0 (v / 64) (s.reg .MSIX_PBA 0 (v / 64) - 1 <<< (v % 64))).bind (fun _ => sendVector v)))

/-- Every held vector that may be sent. -/
def sendAllHeld : Prog Unit := each (List.range 256) sendHeld

/-- MSI-X Mask of a vector cleared. -/
def unmask (v : Nat) : Prog Unit := (setF F.MSIX_CTRL.MASK 0 v 0).bind (fun _ => sendHeld v)
def execMsixUnmask (v : Fin 256) (s : State) : Host.Outcome State Fault Refusal :=
  Prog.next (gated (Reg.addr .MSIX_CTRL 0 v.val) (unmask v.val)) s

/-- Ones written to a cause register: bits clear, and an enabled bit that stays set sends its vector again (14 R389). -/
def clearCause (r : Reg) (j v : Nat) : Prog Unit :=
  letI := Prog.monad
  do
  let s ← ask id
  let left := s.reg r 0 j - (s.reg r 0 j &&& v)
  let on := if r = .HST_IRQ_CAUSE then left &&& s.reg .HST_IRQ_ENABLE 0 0 else left
  setR r 0 j left
  when (v != 0) (each (onesOf 64 on) (fun b => sendVector (if r = .HST_IRQ_CAUSE then b else 32 + 64 * j + b)))

/-- A write of a cause register. -/
def causeProg (off v : Nat) : Prog Unit :=
  match Reg.find off with
  | some (.HST_IRQ_CAUSE, _, _) => clearCause .HST_IRQ_CAUSE 0 v
  | some (.HST_SITE_CAUSE, _, j) => clearCause .HST_SITE_CAUSE j v
  | _ => skip
def execIrqCauseClear (off : BitVec 26) (v : Word) (s : State) : Host.Outcome State Fault Refusal :=
  Prog.next (gated off.toNat (causeProg off.toNat v.toNat)) s

/-- A bit of HST_ERROR set (14 R388). -/
def hostError (f : Field) : Prog Unit := errorBit f 0 0

/-! Rings (14 R382 to R387, R398). -/

def State.ringSize (s : State) (r : RingId) : Nat := 2 ^ min 16 (max 4 (s.field F.HST_RING_BASE.LOG2 r 0))
def State.cqSize (s : State) (r : RingId) : Nat := 2 ^ min 16 (max 4 (s.field F.HST_CQ_BASE.LOG2 r 0))

/-- The stream of a ring's packets (DESIGN CHOICE, log 36). -/
def ringStream (r : RingId) : Nat := 2 * r.val + 1

/-- The requester of host traffic on this device: class DMA, the PCIe controller, at HW, as consumer (01 R19, 14 R381, 18 R459). -/
def hostReq : Req := { cls := .dma, unit := 0x0C, stop := some hubWest }

/-- Up to eight commands asked from host memory, in reads of at most the read size in use (14 R376). -/
def ringFetch (r : RingId) : Prog Unit :=
  letI := Prog.monad
  do
  let s ← ask id
  let x := s.host.rings[r]
  let n := s.ringSize r
  let head := s.field F.HST_RING_PTRS.HEAD r 0 % n
  let tail := s.field F.HST_RING_PTRS.TAIL r 0 % n
  when (s.flag F.HST_RING_CTRL.ENABLE r 0 && !x.draining && x.asked == 0 && x.queue.isEmpty && head != tail) do
    let k := min 8 (min ((tail + n - head) % n) (n - head))
    modRing r (fun y => { y with asked := k, parts := [] })
    hostReads (.fetch r) (4096 * s.field F.HST_RING_BASE.BASE r 0 + 64 * head) (64 * k) 0

/-- The next command starts, or is fetched, unless one executes or a record waits for room (14 R384, R385). -/
def ringGo (r : RingId) : Prog Unit :=
  letI := Prog.monad
  do
  let s ← ask id
  let x := s.host.rings[r]
  when (x.record.isNone && !s.flag F.HST_RING_CTRL.BUSY r 0 && s.flag F.HST_RING_CTRL.ENABLE r 0) do
    if x.queue.isEmpty then ringFetch r
    else do
      setF F.HST_RING_CTRL.BUSY r 0 1
      modRing r (fun y => { y with acted := false, status := 0, detail := 0, got := [], moved := 0, late := [] })

/-- What reads of host memory still bring concerns nobody: their tags stay in use until their completions. -/
def dropReads (o : Origin) : Prog Unit :=
  modHost (fun h => { h with
    waiting := h.waiting.filter (fun q => q.origin != o)
    reads := h.reads.map (fun q => if q.origin = o then { q with origin := .gone } else q) })

/-- A ring disabled: commands fetched and not started are fetched again later. -/
def ringOff (r : RingId) : Prog Unit :=
  letI := Prog.monad
  do
  let s ← ask id
  let x := s.host.rings[r]
  let n := s.ringSize r
  setF F.HST_RING_CTRL.ENABLE r 0 0
  setF F.HST_RING_PTRS.HEAD r 0 ((s.field F.HST_RING_PTRS.HEAD r 0 % n + n - x.queue.length % n) % n)
  modRing r (fun y => { y with queue := [], asked := 0, parts := [], draining := false })
  dropReads (.fetch r)

/-- The waiting record written, if the queue has room; its vector is sent after CQ_COUNT records (14 R385, R389). -/
def ringRecord (r : RingId) : Prog Unit :=
  letI := Prog.monad
  do
  let s ← ask id
  let x := s.host.rings[r]
  let n := s.cqSize r
  let tail := s.field F.HST_CQ_PTRS.TAIL r 0 % n
  let head := s.field F.HST_CQ_PTRS.HEAD r 0 % n
  match x.record with
  | none => skip
  | some bs =>
    when ((tail + 1) % n != head) do
      emit (.hostWrite (4096 * s.field F.HST_CQ_BASE.BASE r 0 + 32 * tail) (bs.set 6 (if x.phase then 1 else 0)) false)
      setF F.HST_CQ_PTRS.TAIL r 0 ((tail + 1) % n)
      let due := decide (max 1 (s.field F.HST_RING_CTRL.CQ_COUNT r 0) ≤ x.unsignal + 1)
      modRing r (fun y => { y with record := none, phase := if tail + 1 = n then !y.phase else y.phase,
                                   unsignal := if due then 0 else y.unsignal + 1 })
      when due (sendVector (16 + r.val))

/-- The command in execution completes with a STATUS and DETAIL (14 R385 to R387). -/
def ringFinish (r : RingId) (status detail : Nat) : Prog Unit :=
  letI := Prog.monad
  do
  let s ← ask id
  match s.host.rings[r].queue with
  | [] => skip
  | c :: rest => do
    setF F.HST_RING_CTRL.LAST_STATUS r 0 status
    setF F.HST_RING_CTRL.BUSY r 0 0
    modRing r (fun y => { y with queue := rest, acted := false, got := [], moved := 0, late := [] })
    when (c.w0.toNat.testBit 54 || status != 0) do
      modRing r (fun y => { y with record := some (toBytes 4 (fld c.w0.toNat 31 0) ++ toBytes 1 status ++ toBytes 1 (fld c.w0.toNat 63 56) ++
        toBytes 1 0 ++ toBytes 1 r.val ++ toBytes 8 s.now ++ toBytes 8 detail ++ zeroBytes 8) })
      ringRecord r
    if s.host.rings[r].draining then ringOff r else ringGo r

/-- A status of the command in execution; the first one other than OK stays, with its address. -/
def ringNote (r : RingId) (status detail : Nat) : Prog Unit :=
  modRing r (fun y => if y.status = 0 then { y with status := status, detail := detail } else y)

/-- Whether something that a ring's command asked for is still awaited. -/
def State.ringAwaits (s : State) (r : RingId) : Bool :=
  (s.host.waiting ++ s.host.reads).any (fun q => q.origin == .ring r) || s.fabric.reqs.any (fun q => q.origin == .ring r) ||
    s.fabric.held.any (fun h => h.req.origin == .ring r)

/-- A command offered to its ring: it acts if it is the one in execution and has the given operation. -/
def ringRun (r : RingId) (c : RingCmd) (ops : Nat → Bool) (body : Prog Unit) : Prog Unit :=
  .get (fun s => when (s.flag F.HST_RING_CTRL.BUSY r 0 && s.host.rings[r].queue.head? == some c && ops (fld c.w0.toNat 63 56)) body)

/-- An address or length of a command: bits [4:0] are ignored (14 R383). -/
def al32 (w : Word) : Nat := w.toNat / 32 * 32

def nopCmd (r : RingId) (c : RingCmd) : Prog Unit := ringRun r c (· == 0) (ringFinish r 0 0)
def execNopCommand (r : RingId) (c : RingCmd) (s : State) : Host.Outcome State Fault Refusal := Prog.next (nopCmd r c) s

def badOpCmd (r : RingId) (c : RingCmd) : Prog Unit := ringRun r c (fun o => decide (7 ≤ o)) (ringFinish r 3 0)
def execCommandBadOp (r : RingId) (c : RingCmd) (s : State) : Host.Outcome State Fault Refusal := Prog.next (badOpCmd r c) s

/-! Copies (14 R383, R384, R386). -/

/-- Granules of a COPY_D2H sent to the host, each corrected where it can be; the first that is uncorrectable or POISON, or of a LOAD that
failed, gives the status (14 R386). -/
def d2hSend (r : RingId) (dev host len : Nat) : Prog Unit :=
  letI := Prog.monad
  each (List.range (len / 32)) (fun k => do
    let a := dev + 32 * k
    let relaxed ← ask (fun s => s.host.relaxed)
    let g ← readRaw hostReq a
    if g.failed then do
      ringNote r 2 a
      emit (.hostWritePoisoned (host + 32 * k) g.data relaxed)
    else do
      let (o, d) := g.decode
      reportGran hostReq a o 0
      match o with
      | .clean | .corrected _ => emit (.hostWrite (host + 32 * k) d relaxed)
      | _ => do
        ringNote r 1 a
        emit (.hostWritePoisoned (host + 32 * k) g.data relaxed))

/-- What a COPY_D2H of this state would need from other devices. -/
def State.d2hWants (s : State) (r : RingId) (dev host len : Nat) : List Nat :=
  let s0 := Prim.apply (.want []) (Prim.apply (.got s.host.rings[r].got) s)
  ((d2hSend r dev host len).run s0).2.want.eraseDups

/-- The next chunk of a COPY_D2H: its device and host address and its length, at most 4 KiB (14 R384). -/
def State.d2hChunk (s : State) (r : RingId) (c : RingCmd) : Nat × Nat × Nat :=
  let at' := 32 * s.host.rings[r].moved
  (al32 c.w1 + at', al32 c.w2 + at', min 4096 (al32 c.w3 - at'))

/-- What the next chunk of a COPY_D2H still needs. -/
def State.chunkWants (s : State) (r : RingId) (c : RingCmd) : List Nat :=
  s.d2hWants r (s.d2hChunk r c).1 (s.d2hChunk r c).2.1 (s.d2hChunk r c).2.2

/-- Whether a ring has a chunk of a COPY_D2H ready. -/
def State.chunkReady (s : State) (r : RingId) : Bool :=
  match s.host.rings[r].queue with
  | [] => false
  | c :: _ => s.flag F.HST_RING_CTRL.BUSY r 0 && s.host.rings[r].acted && fld c.w0.toNat 63 56 == 2 && (s.chunkWants r c).isEmpty

/-- Whether the next chunk is a ring's: ring 15's whenever it has one ready, among rings 0 to 14 that of the first after the last one that
moved a chunk (14 R384). -/
def State.chunkTurn (s : State) (r : RingId) : Bool :=
  let after (q : RingId) : Nat := (q.val + 14 - s.host.turn) % 15
  (List.finRange 16).all (fun q => q == r || !s.chunkReady q || r.val == 15 || (q.val != 15 && decide (after r < after q)))

/-- A COPY_D2H goes on by one chunk, if it is the ring's turn: it sends the chunk once all of it has arrived, else it asks for what is
missing. -/
def d2hStep (r : RingId) (c : RingCmd) : Prog Unit :=
  letI := Prog.monad
  do
  let s ← ask id
  let ws := s.chunkWants r c
  if ws.isEmpty then
    when (s.chunkTurn r) do
      let (dev, host, len) := s.d2hChunk r c
      act (.got s.host.rings[r].got)
      d2hSend r dev host len
      act (.got [])
      modHost (fun h => h.took r.val)
      modRing r (fun y => { y with got := [], moved := y.moved + len / 32 })
      let s1 ← ask id
      when (decide (al32 c.w3 ≤ 32 * s1.host.rings[r].moved)) (ringFinish r s1.host.rings[r].status s1.host.rings[r].detail)
  else requestWanted (.ring r) 2 (ringStream r) 0 (ws.filter (fun a => !s.cutFrom hubWest a))

/-- Granules written for a ring: on this device, or as TC2 STOREs to another (14 R383). -/
def ringStore (r : RingId) (sg : Signal) (ps : List Patch) : Prog Unit :=
  letI := Prog.monad
  do
  let out ← writePatches hostReq ps
  sendStores (.ring r) 2 (ringStream r) 0 sg out

/-- Granules of a COPY_H2D that have arrived are written, as far as the seam and stopped cores let them (01 R17, R41); the rest waits. -/
def ringLand (r : RingId) (gs : List (Nat × List Byte × Bool)) : Prog Unit :=
  letI := Prog.monad
  do
  let s ← ask id
  let held (g : Nat × List Byte × Bool) : Bool := s.reqHeld hostReq g.1
  modRing r (fun y => { y with late := gs.filter held })
  ringStore r {} ((gs.filter (fun g => !held g)).map (fun g => ⟨g.1, g.2.1.map (fun b => (0xFF, b.toNat)), g.2.2⟩))

/-- The command in execution of a ring completes if it has acted and nothing that it asked for is awaited. -/
def ringCheck (r : RingId) : Prog Unit :=
  letI := Prog.monad
  do
  let s ← ask id
  match s.host.rings[r].queue with
  | [] => skip
  | c :: _ =>
    when (s.flag F.HST_RING_CTRL.BUSY r 0 && s.host.rings[r].acted && !s.ringAwaits r) do
      match fld c.w0.toNat 63 56 with
      | 1 | 5 => when s.host.rings[r].late.isEmpty (ringFinish r s.host.rings[r].status s.host.rings[r].detail)
      | 2 => d2hStep r c
      | _ => skip

/-- What a lost seam channel or Hush held of the rings goes on. -/
def ringsGoOn : Prog Unit :=
  each (List.finRange 16) (fun r => .get (fun s =>
    (when (!s.host.rings[r].late.isEmpty) (ringLand r s.host.rings[r].late)).bind (fun _ =>
      when (s.host.rings[r].acted) (ringCheck r))))

def copyH2D (r : RingId) (c : RingCmd) : Prog Unit :=
  letI := Prog.monad
  ringRun r c (· == 1) (do
    let s ← ask id
    when (!s.host.rings[r].acted) do
      if al32 c.w3 = 0 then ringFinish r 0 0
      else if 2 ≤ fld (al32 c.w2) 63 62 then ringFinish r 4 (al32 c.w2)
      else do
        modRing r (fun y => { y with acted := true })
        hostReads (.ring r) (al32 c.w1) (al32 c.w3) (al32 c.w2))
def execCopyH2D (r : RingId) (c : RingCmd) (s : State) : Host.Outcome State Fault Refusal := Prog.next (copyH2D r c) s

/-- COPY_D2H moves its chunks one by one, each with one command (log 160). -/
def copyD2H (r : RingId) (c : RingCmd) : Prog Unit :=
  letI := Prog.monad
  ringRun r c (· == 2) (do
    let s ← ask id
    if al32 c.w3 = 0 then ringFinish r 0 0
    else if 2 ≤ fld (al32 c.w1) 63 62 then ringFinish r 4 (al32 c.w1)
    else when (!s.ringAwaits r) do
      modRing r (fun y => { y with acted := true })
      d2hStep r c)
def execCopyD2H (r : RingId) (c : RingCmd) (s : State) : Host.Outcome State Fault Refusal := Prog.next (copyD2H r c) s

/-! START, HALT and SIGNAL (14 R382, R383). -/

/-- The slice size in use (06 R184, 15 R409). -/
def State.sliceSize (s : State) : Nat :=
  let v := fld (s.reg .OPT_IMAGE 0 0) 55 48
  if v = 8 || v = 16 || v = 32 then v else 0

/-- The logical cores that a command's mask names, each with whether it is of the ring's set. -/
def State.ringMask (s : State) (r : RingId) (c : RingCmd) : List (Nat × Bool) :=
  (onesOf 128 (c.w4.toNat + c.w5.toNat <<< 64)).map (fun k => (k, decide (128 ≤ k + s.sliceSize) == (r.val == 15)))

/-- The sites of the present cores that a mask names among those of the ring's set. -/
def State.ringCores (s : State) (r : RingId) (c : RingCmd) : List SiteId :=
  (s.ringMask r c).filterMap (fun k => if k.2 then s.siteOf k.1 else none)

/-- Mask bits outside the ring's set are reported. -/
def maskIgnored (r : RingId) (c : RingCmd) : Prog Unit :=
  .get (fun s => when ((s.ringMask r c).any (fun k => !k.2))
    ((setF F.HST_ERROR.LAST_RING 0 0 r.val).bind (fun _ => hostError F.HST_ERROR.MASK_IGNORED)))

def startCmd (r : RingId) (c : RingCmd) : Prog Unit :=
  letI := Prog.monad
  ringRun r c (· == 3) (do
    maskIgnored r c
    let s ← ask id
    each (s.ringCores r c) (fun i => do
      let s ← ask id
      when (s.field F.CORE_SEQ_STATUS.STATE i 0 == 0 && !s.deaf i) do
        setF F.CORE_SEQ_PC.ADDR i 0 (c.w1.toNat / 16)
        startCore i)
    ringFinish r 0 0)
def execStartCommand (r : RingId) (c : RingCmd) (s : State) : Host.Outcome State Fault Refusal := Prog.next (startCmd r c) s

/-- HALT acts once, and completes when every named present core is halted. -/
def haltCmd (r : RingId) (c : RingCmd) : Prog Unit :=
  letI := Prog.monad
  ringRun r c (· == 4) (do
    let s ← ask id
    when (!s.host.rings[r].acted) do
      modRing r (fun y => { y with acted := true })
      maskIgnored r c
      each (s.ringCores r c) (fun i => if c.w3.toNat.testBit 0 then abortCore i else haltRequest i)
    let s1 ← ask id
    when ((s1.ringCores r c).all (fun i => s1.field F.CORE_SEQ_STATUS.STATE i 0 == 0)) (ringFinish r 0 0))
def execHaltCommand (r : RingId) (c : RingCmd) (s : State) : Host.Outcome State Fault Refusal := Prog.next (haltCmd r c) s

def signalCmd (r : RingId) (c : RingCmd) : Prog Unit :=
  letI := Prog.monad
  ringRun r c (· == 5) (do
    let s ← ask id
    let a := al32 c.w2
    let core := fld c.w1.toNat 10 4
    let cc := fld c.w1.toNat 3 0
    when (!s.host.rings[r].acted) do
      if 2 ≤ fld a 63 62 then ringFinish r 4 a
      else when (!s.reqHeld hostReq a) do
        modRing r (fun y => { y with acted := true })
        ringStore r { sig := true, core := core, cc := cc }
          (Patch.addBytes a (toBytes 8 c.w4.toNat ++ toBytes 8 c.w5.toNat ++ toBytes 8 c.w6.toNat ++ toBytes 8 c.w7.toNat) [])
        match s.target a with
        | .remote _ | .bad => skip
        | _ => signalCC core cc
        ringCheck r
        collPoll)
def execSignal (r : RingId) (c : RingCmd) (s : State) : Host.Outcome State Fault Refusal := Prog.next (signalCmd r c) s

/-! Ring control (14 R387, R398). -/

def doorbell (r : RingId) (tail : Nat) : Prog Unit := (setF F.HST_RING_PTRS.TAIL r 0 tail).bind (fun _ => ringGo r)
def execRingDoorbell (r : RingId) (tail : BitVec 32) (s : State) : Host.Outcome State Fault Refusal :=
  Prog.next (gated (Reg.addr .HST_RING_PTRS r.val 0) (doorbell r tail.toNat)) s

def ringOn (r : RingId) : Prog Unit := (setF F.HST_RING_CTRL.ENABLE r 0 1).bind (fun _ => ringGo r)
def execRingEnable (r : RingId) (s : State) : Host.Outcome State Fault Refusal :=
  Prog.next (gated (Reg.addr .HST_RING_CTRL r.val 0) (ringOn r)) s

/-- DRAIN: the ring is disabled once no command executes. -/
def drainRing (r : RingId) : Prog Unit :=
  .get (fun s => if s.flag F.HST_RING_CTRL.BUSY r 0 then modRing r (fun y => { y with draining := true }) else ringOff r)
def execRingDrain (r : RingId) (s : State) : Host.Outcome State Fault Refusal :=
  Prog.next (gated (Reg.addr .HST_RING_CTRL r.val 0) (drainRing r)) s

/-- ABORT: the command in execution ends with ABORTED; what it still awaits concerns nobody. -/
def abortRing (r : RingId) : Prog Unit :=
  letI := Prog.monad
  do
  dropReads (.ring r)
  modFabric (fun f => { f with reqs := f.reqs.map (fun q => if q.origin = .ring r then { q with origin := .gone } else q),
                               held := f.held.map (fun h => if h.req.origin = .ring r then { h with req := { h.req with origin := .gone } } else h) })
  let s ← ask id
  if s.flag F.HST_RING_CTRL.BUSY r 0 then do
    modRing r (fun y => { y with draining := true })
    ringFinish r 6 0
  else ringOff r
def execRingAbort (r : RingId) (s : State) : Host.Outcome State Fault Refusal :=
  Prog.next (gated (Reg.addr .HST_RING_CTRL r.val 0) (abortRing r)) s

def cqHead (r : RingId) (head : Nat) : Prog Unit :=
  (setF F.HST_CQ_PTRS.HEAD r 0 head).bind (fun _ => (ringRecord r).bind (fun _ => ringGo r))
def execCqHeadWrite (r : RingId) (head : BitVec 32) (s : State) : Host.Outcome State Fault Refusal :=
  Prog.next (gated (Reg.addr .HST_CQ_PTRS r.val 0) (cqHead r head.toNat)) s

/-- CQ_TIME µs after the first record not yet signalled (14 R389). -/
def cqTimerProg (r : RingId) : Prog Unit :=
  .get (fun s => when (s.host.rings[r].unsignal != 0)
    ((modRing r (fun y => { y with unsignal := 0 })).bind (fun _ => sendVector (16 + r.val))))
def execCqTimer (r : RingId) (s : State) : Host.Outcome State Fault Refusal := Prog.next (cqTimerProg r) s

/-! BAR2 (14 R380, R381). -/

/-- Whether BAR2 decodes a range. -/
def State.bar2Open (s : State) (off len : Nat) : Bool :=
  s.field F.RST_PHASE.PHASE 0 0 == 9 && s.host.linkUp && s.host.memEn && !s.host.d3 && decide (off + len ≤ 2 ^ s.host.bar2Log2)

/-- Whether a lost seam channel, or a core whose clock Hush has stopped, holds an access of a range: it has not reached its target, has no
effect and comes again (01 R17, R41, log 140). -/
def State.bar2Held (s : State) (off len : Nat) : Bool := (granulesOf (span off len)).any (fun a => s.reqHeld hostReq a)

/-- A host read: granule by granule, a completion for the bytes of each; one that is uncorrectable or POISON is returned as it is in a
poisoned completion. -/
def bar2ReadProg (off len : Nat) : Prog Unit :=
  letI := Prog.monad
  do
  let s ← ask id
  when (s.bar2Open off len && !s.bar2Held off len) (each (granulesOf (span off len)) (fun a => do
    let g ← readRaw hostReq a
    let (o, d) := g.decode
    reportGran hostReq a o 0
    let lo := max a off
    let hi := min (a + 32) (off + len)
    match o with
    | .clean | .corrected _ => emit (.completion (slice d (lo - a) (hi - lo)) false)
    | _ => emit (.completion (slice g.data (lo - a) (hi - lo)) true)))
def execBar2Read (off : BitVec 41) (len : Fin 4097) (s : State) : Host.Outcome State Fault Refusal :=
  Prog.next (bar2ReadProg off.toNat len.val) s

def bar2WriteProg (off : Nat) (bytes : List Byte) : Prog Unit :=
  letI := Prog.monad
  do
  let s ← ask id
  when (s.bar2Open off bytes.length && !s.bar2Held off bytes.length) do
    let _ ← writePatches hostReq (Patch.addBytes off bytes [])
    skip
def execBar2Write (off : BitVec 41) (bytes : List Byte) (s : State) : Host.Outcome State Fault Refusal :=
  Prog.next (bar2WriteProg off.toNat bytes) s

/-! Time, power states and the link (14 R377, R378, R389, R393, 21 R515). -/

/-- A PTM dialog: the offset in units of 2^−4 ns, with the device's own error of at most ±5 ns, which is free (log 33). -/
def ptmProg (t : Nat) : Prog Unit :=
  letI := Prog.monad
  do
  let s ← ask id
  when (s.flag F.HST_PTM_CTRL.ENABLE 0 0 && s.host.linkUp) do
    let e ← fresh 16
    setF F.HST_PTM_STATUS.HOST_TIME 0 0 t
    setF F.HST_PTM_OFFSET.OFFSET 0 0 (wrap 64 (16 * ((t : Int) - s.now) + ((e % 161 : Nat) : Int) - 80))
    when (s.flag F.HST_PTM_CTRL.FOLLOW 0 0 && s.ownId == s.field F.FAB_TIME_CONFIG.GM 0 0) trimFree
def execPtmDialog (t : Word) (s : State) : Host.Outcome State Fault Refusal := Prog.next (ptmProg t.toNat) s

def d3Prog : Prog Unit := modHost (fun h => { h with d3 := true })
def execPowerStateD3hot (s : State) : Host.Outcome State Fault Refusal := Prog.next d3Prog s
def d0Prog : Prog Unit := (modHost (fun h => { h with d3 := false })).bind (fun _ => sendAllHeld)
def execPowerStateD0 (s : State) : Host.Outcome State Fault Refusal := Prog.next d0Prog s

/-- The PCIe link goes down. -/
def pcieDown : Prog Unit := (modHost (fun h => { h with linkUp := false })).bind (fun _ => setR .HST_PCIE_STATUS 0 0 0)
def execPcieLinkDown (s : State) : Host.Outcome State Fault Refusal := Prog.next pcieDown s

/-- The PCIe link trains, with PERST# deasserted, at a width and rate that R377 knows; below ×4 at 128 GT/s it is DOWNTRAINED. -/
def pcieUp (width rate : Nat) (flit : Bool) : Prog Unit :=
  letI := Prog.monad
  do
  let s ← ask id
  when ((width == 1 || width == 2 || width == 4) && rate != 0 && (flit || decide (rate ≤ 5)) && !s.rst.perst &&
      s.field F.RST_PHASE.PHASE 0 0 != 1) do
    modHost (fun h => { h with linkUp := true })
    let low := width != 4 || rate != 7
    setR .HST_PCIE_STATUS 0 0 (place 8 8 (b2n low) + place 7 7 (b2n flit) + place 6 4 width + rate)
    when low (raise 0)
    sendAllHeld
def execPcieLinkUp (width rate : Fin 8) (flit : Bool) (s : State) : Host.Outcome State Fault Refusal :=
  Prog.next (pcieUp width.val rate.val flit) s

/-- REFCLK stops: under CLK_MODE 0b00 with PERST# deasserted the link goes down. -/
def refclkProg : Prog Unit :=
  .get (fun s => when (s.field F.RST_STRAPS.CLK_MODE 0 0 == 0 && !s.rst.perst) pcieDown)
def execRefclkLoss (s : State) : Host.Outcome State Fault Refusal := Prog.next refclkProg s

/-- A configuration request: Retry Status until phase 3 has ended, then served; BAR2's size changes only while Memory Space Enable is
0; the device control settings and AER's two error statuses are kept (14 R376; settings that the device does not support are
dropped, log 153), and what any other read returns is free (log 1). -/
def configProg (q : ConfigReq) : Prog Unit :=
  letI := Prog.monad
  do
  let s ← ask id
  when s.host.linkUp do
    if s.field F.RST_PHASE.PHASE 0 0 ≤ 3 then emit .retryStatus
    else match q with
      | .read => do
        let v ← fresh 32
        emit (.configData v)
      | .memSpace on => modHost (fun h => { h with memEn := on })
      | .resize n => when (!s.host.memEn && decide (30 ≤ n.val) && decide (n.val ≤ 41)) (modHost (fun h => { h with bar2Log2 := n.val }))
      | .control p r ro => modHost (fun h => { h with
          payload := if p.val ≤ 2 then p.val else h.payload, request := if r.val ≤ 5 then r.val else h.request, relaxed := ro })
      | .readControl => emit (.configData (place 14 12 s.host.request + place 7 5 s.host.payload + place 4 4 (b2n s.host.relaxed)))
      | .readErrors => emit (.configData s.host.aer)
      | .readCorrectable => emit (.configData s.host.aerCor)
      | .clearCorrectable m => modHost (fun h => { h with aerCor := h.aerCor - (h.aerCor &&& m.toNat) })
      | .clearErrors m => modHost (fun h => { h with aer := h.aer - (h.aer &&& m.toNat) })
def execConfigurationRequest (q : ConfigReq) (s : State) : Host.Outcome State Fault Refusal := Prog.next (configProg q) s

end Sys2Proof.Machine
end

