-- ==== Sys2Proof/Machine/Fence.lean ====
section
/-!
DEFINITION. Fences and core resets: spares, absent cores, the sweep of one site (spec/18_reliability.md R462 to R465, R468,
15 R405, R416).
-/
namespace Sys2Proof.Machine
open Prog hiding pure bind get op run monad

/-! The reset of a core block (15 R416, 18 R464). -/

/-- The registers of a core block (00 R14). -/
def coreRegs : List Reg := Reg.all.filter (fun r => r.place.insts == 144)

/-- A site's core block at its reset values; the fused maximum clock, AGED_MAX and the guard stay (16 R423). -/
def resetCoreBlock (i : SiteId) : Prog Unit :=
  letI := Prog.monad
  do
  let s ← ask id
  let fmax := s.field F.CORE_PWR_STATUS.FMAX_MHZ i 0
  let aged := s.field F.CORE_PWR_STATUS.AGED_MAX_MHZ i 0
  let guard := s.field F.CORE_PWR_STATUS.GUARD_MV i 0
  act (.resetRegs coreRegs (some i.val))
  setF F.CORE_PWR_STATUS.FMAX_MHZ i 0 fmax
  setF F.CORE_PWR_STATUS.AGED_MAX_MHZ i 0 aged
  setF F.CORE_PWR_STATUS.GUARD_MV i 0 guard
  act (.site i {})

/-! Fences (18 R462 to R464). -/

/-- The spare that a fenced site's core takes (18 R463): unfenced, named for no core; of the same cluster, else of the same half,
else of the other half, lowest number first. -/
def State.spare (s : State) (i : SiteId) : Option SiteId :=
  let free := (List.finRange 144).filter (fun j => !s.fenced j && (s.coreOf j).isNone)
  match free.find? (fun j => clusterOf j == clusterOf i) with
  | some j => some j
  | none => match free.find? (fun j => halfOf j == halfOf i) with
    | some j => some j
    | none => free.head?

/-- A site's bit of TOP_FENCED; its cycle counters keep what they held (01 R41), END_TIME the stamp of now, or of the trigger where Hush had
stopped its clock (log 162). -/
def markFenced (i : SiteId) : Prog Unit :=
  letI := Prog.monad
  do
  let s ← ask id
  setR .TOP_FENCED 0 (i.val / 64) (s.reg .TOP_FENCED 0 (i.val / 64) ||| 1 <<< (i.val % 64))
  modSite i (fun x => { x with heldAt := s.freeCtr, stopAt := if s.hushed then s.reg .TRC_HUSH_TIME 0 0 else s.now })
  act .free

/-- A fenced site's core moved to its spare, whose core block stands at reset values, or absent (18 R463, R464); it answers whether the
core became absent. -/
def moveCore (i : SiteId) : Prog Bool :=
  letI := Prog.monad
  do
  let s ← ask id
  match s.coreOf i with
  | none => pure false
  | some c =>
    match s.spare i with
    | some j => do
      setR .TOP_CORE_MAP 0 c j.val
      resetCoreBlock j
      pure false
    | none => do
      setR .TOP_CORE_MAP 0 c 0x1FF
      pure true

/-- Sites fenced at once: all are marked, then their cores take spares in ascending number of the site, and the records are written in
ascending KIND and then SITE (18 R461, R464). -/
def fenceSites (detail : Nat) (is : List SiteId) : Prog Unit :=
  letI := Prog.monad
  do
  let s ← ask id
  let new := (List.finRange 144).filter (fun i => is.contains i && !s.fenced i)
  each new markFenced
  let gone ← collect new moveCore
  each new (fun i => faultRecord 4 detail (.ofSite i))
  each (List.range new.length) (fun k => match new[k]? with
    | some i => when (nth gone k false) (faultRecord 5 detail (.ofSite i))
    | none => skip)

/-- TOP_FENCE_CMD written (18 R464, R468). -/
def fenceCmd (v : Nat) (h : Half) : Prog Unit :=
  letI := Prog.monad
  do
  let s ← ask id
  if h' : fld v 7 0 < 144 then
    let i : SiteId := ⟨fld v 7 0, h'⟩
    when (h == .full && fld v 63 48 == 0xF3A1 && !s.fenced i) do
      abortCore i
      fenceSites 3 [i]
      collPoll
  else skip
def execFenceSite (v : Word) (h : Half) (s : State) : Host.Outcome State Fault Refusal :=
  Prog.next (gated (Reg.addr .TOP_FENCE_CMD 0 0) (fenceCmd v.toNat h)) s

/-! Sweeps (15 R405, R416). -/

/-- The contents of a site's scratch banks and accumulator memory, all zero with a valid code after its sweep. -/
def sweepSite (i : SiteId) : Prog Unit := act (.forget (windowBase i.val) (windowBase i.val + 0x280000))

/-- DETAIL of a sweep fault's record (18 R457). -/
def sweepDetail : SweepFault → Nat
  | .scratch .. => 1
  | .acc .. => 2
  | .cacheData .. => 3
  | .cacheTags .. => 4
  | .anthill .. => 5

/-- The location of a sweep fault (18 R521). -/
def sweepPlace : SweepFault → Where
  | .scratch i a b => { Where.ofSite i with level := 1, struct := 1, address := windowBase i.val + a.toNat, bit := b.val }
  | .acc i m a b =>
    { Where.ofSite i with level := 1, array := m.val, struct := 2, address := windowBase i.val + 0x200000 + 0x20000 * m.val + a.toNat,
                          bit := b.val }
  | .cacheData c _ | .cacheTags c _ => { Where.ofCluster c.val with struct := 3 }
  | .anthill c _ => { Where.ofCluster c.val with struct := 4 }

/-- A sweep fault: its record (18 R521). -/
def sweepRecord (f : SweepFault) : Prog Unit := faultRecord 3 (sweepDetail f) (sweepPlace f)

/-- The site that a sweep fault condemns. -/
def faultSite : SweepFault → Option SiteId
  | .scratch i _ _ | .acc i _ _ _ => some i
  | _ => none

/-- The cluster and cache way that a sweep fault disables. -/
def faultLlc : SweepFault → Option (ClusterId × Nat)
  | .cacheData c w | .cacheTags c w => some (c, w.val)
  | _ => none

/-- The cluster and Anthill way that a sweep fault disables. -/
def faultAnt : SweepFault → Option (ClusterId × Nat)
  | .anthill c w => some (c, w.val)
  | _ => none

/-- RST_CAUSE overwritten by a reset that takes effect (15 R413, R418). -/
def setCause (source kind core phase : Nat) (linesLost optRestart : Bool) : Prog Unit :=
  setR .RST_CAUSE 0 0 (place 31 28 source + place 25 24 kind + place 22 16 core + place 11 8 phase +
    place 1 1 (b2n linesLost) + b2n optRestart)

/-- The reset of the present always-on cycle, if one has taken effect and start-up has not gone on since. -/
def State.resetSeen (s : State) : Option ResetSeen := s.rst.cycle.filter (fun c => c.left == s.field F.RST_PHASE.PHASE 0 0)

/-- The phase that a reset of the present cycle meets. -/
def State.phaseMet (s : State) : Nat := ((s.resetSeen).map (·.phase)).getD (s.field F.RST_PHASE.PHASE 0 0)

/-- Whether a reset of the present cycle prevails over one of a kind and source (15 R417): cold over warm over core, then the order of
the table of R413. -/
def State.outranked (s : State) (kind source : Nat) : Bool :=
  match s.resetSeen with
  | some c => !(decide (kind < c.kind) || kind == c.kind && decide (source < c.source))
  | none => false

/-- A reset has taken effect in the present cycle. -/
def noteReset (kind source phase : Nat) : Prog Unit :=
  .get (fun s => modRst (fun r => { r with cycle := some ⟨kind, source, phase, s.field F.RST_PHASE.PHASE 0 0⟩ }))

/-- A requested core reset takes effect (15 R416), unless a cold or warm reset of the same cycle prevails (R417); of an absent core it does nothing. -/
def coreResetProg (core : Fin 128) (faults : List SweepFault) : Prog Unit :=
  letI := Prog.monad
  do
  let s ← ask id
  when (s.rst.requests.contains (2 + core.val)) do
    modRst (fun r => { r with requests := r.requests.filter (· != 2 + core.val) })
    match s.siteOf core.val with
    | none => skip
    | some i => when (!(s.resetSeen.any (fun c => decide (c.kind < 2)))) do
      setCause 4 2 core.val (s.field F.RST_PHASE.PHASE 0 0) false false
      abortCore i
      sweepSite i
      resetCoreBlock i
      let mine := faults.filter (fun f => faultSite f == some i)
      each mine sweepRecord
      setF F.RST_SWEEP.SITES_FENCED 0 0 (b2n (!mine.isEmpty && !s.fenced i))
      when (!mine.isEmpty) (fenceSites 2 [i])
      collPoll
      noteReset 2 4 (s.field F.RST_PHASE.PHASE 0 0)
def execCoreReset (core : Fin 128) (faults : List SweepFault) (s : State) : Host.Outcome State Fault Refusal :=
  Prog.next (coreResetProg core faults) s

end Sys2Proof.Machine
end

