-- ==== Sys2Proof/Machine/Xmss.lean ====
section
/-!
DEFINITION. SHAKE256 and the signatures XMSS-SHAKE256_20_256 that spec/17_security.md R440 names. Their computation is that of the
standards that it names (NIST SP 800-208, and FIPS 202 and RFC 8391 under it), taken from general knowledge of them: PRESUMED (log 20).
-/
namespace Sys2Proof.Machine

/-! Keccak-f[1600]: 25 lanes of 64 bits, lane x, y at 5 y + x. -/

/-- Rotation of a lane to the left. -/
def rotl64 (v n : Nat) : Nat := ((v <<< n) ||| (v >>> (64 - n))) % 2 ^ 64

/-- The constants of the 24 rounds. -/
def keccakRounds : List Nat :=
  [0x0000000000000001, 0x0000000000008082, 0x800000000000808A, 0x8000000080008000, 0x000000000000808B, 0x0000000080000001,
   0x8000000080008081, 0x8000000000008009, 0x000000000000008A, 0x0000000000000088, 0x0000000080008009, 0x000000008000000A] ++
  [0x000000008000808B, 0x800000000000008B, 0x8000000000008089, 0x8000000000008003, 0x8000000000008002, 0x8000000000000080,
   0x000000000000800A, 0x800000008000000A, 0x8000000080008081, 0x8000000000008080, 0x0000000080000001, 0x8000000080008008]

/-- How far each lane is rotated. -/
def keccakTurns : List Nat :=
  [0, 1, 62, 28, 27, 36, 44, 6, 55, 20, 3, 10, 43, 25, 39, 41, 45, 15, 21, 8, 18, 2, 61, 56, 14]

/-- One round. -/
def keccakRound (a : List Nat) (rc : Nat) : List Nat :=
  let at' (l : List Nat) (x y : Nat) : Nat := nth l (5 * (y % 5) + x % 5) 0
  let c := (List.range 5).map (fun x => at' a x 0 ^^^ at' a x 1 ^^^ at' a x 2 ^^^ at' a x 3 ^^^ at' a x 4)
  let d := (List.range 5).map (fun x => nth c ((x + 4) % 5) 0 ^^^ rotl64 (nth c ((x + 1) % 5) 0) 1)
  let t := (List.range 25).map (fun k => rotl64 (nth a k 0 ^^^ nth d (k % 5) 0) (nth keccakTurns k 0))
  let b := (List.range 25).map (fun k => at' t (k % 5 + 3 * (k / 5)) (k % 5))
  let e := (List.range 25).map (fun k =>
    at' b k (k / 5) ^^^ ((2 ^ 64 - 1 - at' b (k + 1) (k / 5)) &&& at' b (k + 2) (k / 5)))
  (nth e 0 0 ^^^ rc) :: e.drop 1

/-- The permutation. -/
def keccakF (a : List Nat) : List Nat := keccakRounds.foldl keccakRound a

/-- Bytes of one block of SHAKE256, whose rate is 136 bytes. -/
def shakeRate : Nat := 136

/-- A message with its padding: the bits 1111, then 1, zeros and a last 1, to whole blocks. -/
def shakePad (m : List Byte) : List Byte :=
  let z := shakeRate - 1 - m.length % shakeRate
  m ++ (if z = 0 then [0x9F] else 0x1F :: (zeroBytes (z - 1) ++ [0x80]))

/-- A block added to the lanes, and the permutation. -/
def shakeAbsorb (a : List Nat) (block : List Byte) : List Nat :=
  keccakF ((List.range 25).map (fun k => nth a k 0 ^^^ (if k < 17 then leAt block (8 * k) 8 else 0)))

/-- The bytes that the lanes give. -/
def shakeOut (a : List Nat) : List Byte := (a.take 17).flatMap (toBytes 8)

/-- `k` further blocks squeezed out of the lanes. -/
def shakeSqueeze : Nat → List Nat → List Byte
  | 0, _ => []
  | k + 1, a => shakeOut a ++ shakeSqueeze k (keccakF a)

/-- SHAKE256 of a message, `n` bytes long. -/
@[irreducible] def shake256 (m : List Byte) (n : Nat) : List Byte :=
  slice (shakeSqueeze (ceilDiv n shakeRate) ((chunksOf shakeRate (shakePad m)).foldl shakeAbsorb (List.replicate 25 0))) 0 n

/-! XMSS-SHAKE256_20_256. -/

/-- A number as `n` bytes, most significant first. -/
def bigBytes (n v : Nat) : List Byte := (toBytes n v).reverse

/-- The keyed hashes F, H, H_msg, PRF and PRF_keygen are SHAKE256 over their number, the key and the message. -/
def xHash (which : Nat) (key m : List Byte) : List Byte := shake256 (bigBytes 32 which ++ key ++ m) 32

/-- Bytes XORed. -/
def xorBytes (a b : List Byte) : List Byte := List.zipWith (· ^^^ ·) a b

/-- A hash address: type 0 (one-time), 1 (L-tree) or 2 (tree), its three words, and which key or mask is derived. -/
def xAddr (type a b c mask : Nat) : List Byte := zeroBytes 12 ++ ([type, a, b, c, mask].map (bigBytes 4)).flatten

/-- `s` steps of a chain from step `i`; `a` is the leaf and `c` the chain. -/
def xChain (seed : List Byte) (a c : Nat) : Nat → Nat → List Byte → List Byte
  | 0, _, x => x
  | s + 1, i, x =>
    let key := xHash 3 seed (xAddr 0 a c i 0)
    let mask := xHash 3 seed (xAddr 0 a c i 1)
    xChain seed a c s (i + 1) (xHash 0 key (xorBytes x mask))

/-- Two nodes hashed to one, at an address of type `t`. -/
def xPair (seed : List Byte) (t a b c : Nat) (l r : List Byte) : List Byte :=
  let p (k : Nat) : List Byte := xHash 3 seed (xAddr t a b c k)
  xHash 1 (p 0) (xorBytes l (p 1) ++ xorBytes r (p 2))

/-- One layer of an L-tree: pairs hashed, a last odd node kept. -/
def xLayer (seed : List Byte) (a h : Nat) : Nat → List (List Byte) → List (List Byte)
  | k, l :: r :: rest => xPair seed 1 a h k l r :: xLayer seed a h (k + 1) rest
  | _, rest => rest

/-- The root of an L-tree over the 67 ends of the chains: 7 layers. -/
def xLeaf (seed : List Byte) (a : Nat) (ends : List (List Byte)) : List Byte :=
  nth ((List.range 7).foldl (fun l h => xLayer seed a h 0 l) ends) 0 []

/-- The 67 digits to base 16 of a 32-byte hash, most significant first, with their checksum. -/
def xDigits (m : List Byte) : List Nat :=
  let ds := m.flatMap (fun b => [b.toNat / 16, b.toNat % 16])
  let sum := ds.foldl (fun t d => t + (15 - d)) 0
  ds ++ [sum / 256 % 16, sum / 16 % 16, sum % 16]

/-- A node of the tree with its sibling hashed upwards along an authentication path, from height `h`. -/
def xClimb (seed : List Byte) (leaf : Nat) : List (List Byte) → Nat → List Byte → List Byte
  | [], _, x => x
  | y :: path, h, x =>
    let up := if leaf / 2 ^ h % 2 = 0 then xPair seed 2 0 h (leaf / 2 ^ (h + 1)) x y else xPair seed 2 0 h (leaf / 2 ^ (h + 1)) y x
    xClimb seed leaf path (h + 1) up

/-- The object identifier that SP 800-208 assigns to the parameter set. -/
def xmssOid : Nat := 0x12

/-- Verification of a signature over a message under a public key: its OID, its root and its public seed (17 R440). -/
@[irreducible] def xmssVerify (pk m sig : List Byte) : Bool :=
  let root := slice pk 4 32
  let seed := slice pk 36 32
  let leaf := ofBytes (slice sig 0 4).reverse
  let digest := xHash 2 (slice sig 4 32 ++ root ++ bigBytes 32 leaf) m
  let part (k : Nat) : List Byte := slice sig (36 + 32 * k) 32
  let ends := (List.range 67).map (fun k => let d := nth (xDigits digest) k 0; xChain seed leaf k (15 - d) d (part k))
  pk.take 4 == bigBytes 4 xmssOid && sig.length == 2820 &&
    xClimb seed leaf ((List.range 20).map (fun k => part (67 + k))) 0 (xLeaf seed leaf ends) == root

/-- The secret value at the start of a chain. -/
def xSecret (sk seed : List Byte) (a c : Nat) : List Byte := xHash 4 sk (seed ++ xAddr 0 a c 0 0)

/-- A node of the tree of a secret seed. -/
def xNode (sk seed : List Byte) : Nat → Nat → List Byte
  | 0, a => xLeaf seed a ((List.range 67).map (fun c => xChain seed a c 15 0 (xSecret sk seed a c)))
  | h + 1, i => xPair seed 2 0 h i (xNode sk seed h (2 * i)) (xNode sk seed h (2 * i + 1))

/-- The signature of a message at a leaf index under a secret, 32 bytes of seed and 32 bytes of the randomiser's key, whose public key is
`pk`: the leaf index, the randomiser, the chains and the authentication path (17 R440, R441). -/
@[irreducible] def xmssSign (secret pk : List Byte) (leaf : Nat) (m : List Byte) : List Byte :=
  let sk := slice secret 0 32
  let root := slice pk 4 32
  let seed := slice pk 36 32
  let rand := xHash 3 (slice secret 32 32) (bigBytes 32 leaf)
  let digest := xHash 2 (rand ++ root ++ bigBytes 32 leaf) m
  bigBytes 4 leaf ++ rand ++
    ((List.range 67).map (fun c => xChain seed leaf c (nth (xDigits digest) c 0) 0 (xSecret sk seed leaf c))).flatten ++
    ((List.range 20).map (fun h => xNode sk seed h ((leaf / 2 ^ h) ^^^ 1))).flatten

end Sys2Proof.Machine
end

