-- ==== Sys2Proof/Machine/ResetCtl.lean ====
section
/-!
DEFINITION. Resets, straps and start-up: reset sources and kinds, the nine phases, the option image and its commit
(spec/15_reset_and_start.md R399 to R419, 10 R294, R295, 11 R310, R331, 14 R395, 17 R442, R443, R446, R447, 21 R514 to R517).
-/
namespace Sys2Proof.Machine
open Prog hiding pure bind get op run monad

/-- The phase of start-up (15 R403). -/
def State.phase (s : State) : Nat := s.field F.RST_PHASE.PHASE 0 0
def setPhase (n : Nat) : Prog Unit := setF F.RST_PHASE.PHASE 0 0 n

/-- Bytes shown in consecutive registers, eight a word. -/
def setWords (r : Reg) (bs : List Byte) : Prog Unit :=
  each (List.range (ceilDiv bs.length 8)) (fun k => setR r 0 k (leAt bs (8 * k) 8))

/-- The bytes that consecutive registers hold. -/
def State.wordBytes (s : State) (r : Reg) (n : Nat) : List Byte :=
  (List.range (ceilDiv n 8)).flatMap (fun k => toBytes 8 (s.reg r 0 k)) |>.take n

/-! Straps (15 R399 to R402) and the beginning of phase 2. -/

/-- A reserved strap value acts as 0b10. -/
def strapValue (v : Nat) : Nat := if v = 3 then 2 else v

/-- Straps sampled: BOOT_SRC in bits 1 to 0, CLK_MODE in bits 3 to 2; sampling is all of phase 2, so phase 3 follows (log 40). -/
def sampleStraps (straps : BitVec 4) : Prog Unit :=
  letI := Prog.monad
  let boot := fld straps.toNat 1 0
  let clk := fld straps.toNat 3 2
  do
  setR .RST_STRAPS 0 0 (place 8 8 (b2n (boot == 3 || clk == 3)) + place 3 2 clk + boot)
  setPhase 3

/-- Phase 2: it begins, with the sample, when PERST# is deasserted; until then PHASE reads 2 (21 R516). -/
def phaseTwo (straps : BitVec 4) : Prog Unit :=
  .get (fun s => if s.rst.perst then setPhase 2 else sampleStraps straps)

/-! The fuse map (15 R403, 16 R422, R423, 17 R441, R447, R452). -/

/-- A byte range of the fuse map. -/
def Fuses.range (f : Fuses) (a n : Nat) : List Byte := slice f.bytes a n
/-- The owner key. -/
def Fuses.owner (f : Fuses) : List Byte := f.range 200 68
/-- The identity key, public. -/
def Fuses.identity (f : Fuses) : List Byte := f.range 132 68

/-- The device serial (17 R441). -/
def serial : List Byte := (List.range 16).map (fun k => Config.certByte (4 + k))

/-- The identity certificate in flash (17 R441): FORMAT, serial, the identity public key and zeros, then its signature. No command writes
it, and what manufacture put there is free (log 170). -/
def Fuses.certificate (f : Fuses) : List Byte :=
  toBytes 4 1 ++ serial ++ f.identity ++ zeroBytes 40 ++ (List.range 2820).map (fun k => Config.certByte (128 + k))

/-! The index log (17 R448, R449). -/

/-- Where a value of the log stands: 256 × sector + record. -/
def logPlace (v : Nat) : Nat := 256 * ((v - 1) / 256 % 2) + (v - 1) % 256

/-- The record of a value. -/
def logRecord (v : Nat) : List Byte := toBytes 4 v ++ toBytes 4 (v ^^^ 0xFFFFFFFF) ++ List.replicate 8 0xFF

/-- The log without the record of a value: erased, or partly written, which is never valid. -/
def logDrop (l : List (Nat × List Byte)) (v : Nat) : List (Nat × List Byte) := l.filter (fun e => e.1 != logPlace v)

/-- The log after a value is written: its sector is erased before record 0. -/
def logWrite (l : List (Nat × List Byte)) (v : Nat) : List (Nat × List Byte) :=
  logDrop (if (v - 1) % 256 = 0 then l.filter (fun e => e.1 / 256 != logPlace v / 256) else l) v ++ [(logPlace v, logRecord v)]

/-- NEXT at start-up: the largest value whose record is valid. -/
def logNext (l : List (Nat × List Byte)) : Nat :=
  l.foldl (fun m e => if leAt e.2 0 4 ^^^ leAt e.2 4 4 = 0xFFFFFFFF then max m (leAt e.2 0 4) else m) 0

/-- A leaf whose log record was not completed, or was: which is free (log 51). -/
def cutLeaf (leaf : Nat) : Prog Unit :=
  (fresh 1).bind (fun v => modSec (fun x => { x with next := leaf + v, log := if v = 0 then logDrop x.log (leaf + 1) else x.log }))

/-- SIG_REMAINING and KEY_LOW (17 R447). -/
def showLeaves : Prog Unit :=
  letI := Prog.monad
  do
  let s ← ask id
  let n := 2 ^ 20 - s.sec.next
  setF F.SEC_STATUS.SIG_REMAINING 0 0 n
  setF F.SEC_STATUS.KEY_LOW 0 0 (b2n (decide (n < 65536)))

/-- A fresh challenge (17 R453). -/
def drawChallenge : Prog Unit := each (List.range 4) (fun k => (fresh 64).bind (fun v => setR .SEC_DBG_CHALLENGE 0 k v))

/-- What the fuse map gives the registers; after a cold reset AGED_MAX starts from FMAX and the guard from zero. -/
def fuseResults (cold : Bool) : Prog Unit :=
  letI := Prog.monad
  do
  let s ← ask id
  let f := s.rst.fuses
  each (List.finRange 144) (fun i => do
    let m := nth f.fmax i.val 1700
    setF F.CORE_PWR_STATUS.FMAX_MHZ i 0 m
    when cold do
      setF F.CORE_PWR_STATUS.AGED_MAX_MHZ i 0 m
      setF F.CORE_PWR_STATUS.GUARD_MV i 0 0)
  setF F.SEC_STATUS.OWNER_SET 0 0 (b2n f.owned)
  when f.owned (setWords .SEC_OWNER_KEY f.owner)
  setWords .SEC_ID_PUB f.identity
  setWords .SEC_CERT f.certificate
  modSec (fun x => { x with next := logNext x.log })
  showLeaves

/-! Cold and warm resets (15 R406, R413 to R415, 10 R293, R295). -/

/-- Registers that every reset keeps: RST_CAUSE, RST_STRAPS until resampled, and the management port's alerts and rail (15 R414, 21 R513). -/
def keptRegs : List Reg := [.RST_CAUSE, .RST_STRAPS, .MGT_ALERT, .MGT_STATE]

/-- What a warm reset keeps beside them: the training results of a channel (10 R294, R295); the erased lines stand in the always-on
domain, whatever software wrote since, and are loaded again as the training phase ends. -/
def keepTraining (s : State) (c : ChannelId) : Prog Unit :=
  letI := Prog.monad
  do
  act (.channel c { trained := s.channels[c].trained })
  setF F.MEM_CH_STATUS.TRAIN_CODE c 0 (s.field F.MEM_CH_STATUS.TRAIN_CODE c 0)
  setF F.MEM_CH_STATUS.FAILED c 0 (s.field F.MEM_CH_STATUS.FAILED c 0)
  setF F.MEM_CH_STATUS.USABLE c 0 (s.field F.MEM_CH_STATUS.USABLE c 0)
  setF F.MEM_CH_STATUS.SELF_REFRESH c 0 1

/-- Contents of LPDDR6 lost (10 R293). -/
def loseMemory : Prog Unit := (act (.forget 0 lpddrEnd)).bind (fun _ => act .lost)

/-- A dirty cache line lost (10 R295): LPDDR6 keeps what it holds of it, which is free among the contents that it may hold. A line that no
slice can hold dirty, as one that the Rake wrote last, loses nothing, nor does one on a failed channel, which holds nothing (R296). `s` is
the state that the reset met. -/
def loseLine (s : State) (line : BitVec 34) : Prog Unit :=
  let a := 128 * line.toNat
  match s.dirtyLine a with
  | none => skip
  | some e => when (decide (a < lpddrEnd) && !s.flag F.MEM_CH_STATUS.FAILED (channelOf a) 0) ((fresh 32).bind (fun v =>
      each (List.range 4) (fun k => putGran (a + 32 * k) (nth (nth e.olds (v % e.olds.length) []) k (s.stored (a + 32 * k))))))

/-- BODY_LEN of an image whose header passes. -/
def fwHeader (img : List Byte) : Option Nat :=
  let n := leAt img 8 4
  if leAt img 0 4 == 0x31465652 && leAt img 4 2 == 1 && n % 32 == 0 && decide (32 ≤ n) && decide (n ≤ 8388608) then some n else none

/-- The check of a firmware image: 0 passed, 1 header, 2 signature. -/
def State.fwCheck (s : State) (img : List Byte) : Nat :=
  match fwHeader img with
  | none => 1
  | some n => if xmssVerify (s.rst.fuses.range 64 68) (slice img 0 (64 + n)) (slice img (64 + n) 2820) then 0 else 2

/-- The image of an engine command, as its parts have arrived from host memory, each at a multiple of 128 bytes (14 R376). -/
def Sec.image (x : Sec) (len : Nat) : List Byte :=
  (List.range (ceilDiv len 128)).flatMap (fun k => ((x.loaded.find? (fun e => e.1 == 128 * k)).map (·.2)).getD [])

/-- Whether the image passes its check as a command of length LEN gives it (17 R443, R444): 0 passed, 1 header or length, 2
signature. -/
def State.imageCheck (s : State) (len : Nat) : Nat :=
  let img := s.sec.image len
  match fwHeader img with
  | none => 1
  | some n => if len = 2884 + n then s.fwCheck img else 1

/-- A command cut off: a FLASH whose image has passed may have begun to erase the region (17 R445); a GO leaves NEXT at its leaf or
beyond it, as its log record was complete or not (17 R448). -/
def cutCommand : Prog Unit :=
  letI := Prog.monad
  do
  let s ← ask id
  match s.sec.command with
  | some (.flash len) =>
    when (s.sec.early.isNone && !s.sec.hostErr && s.imageCheck len == 0) do
      let v ← fresh 1
      modSec (fun x => { x with torn := x.torn || v == 1 })
  | some (.attest leaf _) =>
    when (s.sec.early.isNone) (cutLeaf leaf)
  | _ => skip

/-- A fill that a warm reset cuts off: of its granules in LPDDR6, which are written is free (10 R289, R292, log 46). -/
def fillCut : Prog Unit :=
  .get (fun s => when (s.flag F.MEM_FILL_CTRL.BUSY 0 0) (each (List.range (s.field F.MEM_FILL_CTRL.LEN 0 0)) (fun k =>
    match localTarget ((32 * s.field F.MEM_FILL_BASE.BASE 0 0 + 32 * k) % 2 ^ 41) with
    | .lpddr o => when (!s.flag F.MEM_CH_STATUS.FAILED (channelOf o) 0)
        ((fresh 1).bind (fun v => when (v == 1) ((flushLine o).bind (fun _ => putGran o (.valid (zeroBytes 32))))))
    | _ => skip)))

/-- Whether phase 1 may end (15 R403, R413): the input is up, no rail has failed, and after a thermal trip every sensor reads below
105 °C. -/
def State.railsReady (s : State) : Bool := s.rst.inputUp && s.rst.hot.isEmpty && s.field F.MGT_STATE.RAIL 0 0 == 0xFF

/-- Everything that a reset clears: registers, and the state of every unit; the flash, the fuses and the pins stay. A warm reset
keeps LPDDR6, its training results, the timebase, AGED_MAX and the guard. -/
def clearAll (warm : Bool) : Prog Unit :=
  letI := Prog.monad
  do
  cutCommand
  when warm do
    rakeCut
    fillCut
    each (List.finRange 144) (fun i => .get (fun s => each s.sites[i].flights (fun f => tear f.touched)))
  let s ← ask id
  act (.resetRegs (Reg.all.filter (fun r => !keptRegs.contains r)) none)
  each (List.finRange 64) (fun c => act (.channel c {}))
  if warm then do
    each (List.finRange 64) (keepTraining s)
    setR .MEM_TRAIN_STATUS 0 0 (s.reg .MEM_TRAIN_STATUS 0 0)
    each (List.finRange 144) (fun i => do
      setF F.CORE_PWR_STATUS.AGED_MAX_MHZ i 0 (s.field F.CORE_PWR_STATUS.AGED_MAX_MHZ i 0)
      setF F.CORE_PWR_STATUS.GUARD_MV i 0 (s.field F.CORE_PWR_STATUS.GUARD_MV i 0))
  else do
    loseMemory
    act (.now 0)
  each (List.finRange 144) (fun i => act (.site i {}))
  each (List.finRange 18) (fun c => act (.cluster c {}))
  each (List.finRange 64) (fun l => act (.link l {}))
  act (.noc {})
  act (.fabric {})
  act (.coll {})
  act (.rake {})
  modHost (fun h => { nextTag := h.nextTag })
  modPwr (fun p => { memTemp := p.memTemp, learn := if warm then p.learn else 10 })
  modSec (fun x => { x with command := none, early := none, loaded := [], hostErr := false, running := [], token := [] })
  act (.obs {})
  modRst (fun r => { r with requests := [], staged := [], warm := warm })
  drawChallenge

/-- A reset of the device takes effect: its source, whether its kind is warm, whether it begins at phase 1. Before ready a warm reset
acts as a cold one; in phase 4 option load restarts with the strap and fuse results kept (15 R406). Phase 1 is left for phase 2 only
where the input, the rails and the sensors let it end (R403, R413). Without power nothing takes effect (21 R517), nor beside a reset of the
same cycle that prevails (R417). -/
def takeReset (source : Nat) (warm one : Bool) (straps : BitVec 4) (lost : List (BitVec 34)) : Prog Unit :=
  letI := Prog.monad
  do
  let s ← ask id
  let ph := s.phaseMet
  let warm := warm && ph == 9
  when (!s.rst.dark && !s.outranked (b2n warm) source) do
    let again := ph == 4 && !one
    let gone := warm && lost.any (fun l => (s.dirtyLine (128 * l.toNat)).isSome)
    clearAll warm
    setCause source (b2n warm) 0 ph gone again
    when gone do
      each lost (loseLine s)
      faultRecord 8 0 { device := some s.ownId }
    if again then do
      fuseResults true
      setPhase 4
    else if one || (ph == 1 && !s.railsReady) then setPhase 1
    else phaseTwo straps
    noteReset (b2n warm) source ph

/-- RST_CMD written with the right key: the reset is requested (14 R395). -/
def requestReset (n : Nat) : Prog Unit := modRst (fun r => { r with requests := if r.requests.contains n then r.requests else r.requests ++ [n] })
def execHostColdReset (s : State) : Host.Outcome State Fault Refusal :=
  Prog.next (gated (Reg.addr .RST_CMD 0 0) (requestReset 0)) s
def execHostWarmReset (s : State) : Host.Outcome State Fault Refusal :=
  Prog.next (gated (Reg.addr .RST_CMD 0 0) (requestReset 1)) s
def execHostCoreReset (core : Fin 128) (s : State) : Host.Outcome State Fault Refusal :=
  Prog.next (gated (Reg.addr .RST_CMD 0 0) (requestReset (2 + core.val))) s

/-- Whether a write of RST_CMD is dropped as a bad key. -/
def badCmd (v : Nat) (h : Half) : Bool := h != .full || fld v 63 48 != 0xA5C3 || fld v 1 0 == 3
def badKeyProg (v : Nat) (h : Half) : Prog Unit := when (badCmd v h) (hostError F.HST_ERROR.BAD_KEY)
def execBadKey (v : Word) (h : Half) (s : State) : Host.Outcome State Fault Refusal :=
  Prog.next (gated (Reg.addr .RST_CMD 0 0) (badKeyProg v.toNat h)) s

/-- The requested cold or warm reset, 2 µs after its write. -/
def hostReset (n : Nat) (straps : BitVec 4) (lost : List (BitVec 34)) : Prog Unit :=
  .get (fun s => when (s.rst.requests.contains n) (takeReset 4 (n == 1) false straps lost))
def execColdReset (straps : BitVec 4) (s : State) : Host.Outcome State Fault Refusal := Prog.next (hostReset 0 straps []) s
def execWarmReset (straps : BitVec 4) (lost : List (BitVec 34)) (s : State) : Host.Outcome State Fault Refusal :=
  Prog.next (hostReset 1 straps lost) s

/-- The watchdog expires. -/
def watchdogProg (straps : BitVec 4) (lost : List (BitVec 34)) : Prog Unit := takeReset 5 true false straps lost
def execWatchdogExpiry (straps : BitVec 4) (lost : List (BitVec 34)) (s : State) : Host.Outcome State Fault Refusal :=
  Prog.next (watchdogProg straps lost) s

/-- PERST# is asserted: a reset of PERST_KIND. -/
def perstOn (lost : List (BitVec 34)) : Prog Unit :=
  letI := Prog.monad
  do
  let s ← ask id
  when (!s.rst.perst) do
    modRst (fun r => { r with perst := true })
    takeReset 3 (!s.flag F.RST_CTRL.PERST_KIND 0 0) false 0 lost
def execPerstAssert (lost : List (BitVec 34)) (s : State) : Host.Outcome State Fault Refusal := Prog.next (perstOn lost) s

/-- PERST# is deasserted: a phase 2 that waited begins. -/
def perstOff (straps : BitVec 4) : Prog Unit :=
  letI := Prog.monad
  do
  modRst (fun r => { r with perst := false })
  let s ← ask id
  when (s.phase == 2) (sampleStraps straps)
def execPerstDeassert (straps : BitVec 4) (s : State) : Host.Outcome State Fault Refusal := Prog.next (perstOff straps) s

/-! Power (15 R413, 21 R512 to R517). -/

/-- A rail out of regulation: the management port names it. -/
def railFail (n : Nat) : Prog Unit := (setF F.MGT_STATE.RAIL 0 0 n).bind (fun _ => mgtAlert F.MGT_ALERT.RAIL_FAIL)

/-- A brown-out: the input is low, or a rail leaves regulation, which the management port names. In phase 1 the rails are not in
regulation yet: one that does not come into it is that phase's failure (15 R403), so that the phase does not end and no reset takes
effect (log 168). -/
def brownOut (rail : Option Nat) : Prog Unit :=
  letI := Prog.monad
  do
  let s ← ask id
  when (!s.rst.dark) (match rail with
    | none => do
      takeReset 2 false true 0 []
      mgtAlert F.MGT_ALERT.BROWN_OUT
      modRst (fun r => { r with inputUp := false })
    | some n =>
      if s.phaseMet = 1 then railFail n
      else do
        takeReset 2 false true 0 []
        mgtAlert F.MGT_ALERT.BROWN_OUT
        railFail n)
def execBrownOut (rail : Option (Fin 26)) (s : State) : Host.Outcome State Fault Refusal := Prog.next (brownOut (rail.map (·.val))) s

/-- The first conversion stage turns off: the intermediate bus leaves regulation (21 R514). -/
def overvoltage : Prog Unit := brownOut (some 0x19)
def execInputOvervoltage (s : State) : Host.Outcome State Fault Refusal := Prog.next overvoltage s

/-- The input rises through 40 V: after a power loss this is the power-on, which found every register at its reset value, RST_CAUSE
too; after a brown-out without one, phase 1 may end (21 R517). -/
def powerOn : Prog Unit := modRst (fun r => { r with inputUp := true, dark := false })
def execPowerOn (s : State) : Host.Outcome State Fault Refusal := Prog.next powerOn s

/-- The input falls through 28 V: power loss. RST_CAUSE and the management port's registers start anew. -/
def powerLoss : Prog Unit :=
  letI := Prog.monad
  do
  clearAll false
  act (.resetRegs keptRegs none)
  modRst (fun r => { r with inputUp := false, dark := true, tripped := false, hot := [], cycle := none, warm := false })
  modMgmt (fun _ => { index := 0, addr := none, on := false })
def execPowerLoss (s : State) : Host.Outcome State Fault Refusal := Prog.next powerLoss s

/-- The input rises through 30 V: the auxiliary converter starts the management port (21 R512). -/
def auxOn : Prog Unit := modMgmt (fun m => if m.on then m else { index := 0, addr := none, on := true })
def execAuxPowerOn (s : State) : Host.Outcome State Fault Refusal := Prog.next auxOn s

/-- A temperature word in units of 0.25 °C (16 R438). -/
def quarters (t : BitVec 16) : Int := t.toInt

/-- A junction sensor holds phase 1 after a trip as long as its last reading is not below 105 °C. -/
def coolSensor (sensor : Fin 20) (temp : BitVec 16) : Prog Unit :=
  modRst (fun r => { r with hot := if r.tripped && decide (420 ≤ quarters temp) then addAsc sensor.val r.hot
                                   else r.hot.filter (· != sensor.val) })

/-- A thermal trip (16 R434, 15 R413): phase 1 then waits until every sensor reads below 105 °C. -/
def tripProg (temp : BitVec 16) : Prog Unit :=
  letI := Prog.monad
  when (decide (480 ≤ quarters temp)) do
    let s ← ask id
    when (!s.rst.dark && !s.outranked 0 6) do
      takeReset 6 false true 0 []
      mgtAlert F.MGT_ALERT.TRIP
      modRst (fun r => { r with tripped := true, hot := List.range 20 })
def execThermalTrip (_sensor : Fin 20) (temp : BitVec 16) (s : State) : Host.Outcome State Fault Refusal := Prog.next (tripProg temp) s

/-! Phases (15 R403). -/

/-- Phase 1 ends: every rail is in regulation, the one that the management port named too. -/
def railsDone (straps : BitVec 4) : Prog Unit :=
  letI := Prog.monad
  do
  let s ← ask id
  when (s.phase == 1 && s.rst.inputUp && s.rst.hot.isEmpty) do
    setF F.MGT_STATE.RAIL 0 0 0xFF
    modRst (fun r => { r with tripped := false })
    phaseTwo straps
def execRailsDone (straps : BitVec 4) (s : State) : Host.Outcome State Fault Refusal := Prog.next (railsDone straps) s

/-- Phase 3 ends, or holds with FAIL 0x01. -/
def fuseLoad (ok : Bool) : Prog Unit :=
  letI := Prog.monad
  do
  let s ← ask id
  when (s.phase == 3 && s.field F.RST_PHASE.FAIL 0 0 == 0) do
    if ok then do
      fuseResults (!s.rst.warm)
      setPhase 4
    else setF F.RST_PHASE.FAIL 0 0 1
def execFuseLoadDone (ok : Bool) (s : State) : Host.Outcome State Fault Refusal := Prog.next (fuseLoad ok) s

/-! The option image (15 R407 to R411). -/

/-- The check of an option image: VERSION and CRC. -/
def imageOk (img : List Byte) : Bool := leAt img 0 2 == 1 && crc32c (slice img 0 1020) == leAt img 1020 4

/-- The factory defaults (15 R411); of the fields it does not give, VERSION and CRC are free. -/
def factoryImage (version crc : Nat) : List Byte :=
  toBytes 4 version ++ toBytes 2 0x7FFF ++ [0, 0] ++ toBytes 2 350 ++ toBytes 2 0x7FFF ++ [8, 4, 2, 0] ++ zeroBytes 304 ++
    (List.range 128).map (fun l => BitVec.ofNat 8 (l + 8 * (l / 64))) ++ zeroBytes 572 ++ toBytes 4 crc

/-- The map that CORE_MAP gives, in order of the logical core: a site above 143 or named before is corrected to absent, and the list
says whether anything was (15 R409). -/
def coreMap (img : List Byte) : List (Option Nat) × Bool :=
  (List.range 128).foldl (fun (m, fixed) l =>
    let v := leAt img (320 + l) 1
    if v = 0xFF then (m ++ [none], fixed)
    else if decide (143 < v) || m.contains (some v) then (m ++ [none], true)
    else (m ++ [some v], fixed)) ([], false)

/-- The image in use loaded into the registers, field by field. -/
def useImage (img : List Byte) : Prog Unit :=
  letI := Prog.monad
  let sl := leAt img 6 1
  let mode := leAt img 7 1
  let cap := leAt img 8 2
  let (m, fixedMap) := coreMap img
  do
  setWords .OPT_IMAGE img
  setF F.MGT_ID.DEVICE_ID 0 0 (leAt img 4 2)
  setF F.PWR_FREQ_CTRL.MODE 0 0 (if 1 < mode then 0 else mode)
  modPwr (fun p => { p with boost := mode == 1 })
  setF F.PWR_CAP_LIMIT.WATTS 0 0 (min 750 (max 300 cap))
  setF F.FAB_TIME_CONFIG.GM 0 0 (leAt img 10 2)
  setF F.FAB_CLASS_WEIGHTS.TC1 0 0 (leAt img 12 1)
  setF F.FAB_CLASS_WEIGHTS.TC2 0 0 (leAt img 13 1)
  setF F.FAB_CLASS_WEIGHTS.TC3 0 0 (leAt img 14 1)
  setR .TRC_ENABLE 0 0 (leAt img 16 8)
  each (List.range 128) (fun l => match nth m l none with
    | some v => setR .TOP_CORE_MAP 0 l v
    | none => setR .TOP_CORE_MAP 0 l 0x1FF)
  setF F.OPT_STATUS.FIXED 0 0 (b2n (!(sl == 0 || sl == 8 || sl == 16 || sl == 32) || decide (1 < mode) || decide (cap < 300) ||
    decide (750 < cap) || fixedMap))

/-- Phase 4 ends: the image read (of a region whose write was cut off, the CRC field read is free), or the factory defaults; defective sites are fenced; phase 5 begins (15 R400, R409, R410). -/
def optionLoad (read : Bool) : Prog Unit :=
  letI := Prog.monad
  do
  let s ← ask id
  when (s.phase == 4 && !s.rst.perst) do
    let img := slice s.rst.image 0 1024
    let word ← fresh 32
    setF F.OPT_STATUS.CRC_READ 0 0 (if read && s.rst.image.length == 1024 then leAt img 1020 4 else word)
    if read && imageOk img then useImage img
    else do
      let v ← fresh 16
      let c ← fresh 32
      useImage (factoryImage v c)
      setF F.OPT_STATUS.FIXED 0 0 0
      setF F.OPT_STATUS.DEFAULTED 0 0 1
    fenceSites 1 ((List.finRange 144).filter (fun i => s.rst.fuses.defective.contains i.val))
    setPhase 5
    let boot := strapValue (s.field F.RST_STRAPS.BOOT_SRC 0 0)
    when (boot == 1) (setF F.RST_PHASE.WAIT_HOST 0 0 1)
    when (boot == 2) (setF F.RST_PHASE.HELD 0 0 1)
def execOptionLoadDone (ok : Bool) (s : State) : Host.Outcome State Fault Refusal := Prog.next (optionLoad ok) s

/-! Firmware (17 R442, R443, R446). -/

/-- Phase 5 passes: the control processor runs the checked copy, the flash is locked. -/
def fwAccept (img : List Byte) : Prog Unit :=
  letI := Prog.monad
  let n := leAt img 8 4
  do
  setF F.SEC_FW_INFO.FW_VERSION 0 0 (leAt img 12 4)
  setF F.SEC_FW_INFO.BODY_LEN 0 0 n
  modSec (fun x => { x with running := slice img 0 (64 + n) })
  setF F.SEC_STATUS.FW_LOCK 0 0 1
  setR .RST_PHASE 0 0 6

/-- Phase 5 fails: it holds, with its reason. -/
def fwFail (code : Nat) : Prog Unit :=
  (setF F.RST_PHASE.FAIL 0 0 code).bind (fun _ => setF F.RST_PHASE.HELD 0 0 1)

/-- The check of the flash's image ends; a read error counts as a header failure, and a torn region fails either way. -/
def fwVerify (read : Bool) : Prog Unit :=
  letI := Prog.monad
  do
  let s ← ask id
  when (s.phase == 5 && s.field F.RST_STRAPS.BOOT_SRC 0 0 == 0 && !s.flag F.RST_PHASE.HELD 0 0) do
    if !read then fwFail 3
    else if s.sec.torn then do
      let v ← fresh 1
      fwFail (2 + v)
    else match s.fwCheck s.sec.flash with
      | 0 => fwAccept s.sec.flash
      | 1 => fwFail 3
      | _ => fwFail 2
def execFirmwareVerifyDone (ok : Bool) (s : State) : Host.Outcome State Fault Refusal := Prog.next (fwVerify ok) s

/-! LPDDR6 training (10 R294 to R298). -/

/-- The erased line of a sub-channel as training found it: its ERASE fields (10 R294). -/
def eraseLine (c : ChannelId) (en pin : Field) (line : Option (Fin 12)) : Prog Unit :=
  match line with
  | some p => (setF en c 0 1).bind (fun _ => setF pin c 0 p.val)
  | none => skip

/-- The kept training result of a channel loaded into its ERASE fields (10 R294, R295). -/
def loadTraining (c : ChannelId) : Prog Unit :=
  .get (fun s =>
    let t := s.channels[c].trained
    (eraseLine c F.MEM_CH_CONFIG.ERASE_EN0 F.MEM_CH_CONFIG.ERASE_PIN0 t.1).bind (fun _ =>
      eraseLine c F.MEM_CH_CONFIG.ERASE_EN1 F.MEM_CH_CONFIG.ERASE_PIN1 t.2))

/-- A channel's result, kept in the always-on domain: usable, or failed with its record. -/
def channelResult (c : ChannelId) (t : ChannelTraining) : Prog Unit :=
  letI := Prog.monad
  let failed (code : Nat) : Prog Unit := do
    setF F.MEM_CH_STATUS.TRAIN_CODE c 0 code
    setF F.MEM_CH_STATUS.USABLE c 0 0
    setF F.MEM_CH_STATUS.FAILED c 0 1
    let m ← getR .MEM_TRAIN_STATUS
    setR .MEM_TRAIN_STATUS 0 0 (m ||| 1 <<< c.val)
    faultRecord 9 c.val {}
  let usable (code : Nat) : Prog Unit := do
    setF F.MEM_CH_STATUS.TRAIN_CODE c 0 code
    setF F.MEM_CH_STATUS.USABLE c 0 1
    setF F.MEM_CH_STATUS.FAILED c 0 0
    let m ← getR .MEM_TRAIN_STATUS
    setR .MEM_TRAIN_STATUS 0 0 (m - (m &&& 1 <<< c.val))
  let keep (l : Option (Fin 12) × Option (Fin 12)) : Prog Unit := modChannel c (fun x => { x with trained := l })
  match t with
  | .trained => do
    usable 1
    keep (none, none)
  | .erased p0 p1 => do
    usable (if p0.isSome || p1.isSome then 2 else 1)
    keep (p0, p1)
  | .failedBus => failed 3
  | .failedLines => failed 4
  | .failedSilent => failed 5

/-- Phase 6 ends. After a cold reset each channel takes the result that the list gives it, and is trained where it gives none; after a warm
reset every channel keeps its results, which are loaded again, and trains nothing anew (10 R294, R295). -/
def trainingEnd (r : List (ChannelId × ChannelTraining)) : Prog Unit :=
  letI := Prog.monad
  do
  let s ← ask id
  when (s.phase == 6) do
    each (List.finRange 64) (fun c => do
      when (!s.rst.warm) (match r.find? (fun e => e.1 == c) with
        | some e => channelResult c e.2
        | none => channelResult c .trained)
      loadTraining c
      setF F.MEM_CH_STATUS.SELF_REFRESH c 0 0)
    setPhase 7
def execLpddr6TrainingDone (r : List (ChannelId × ChannelTraining)) (s : State) : Host.Outcome State Fault Refusal :=
  Prog.next (trainingEnd r) s

/-! The sweep and bring-up (15 R405, 11 R310, R331, 18 R462). -/

/-- A way disabled in every set, once. -/
def addWay (w : Nat) (l : List Nat) : List Nat := if l.contains w then l else l ++ [w]

/-- A valid route entry for each mapped peer, naming its lowest link; every other entry invalid (11 R310). -/
def peerRoutes : Prog Unit :=
  letI := Prog.monad
  do
  act (.resetRegs [.FAB_ROUTE_DEV] none)
  let s ← ask id
  each ((List.range 64).reverse.filter s.mapped) (fun n => do
    setF F.FAB_ROUTE_DEV.VALID 0 (s.mapPeerDev n) 1
    setF F.FAB_ROUTE_DEV.LINK 0 (s.mapPeerDev n) n)

/-- Phase 7 ends: faults are recorded in ascending SITE (18 R461), sites fenced, ways disabled; phase 8 begins with its routes and the training of every mapped
link. -/
def sweepEnd (faults : List SweepFault) : Prog Unit :=
  letI := Prog.monad
  do
  let s ← ask id
  when (s.phase == 7) do
    each (List.finRange 144) (fun i => (sweepSite i).bind (fun _ => act (.site i {})))
    each (List.finRange 18) (fun c => act (.cluster c {}))
    act (.resetRegs [.CORE_BANK_OWNER] none)
    each (faults.mergeSort (fun a b => decide ((sweepPlace a).site ≤ (sweepPlace b).site))) sweepRecord
    each (faults.filterMap faultLlc) (fun e => modCluster e.1 (fun x => { x with llcOff := addWay e.2 x.llcOff }))
    each (faults.filterMap faultAnt) (fun e => modCluster e.1 (fun x => { x with antOff := addWay e.2 x.antOff }))
    let s1 ← ask id
    let bad := (List.finRange 144).filter (fun i => faults.any (fun f => faultSite f == some i) && !s1.fenced i)
    let off (f : Cluster → List Nat) : Nat := (s1.clusters.toList.map (fun c => (f c).length)).foldl (· + ·) 0
    setF F.RST_SWEEP.SITES_FENCED 0 0 bad.length
    setF F.RST_SWEEP.LLC_WAYS_OFF 0 0 (min 255 (off (·.llcOff)))
    setF F.RST_SWEEP.ANT_WAYS_OFF 0 0 (off (·.antOff))
    fenceSites 2 bad
    setPhase 8
    peerRoutes
    timeState
    each (List.finRange 64) trainLink
def execSweepDone (faults : List SweepFault) (s : State) : Host.Outcome State Fault Refusal := Prog.next (sweepEnd faults) s

/-- Phase 8 ends once no link is in training: ready. -/
def bringupDone : Prog Unit :=
  letI := Prog.monad
  do
  let s ← ask id
  when (s.phase == 8 && (List.range 64).all (fun l => s.field F.FAB_LINK_STATUS.STATE l 0 != 1)) do
    setPhase 9
    mgtAlert F.MGT_ALERT.READY
def execFabricBringupDone (s : State) : Host.Outcome State Fault Refusal := Prog.next bringupDone s

/-! Commits (15 R412). -/

/-- OPT_CTRL written with the right key and COMMIT. -/
def optCommit : Prog Unit :=
  letI := Prog.monad
  do
  let s ← ask id
  let img := s.wordBytes .OPT_STAGE 1024
  when (s.field F.OPT_STATUS.STAGE 0 0 != 1) do
    if imageOk img then do
      setF F.OPT_STATUS.STAGE 0 0 1
      modRst (fun r => { r with image := [], staged := img })
    else setF F.OPT_STATUS.STAGE 0 0 3
def execOptCommit (s : State) : Host.Outcome State Fault Refusal := Prog.next (gated (Reg.addr .OPT_CTRL 0 0) optCommit) s

/-- The flash write ends. -/
def commitDone : Prog Unit :=
  letI := Prog.monad
  do
  let s ← ask id
  when (s.field F.OPT_STATUS.STAGE 0 0 == 1) do
    emit (.flashWrite 1 s.rst.staged)
    modRst (fun r => { r with image := r.staged, staged := [] })
    setF F.OPT_STATUS.STAGE 0 0 2
def execOptCommitDone (s : State) : Host.Outcome State Fault Refusal := Prog.next commitDone s

end Sys2Proof.Machine
end

