-- ==== Sys2Proof/Machine/Security.lean ====
section
/-!
DEFINITION. The security engine: firmware from the host and recovery, attestation, debug tokens, the owner key
(spec/17_security.md R440 to R456).
-/
namespace Sys2Proof.Machine
open Prog hiding pure bind get op run monad

/-- A command given to the engine: dropped while it is busy (17 R455). `last` is its code in SEC_ENGINE.LAST; `early` a result met
before its work begins, in which case nothing of it is done. -/
def engine (last : Nat) (c : SecCmd) (early : Option Nat) (start : Prog Unit) : Prog Unit :=
  letI := Prog.monad
  do
  let s ← ask id
  when (!s.flag F.SEC_ENGINE.BUSY 0 0) do
    setF F.SEC_ENGINE.BUSY 0 0 1
    setF F.SEC_ENGINE.LAST 0 0 last
    modSec (fun x => { x with command := some c, early := early, loaded := [], hostErr := false })
    when early.isNone start

/-- The image read from host memory. -/
def readImage (len : Nat) : Prog Unit :=
  .get (fun s => hostReads .firmware (4096 * s.field F.SEC_FW_HOST.BASE 0 0) len 0)

/-- LOAD (17 R444): accepted while WAIT_HOST or HELD is set under BOOT_SRC 0b01. -/
def loadCmd (len : Nat) : Prog Unit :=
  .get (fun s =>
    let ok := s.field F.RST_STRAPS.BOOT_SRC 0 0 == 1 && (s.flag F.RST_PHASE.WAIT_HOST 0 0 || s.flag F.RST_PHASE.HELD 0 0)
    engine 0 (.load len) (if ok then none else some 3) (readImage len))
def execLoadFirmware (len : BitVec 24) (s : State) : Host.Outcome State Fault Refusal :=
  Prog.next (gated (Reg.addr .SEC_FW_CTRL 0 0) (loadCmd len.toNat)) s

/-- FLASH (17 R445): only under recovery. -/
def flashCmd (len : Nat) : Prog Unit :=
  .get (fun s => engine 0 (.flash len) (if 2 ≤ s.field F.RST_STRAPS.BOOT_SRC 0 0 then none else some 3) (readImage len))
def execFlash (len : BitVec 24) (s : State) : Host.Outcome State Fault Refusal :=
  Prog.next (gated (Reg.addr .SEC_FW_CTRL 0 0) (flashCmd len.toNat)) s

/-- GO (17 R448, R450): the nonce is copied, and NEXT is logged past its leaf before anything is signed. -/
def goCmd : Prog Unit :=
  .get (fun s =>
    engine 1 (.attest s.sec.next (s.wordBytes .SEC_ATT_NONCE 32)) (if 2 ^ 20 ≤ s.sec.next then some 6 else none)
      ((modSec (fun x => { x with next := x.next + 1, log := logWrite x.log (x.next + 1) })).bind (fun _ =>
        (emit (.flashWrite 2 (logRecord (s.sec.next + 1)))).bind (fun _ => showLeaves))))
def execGo (s : State) : Host.Outcome State Fault Refusal := Prog.next (gated (Reg.addr .SEC_ATT_CTRL 0 0) goCmd) s

/-- VERIFY (17 R453). -/
def tokenCmd : Prog Unit := .get (fun s => engine 2 .verify (if s.flag F.SEC_STATUS.OWNER_SET 0 0 then none else some 3) skip)
def execVerifyToken (s : State) : Host.Outcome State Fault Refusal := Prog.next (gated (Reg.addr .SEC_DBG_CTRL 0 0) tokenCmd) s

/-- CLOSE (17 R454), no engine command. -/
def closeDebug : Prog Unit := (setF F.SEC_DBG_STATUS.RIGHTS 0 0 0).bind (fun _ => modSec (fun x => { x with token := [] }))
def execClose (s : State) : Host.Outcome State Fault Refusal := Prog.next (gated (Reg.addr .SEC_DBG_CTRL 0 0) closeDebug) s

/-- FUSE (17 R452). -/
def fuseCmd : Prog Unit := .get (fun s => engine 3 .fuse (if s.flag F.SEC_STATUS.OWNER_SET 0 0 then some 3 else none) skip)
def execFuse (s : State) : Host.Outcome State Fault Refusal := Prog.next (gated (Reg.addr .SEC_OWNER_CTRL 0 0) fuseCmd) s

/-! Ends of commands (17 R455). -/

/-- The 256 signed bytes of a report (17 R451). -/
def State.reportBody (s : State) (leaf : Nat) (nonce : List Byte) : List Byte :=
  let fuses := zeroBytes 64 ++ s.rst.fuses.range 64 960
  let flags := s.field F.OPT_STATUS.DEFAULTED 0 0 + place 1 1 (s.field F.OPT_STATUS.FIXED 0 0) +
    place 2 2 (b2n (s.field F.SEC_DBG_STATUS.RIGHTS 0 0 != 0)) + place 4 3 (s.field F.RST_STRAPS.BOOT_SRC 0 0) +
    place 5 5 (s.field F.SEC_STATUS.KEY_LOW 0 0)
  toBytes 4 1 ++ toBytes 4 leaf ++ toBytes 2 s.ownId ++ toBytes 1 0xB0 ++ toBytes 1 flags ++
    toBytes 4 (s.field F.SEC_FW_INFO.FW_VERSION 0 0) ++ toBytes 8 s.now ++ toBytes 4 (s.reg .RST_CAUSE 0 0) ++ zeroBytes 4 ++
    slice nonce 0 32 ++ slice (shake256 s.sec.running 32) 0 32 ++ slice (shake256 (s.wordBytes .OPT_IMAGE 1024) 32) 0 32 ++
    slice (shake256 fuses 32) 0 32 ++
    (if s.sec.token.isEmpty then zeroBytes 32 else slice (shake256 s.sec.token 32) 0 32) ++ zeroBytes 64

/-- The identity key's signature of a message at a leaf (17 R441, R450): the secret is bytes 0 to 63 of the fuse map. -/
def State.signature (s : State) (leaf : Nat) (m : List Byte) : List Byte := xmssSign (s.rst.fuses.range 0 64) s.rst.fuses.identity leaf m

/-- The report signed and placed in its window. -/
def signReport (leaf : Nat) (nonce : List Byte) : Prog Unit :=
  letI := Prog.monad
  do
  let s ← ask id
  let body := s.reportBody leaf nonce
  setWords .SEC_REPORT (body ++ s.signature leaf body)
  setF F.SEC_ATT_STATUS.INDEX 0 0 leaf

/-- The result of a token's checks, in their order (17 R453). -/
def State.tokenResult (s : State) (t : List Byte) : Nat :=
  if leAt t 0 4 != 1 then 1
  else if slice t 8 16 != serial || slice t 24 32 != s.wordBytes .SEC_DBG_CHALLENGE 32 then 7
  else if xmssVerify s.rst.fuses.owner (slice t 0 64) (slice t 64 2820) then 0 else 2

/-- What a command ends with: its result, its effects made. `flashOk` says that a flash read-back matched; where a log record's did not,
whether that record counts at the next start is free. -/
def endCommand (flashOk : Bool) (c : SecCmd) : Prog Nat :=
  letI := Prog.monad
  do
  let s ← ask id
  match c with
  | .load len =>
    if s.sec.hostErr then pure 4
    else match s.imageCheck len with
      | 0 => do
        fwAccept (s.sec.image len)
        pure 0
      | 1 => do
        fwFail 4
        pure 1
      | _ => do
        fwFail 2
        pure 2
  | .flash len =>
    if s.sec.hostErr then pure 4
    else match s.imageCheck len with
      | 0 => do
        emit (.flashWrite 0 (s.sec.image len))
        modSec (fun x => { x with flash := if flashOk then s.sec.image len else x.flash, torn := !flashOk })
        pure (if flashOk then 0 else 5)
      | n => pure n
  | .attest leaf nonce =>
    if flashOk then do
      signReport leaf nonce
      pure 0
    else do
      cutLeaf leaf
      showLeaves
      pure 5
  | .verify => do
    let t := s.wordBytes .SEC_TOKEN 2884
    let r := s.tokenResult t
    when (r == 0) do
      setF F.SEC_DBG_STATUS.RIGHTS 0 0 (leAt t 4 4)
      modSec (fun x => { x with token := t })
    pure r
  | .fuse => do
    let key := s.wordBytes .SEC_OWNER_KEY 68
    emit (.fuseWrite key)
    modRst (fun r => { r with fuses := { r.fuses with bytes := r.fuses.range 0 200 ++ key ++ r.fuses.range 268 756, owned := true } })
    setF F.SEC_STATUS.OWNER_SET 0 0 1
    pure 0

/-- The command in execution ends, once what it reads from host memory has arrived. -/
def secDone (flashOk : Bool) : Prog Unit :=
  letI := Prog.monad
  do
  let s ← ask id
  match s.sec.command with
  | none => skip
  | some c =>
    when (!(s.host.waiting ++ s.host.reads).any (fun q => q.origin == .firmware)) do
      let r ← (match s.sec.early with
        | some r => pure r
        | none => endCommand flashOk c)
      setF F.SEC_ENGINE.RESULT 0 0 r
      setF F.SEC_ENGINE.BUSY 0 0 0
      modSec (fun x => { x with command := none, early := none, loaded := [], hostErr := false })
def execSecCommandDone (flashOk : Bool) (s : State) : Host.Outcome State Fault Refusal := Prog.next (secDone flashOk) s

end Sys2Proof.Machine
end

