-- ==== Sys2Proof/Machine/Power.lean ====
section
/-!
DEFINITION. Power, frequency and thermal control: ceilings and clocks, the control loop, telemetry, ageing, droop, sensors and
heartbeats (spec/16_power_and_thermal.md R420 to R439).
-/
namespace Sys2Proof.Machine
open Prog hiding pure bind get op run monad

/-! Clocks (16 R424, R425). -/

/-- MODE as it acts: a write takes effect at the next control tick (16 R425). -/
def State.boost (s : State) : Bool := s.pwr.boost
/-- FIXED_MHZ as it acts. -/
def State.fixedMhz (s : State) : Nat := min 1700 (max 400 s.pwr.fixed)
/-- LIMIT_MHZ as it acts; 1,700 until AGED_MAX is learned again (16 R423). -/
def State.limitMhz (s : State) : Nat := min (if s.pwr.learn = 0 then 1950 else 1700) (min 1950 (max 400 s.pwr.limit))
/-- Sites that hold a logical core. -/
def State.presentSites (s : State) : List SiteId := (List.range 128).filterMap s.siteOf
def State.agedMax (s : State) (i : SiteId) : Nat := s.field F.CORE_PWR_STATUS.AGED_MAX_MHZ i 0

/-- The thermal ceiling of a site: the lower of its cluster's and its half's. -/
def State.heatCeiling (s : State) (i : SiteId) : Nat :=
  min (nth s.pwr.ceilings (clusterOf i).val 1950) (nth s.pwr.ceilings (18 + halfOf i) 1950)

/-- The clock of a site under its mode (16 R424). -/
def State.siteClock (s : State) (i : SiteId) : Nat :=
  if s.boost then min (min (s.agedMax i) s.limitMhz) (min s.pwr.fdev (s.heatCeiling i)) else s.fixedMhz

/-- The array duty of a site (16 R424, R426). -/
def State.siteDuty (s : State) (i : SiteId) : Nat :=
  if s.boost then 64 else min 64 (64 * min s.pwr.fdev (s.heatCeiling i) / s.fixedMhz)

/-- A field set where it differs. -/
def keepF (f : Field) (i j v : Nat) : Prog Unit := .get (fun s => when (s.field f i j != v) (setF f i j v))

/-- Clocks and duties of every site that is not fenced: a lowering acts at once, a raise waits for its cluster's voltage. -/
def setClocks : Prog Unit :=
  letI := Prog.monad
  do
  let s ← ask id
  each ((List.finRange 144).filter (fun i => !s.fenced i)) (fun i => do
    when (decide (s.siteClock i < s.field F.CORE_PWR_STATUS.FREQ_MHZ i 0)) (setF F.CORE_PWR_STATUS.FREQ_MHZ i 0 (s.siteClock i))
    keepF F.CORE_PWR_STATUS.DUTY i 0 (s.siteDuty i))

/-- The cluster's voltage is there: the raises that waited for it proceed. -/
def slewDone (c : ClusterId) : Prog Unit :=
  letI := Prog.monad
  do
  let s ← ask id
  each (List.finRange 144) (fun i => when (clusterOf i == c && !s.fenced i) (keepF F.CORE_PWR_STATUS.FREQ_MHZ i 0 (s.siteClock i)))
def execVcoreSlewDone (c : ClusterId) (s : State) : Host.Outcome State Fault Refusal := Prog.next (slewDone c) s

/-! Throttling (16 R435). -/

/-- Whether a present site runs below its unthrottled value by the device ceiling that the cap or the envelope rule holds down, and by a
thermal ceiling. F_dev that only climbs after LIMIT_MHZ or the mode has raised its top is no throttle (log 55). -/
def State.throttles (s : State) : Bool × Bool :=
  let un (i : SiteId) : Nat := if s.boost then min (s.agedMax i) s.limitMhz else s.fixedMhz
  (s.pwr.capped && s.presentSites.any (fun i => decide (s.pwr.fdev < un i)), s.presentSites.any (fun i => decide (s.heatCeiling i < un i)))

/-- THROTTLE_THERMAL set, with the management port's alert. -/
def thermalEvent : Prog Unit := (pwrEvent F.PWR_EVENT.THROTTLE_THERMAL).bind (fun _ => mgtAlert F.MGT_ALERT.THERMAL)

/-- The conditions that a heartbeat reports (16 R436). -/
def State.hbFlags (s : State) : Nat :=
  b2n (s.pwr.byCap || s.pwr.byHeat) + place 1 1 (b2n s.pwr.byCap) + place 2 2 (b2n s.pwr.byHeat) +
    place 4 4 (s.field F.PWR_STATUS.MEASURED 0 0) + place 5 5 (b2n (!s.boost))

/-- THROTTLED as it now is, with its events when throttling begins. -/
def showThrottle : Prog Unit :=
  letI := Prog.monad
  do
  let s ← ask id
  let (cap, heat) := s.throttles
  modPwr (fun p => { p with byCap := cap, byHeat := heat })
  setF F.PWR_STATUS.THROTTLED 0 0 (b2n (cap || heat))
  when (!(s.pwr.byCap || s.pwr.byHeat)) do
    when cap (pwrEvent F.PWR_EVENT.THROTTLE_CAP)
    when heat thermalEvent

/-! The control loop (16 R427, R428). -/

/-- The cap as it acts, in units of 0.1 W. -/
def State.capTenths (s : State) : Nat := 10 * min 750 (max 300 (s.field F.PWR_CAP_LIMIT.WATTS 0 0))

/-- The top of F_dev. -/
def State.topMhz (s : State) : Nat :=
  if s.boost then
    min (min 1950 (max 400 s.pwr.limit)) ((s.presentSites.map s.agedMax).foldl max 0)
  else s.fixedMhz

/-- P_ctl at a tick as a fraction, in units of 0.1 W (16 R429): the estimate, scaled in MEASURED by the last valid window where that
raises it; a window whose estimates were all zero gives no ratio, and the scaled value `v` is then free. -/
def State.pCtl (s : State) (est v : Nat) : Nat × Nat :=
  if s.flag F.PWR_STATUS.MEASURED 0 0 then
    if s.pwr.winSum = 0 then (max est v, 1) else
    (max (est * s.pwr.winSum) (est * s.pwr.winMeas * s.pwr.winTicks), s.pwr.winSum)
  else (est, 1)

/-- F_dev after a tick, and whether the cap or the envelope rule keeps it below its top: they do where they lowered it or hold it, and while
it climbs back from there. -/
def State.nextFdev (s : State) (est v : Nat) : Nat × Bool :=
  let f := max 400 (min s.pwr.fdev s.topMhz)
  let (n, d) := s.pCtl est v
  let (f', acts) :=
    if s.pwr.envelope then (400, true)
    else if s.capTenths * d < n then (max 400 (f - 25), true)
    else if n * 100 < 98 * s.capTenths * d then (if f < s.topMhz then min (max 400 s.topMhz) (f + 25) else f, s.pwr.capped)
    else (f, true)
  (f', acts && decide (f' < s.topMhz))

/-- PWR_FREQ_CTRL as it now is acts (16 R425). -/
def takeFreq : Prog Unit :=
  .get (fun s => modPwr (fun p => { p with boost := s.flag F.PWR_FREQ_CTRL.MODE 0 0, limit := s.field F.PWR_FREQ_CTRL.LIMIT_MHZ 0 0,
                                           fixed := s.field F.PWR_FREQ_CTRL.FIXED_MHZ 0 0 }))

/-- A control tick with its estimate. An envelope event of the last window acts at each tick until the next window ends (16 R428). -/
def tickProg (est : Nat) : Prog Unit :=
  letI := Prog.monad
  do
  let v ← fresh 32
  takeFreq
  let s ← ask id
  let env := s.pwr.envelope
  let (f, capped) := s.nextFdev est v
  modPwr (fun p => { p with fdev := f, capped := capped, sum := p.sum + est, ticks := p.ticks + 1 })
  setF F.PWR_STATUS.CEILING_MHZ 0 0 f
  when env (pwrEvent F.PWR_EVENT.OVER_ENVELOPE)
  setClocks
  showThrottle
  let s1 ← ask id
  modPwr (fun p => { p with flags := p.flags ||| s1.hbFlags ||| place 3 3 (b2n env),
                            throttledUs := (p.throttledUs + b2n (s1.phase == 9 && (p.byCap || p.byHeat))) % 2 ^ 32 })
def execControlTick (est : BitVec 16) (s : State) : Host.Outcome State Fault Refusal := Prog.next (tickProg est.toNat) s

/-! Telemetry (16 R420, R421, R428, R429). -/

/-- A quotient in whole units: exact where it divides, else either neighbour, freely (log 41). -/
def rounded (n d : Nat) : Prog Nat :=
  if n % d = 0 then .pure (n / d) else (fresh 1).bind (fun v => .pure (n / d + v))

/-- Allocations of the consumer groups, in units of 0.1 W (16 R421). -/
def allocations : List Nat := [4300, 700, 900, 900, 150]

/-- A window ends with a valid report. -/
def windowReport (r : PowerReport) : Prog Unit :=
  letI := Prog.monad
  do
  let s ← ask id
  let meas := r.pin.toNat
  let n := max 1 s.pwr.ticks
  let sum := s.pwr.sum
  let off := if sum < n * meas then n * meas - sum else sum - n * meas
  let differs := decide (12 * n * meas < 100 * off)
  setR .MGT_INPUT 0 0 (place 63 48 r.vin.toNat + place 47 32 r.iin.toNat + place 31 16 meas)
  when (decide (3800 ≤ r.vin.toNat) && decide (r.vin.toNat ≤ 4100)) do
    pwrEvent F.PWR_EVENT.INPUT_LOW
    mgtAlert F.MGT_ALERT.INPUT_LOW
  let past := (List.range 5).any (fun g => decide (nth allocations g 0 < nth r.groups g 0))
  modPwr (fun p => { p with envelope := decide (7500 < meas) || past, silent := 0, sum := 0, ticks := 0,
                            winSum := sum, winTicks := n, winMeas := meas,
                            agree := if differs then 0 else p.agree + 1, disagree := if differs then p.disagree + 1 else 0 })
  let ew ← rounded sum (10 * n)
  let iw ← rounded meas 10
  setF F.PWR_STATUS.EST_W 0 0 ew
  setF F.PWR_STATUS.INPUT_W 0 0 iw
  let p ← ask (·.pwr)
  let on := s.flag F.PWR_STATUS.MEASURED 0 0
  when (!on && decide (100 ≤ p.disagree)) do
    setF F.PWR_STATUS.MEASURED 0 0 1
    pwrEvent F.PWR_EVENT.ESTIMATE_MISMATCH
    when (!s.flag F.PWR_MISMATCH_LOG.VALID 0 0) do
      let e ← rounded sum n
      setR .PWR_MISMATCH_LOG 0 0 (place 63 63 1 + place 62 32 (s.now / 1000) + place 31 16 e + place 15 0 meas)
    modPwr (fun p => { p with flags := p.flags ||| 16 })
  when (on && decide (1000 ≤ p.agree)) (setF F.PWR_STATUS.MEASURED 0 0 0)

/-- A window ends; without a valid report it neither counts nor breaks a run. -/
def telemetry (r : Option PowerReport) : Prog Unit :=
  letI := Prog.monad
  match r with
  | some x => windowReport x
  | none => do
    let s ← ask id
    modPwr (fun p => { p with envelope := false, silent := p.silent + 1, sum := 0, ticks := 0 })
    when (s.pwr.silent + 1 == 100) (pwrEvent F.PWR_EVENT.TELEMETRY_LOST)
def execTelemetryReport (r : Option PowerReport) (s : State) : Host.Outcome State Fault Refusal := Prog.next (telemetry r) s

/-! Ageing and droop (16 R423, R430). -/

/-- A site whose timing margin is short. -/
def ageSite (i : SiteId) : Prog Unit :=
  letI := Prog.monad
  do
  let s ← ask id
  let guard := s.field F.CORE_PWR_STATUS.GUARD_MV i 0
  if 1700 < s.agedMax i then setF F.CORE_PWR_STATUS.AGED_MAX_MHZ i 0 (s.agedMax i - 25)
  else if guard < 25 then setF F.CORE_PWR_STATUS.GUARD_MV i 0 (min 25 (guard + 5))
  else do
    setF F.PWR_EVENT.AGE_SITE 0 0 i.val
    pwrEvent F.PWR_EVENT.AGE_LIMIT
    when (!s.flag F.CORE_PWR_STATUS.AGE_LIMIT i 0) do
      setF F.CORE_PWR_STATUS.AGE_LIMIT i 0 1
      faultRecord 0xA 0 (.ofSite i)

/-- The ageing monitors compared, every 1 ms: the sites whose margin is short. A clock that a lower AGED_MAX_MHZ bounds falls at once (16
R425). -/
def ageCheck (short : List SiteId) : Prog Unit :=
  letI := Prog.monad
  do
  let s ← ask id
  when (decide (4 ≤ s.phase)) do
    each ((List.finRange 144).filter (fun i => short.contains i && !s.fenced i)) ageSite
    setClocks
  when (s.phase == 9) (modPwr (fun p => { p with learn := p.learn - 1 }))
def execAgeingCheck (short : List SiteId) (s : State) : Host.Outcome State Fault Refusal := Prog.next (ageCheck short) s

/-- A droop of a site: its clock halves, for HOLD_CYCLES as they now stand (16 R438). A stopped clock has none (16 R439). -/
def droopProg (i : SiteId) : Prog Unit :=
  letI := Prog.monad
  do
  let s ← ask id
  when (!s.fenced i && !s.hushed) do
    incF F.CORE_DROOP_EVENTS.DROOPS i 0 1
    setF F.CORE_PWR_STATUS.STRETCHED i 0 1
    modSite i (fun x => { x with stretched := true, hold := s.field F.PWR_DROOP_CONFIG.HOLD_CYCLES 0 0 })
def execDroop (i : SiteId) (s : State) : Host.Outcome State Fault Refusal := Prog.next (droopProg i) s

/-- The stretch ends after `cycles` stretched cycles, the last HOLD_CYCLES of them above the threshold; a stopped clock counts none. -/
def droopEnd (i : SiteId) (cycles : Nat) : Prog Unit :=
  letI := Prog.monad
  do
  let s ← ask id
  when (s.sites[i].stretched && !s.fenced i && !s.hushed) do
    incF F.CORE_DROOP_EVENTS.STRETCH_CYCLES i 0 (max cycles (max 1 s.sites[i].hold))
    setF F.CORE_PWR_STATUS.STRETCHED i 0 0
    modSite i (fun x => { x with stretched := false })
def execDroopEnd (i : SiteId) (cycles : BitVec 32) (s : State) : Host.Outcome State Fault Refusal :=
  Prog.next (droopEnd i cycles.toNat) s

/-! Temperature (16 R431, R432, R434). -/

/-- A sensor's latest reading. -/
def State.reading (s : State) (k : Nat) : Int := sext 16 (s.field F.PWR_SENSOR.TEMP 0 k)

/-- The sensor with the highest reading, the lowest number breaking ties. -/
def State.hottest (s : State) : Nat := (List.range 20).foldl (fun b k => if s.reading b < s.reading k then k else b) 0

/-- The ceiling that a sensor governs after a reading (16 R432). -/
def nextCeiling (top c : Nat) (t : Int) : Nat :=
  if 420 ≤ t then max 400 (c - 100) else if 412 ≤ t then c else min top (c + 25)

/-- A junction sensor's sample. The lid sensor, whose readings no command gives, shows a free one with it (log 1). A clock or duty that a lower ceiling bounds follows at once (16 R425). -/
def sampleProg (k : Fin 20) (temp : BitVec 16) : Prog Unit :=
  letI := Prog.monad
  do
  coolSensor k temp
  let s ← ask id
  setF F.PWR_SENSOR.TEMP 0 k temp.toNat
  when (decide (sext 16 (s.field F.PWR_SENSOR.PEAK 0 k) < quarters temp)) (setF F.PWR_SENSOR.PEAK 0 k temp.toNat)
  let s1 ← ask id
  let hot := s1.reading s1.hottest
  setF F.MGT_THERMAL.HOT_SENSOR 0 0 s1.hottest
  setF F.MGT_THERMAL.HOT 0 0 (wrap 16 hot)
  let whole ← rounded hot.toNat 4
  setF F.PWR_STATUS.HOT_MAX 0 0 whole
  let lid ← fresh 16
  setF F.MGT_THERMAL.LID 0 0 lid
  let top := if s.boost then 1950 else s.fixedMhz
  let c := min top (nth s.pwr.ceilings k.val 1950)
  let c' := nextCeiling top c (quarters temp)
  modPwr (fun p => { p with ceilings := p.ceilings.set k.val c' })
  when (c == top && decide (c' < top)) thermalEvent
  setClocks
  showThrottle
  tripProg temp
def execSensorSample (k : Fin 20) (temp : BitVec 16) (s : State) : Host.Outcome State Fault Refusal := Prog.next (sampleProg k temp) s

/-! Heartbeats (16 R436). -/

/-- CEILING_MHZ of a heartbeat. -/
def State.hbCeiling (s : State) : Nat :=
  if s.boost then s.pwr.fdev else s.fixedMhz * (s.presentSites.map s.siteDuty).foldl min 64 / 64

/-- A heartbeat's granule. -/
def State.hbGranule (s : State) : List Byte :=
  toBytes 8 s.now ++ toBytes 2 s.ownId ++ toBytes 1 (s.pwr.flags ||| s.hbFlags) ++ toBytes 1 (s.field F.PWR_STATUS.HOT_MAX 0 0) ++
    toBytes 2 s.hbCeiling ++ toBytes 2 (s.field F.PWR_STATUS.INPUT_W 0 0) ++ toBytes 4 s.pwr.seq ++ toBytes 4 s.pwr.throttledUs ++ zeroBytes 8

/-- A SYNC packet of KIND 0 on TC0 to a device (11 R317). -/
def State.hbPacket (s : State) (dev : Nat) : Packet where
  w0 := BitVec.ofNat 64 (place 63 60 0xA + place 57 54 1 + place 44 30 s.ownId)
  w1 := BitVec.ofNat 64 (globalAddr dev 0)
  w2 := 0
  w3 := 0
  grans := [burstOf (.valid s.hbGranule)]

/-- A heartbeat to the peer of each link that is up, and to the collector. -/
def heartbeat : Prog Unit :=
  letI := Prog.monad
  do
  let s ← ask id
  when (s.flag F.PWR_HB_CONFIG.ENABLE 0 0 && s.phase == 9) do
    each ((List.range 64).filter s.linkIsUp) (fun n => sendPacket (s.hbPacket (s.field F.FAB_LINK_STATUS.PEER_DEV n 0)))
    when (s.flag F.PWR_HB_CONFIG.COLLECTOR_V 0 0) (sendPacket (s.hbPacket (s.field F.PWR_HB_CONFIG.COLLECTOR 0 0)))
    modPwr (fun p => { p with seq := (p.seq + 1) % 2 ^ 32, flags := 0 })
def execHeartbeatSend (s : State) : Host.Outcome State Fault Refusal := Prog.next heartbeat s

end Sys2Proof.Machine
end

