-- ==== Sys2Proof/Machine/RegView.lean ====
section
/-!
DEFINITION. Registers as a read shows them: views that the device computes, live counters, the snapshot window
(spec/00_scope.md R9 to R12, 17 R454, R456, 19 R474, R480, R492, R494).
-/
namespace Sys2Proof.Machine
open Prog hiding pure bind get op run monad

/-- The word of a register, with the fields that other registers or the timebase supply; CORE_PWR_STATUS of a core that Hush has stopped as
it stood then (16 R439). -/
def State.viewWord (s : State) (r : Reg) (i j : Nat) : Nat :=
  let v := s.reg r i j
  let engine := s.reg .SEC_ENGINE 0 0 % 2 ^ 16
  match r with
  | .TBS_TIME => s.now % 2 ^ 64
  | .SEC_FW_STATUS => engine
  | .SEC_ATT_STATUS | .SEC_DBG_STATUS => v / 2 ^ 16 * 2 ^ 16 + engine
  | .CORE_PWR_STATUS => if s.hushed then nth s.obs.power i v else v
  | .CNT_STATUS => setFld v 1 1 (b2n (decide (s.now < s.obs.target)))
  | _ => v

/-- The code of the engine (19 R469) whose live counter set holds a word. -/
def liveEngine (r : Reg) (j : Nat) : Option Nat :=
  match r with
  | .CNT_CORE_LIVE => some (j / 32)
  | .CNT_CLUS_LIVE => some (5 + j / 32)
  | .CNT_RAKE_LIVE => some 7
  | .CNT_COLL_LIVE => some 8
  | .CNT_LINK_LIVE => some 9
  | _ => none

/-- Whether a word of a register goes on with the cycles as they run: a live bank's END_TIME, and the words that count cycles, whose
values are free (19 R474, log 5). -/
def liveWord (r : Reg) (j : Nat) : Bool :=
  match liveEngine r j with
  | some e => j % 32 == 1 || countsCycles e (j % 32)
  | none => false

/-- What such a word shows while its clock runs: END_TIME the stamp of the current cycle (log 15), any other a free value. -/
def liveNow (j : Nat) : Prog Nat := if j % 32 = 1 then Prog.ask (fun s => s.now % 2 ^ 64) else fresh 64

/-- The stamp of the last cycle of a core whose clock has stopped (19 R474): when it was fenced, or the trigger's time (log 162). -/
def State.stopStamp (s : State) (i : SiteId) : Nat := if s.fenced i then s.sites[i].stopAt else s.reg .TRC_HUSH_TIME 0 0

/-- What such a word of a core reads while the core's clock is stopped (01 R41, R43, 19 R474): END_TIME the stamp of the last cycle before
the stop, any other the value that it held then. -/
def State.heldWord (s : State) (r : Reg) (i j : Nat) : Option Nat :=
  if r = .CNT_CORE_LIVE then
    if h : i < 144 then
      let c : SiteId := ⟨i, h⟩
      if s.fenced c || s.hushed then
        some (if j % 32 = 1 then s.stopStamp c else Config.held (if s.fenced c then s.sites[i].heldAt else s.obs.heldAt) i j)
      else none
    else none
  else none

/-- The byte at a BAR0 offset; none where it is free. -/
def State.regByte (s : State) (off : Nat) : Option Byte :=
  match Reg.find (off / 8 * 8) with
  | none => some 0
  | some (r, i, j) =>
    if liveWord r j then (s.heldWord r i j).map (fun v => nth (toBytes 8 v) (off % 8) 0)
    else some (nth (toBytes 8 (s.viewWord r i j)) (off % 8) 0)

/-! Rights (17 R454, 19 R496). -/

/-- A debug right in force: 0 HUSH, 1 SCAN, 2 REGDBG. -/
def State.right (s : State) (n : Nat) : Bool := (s.field F.SEC_DBG_STATUS.RIGHTS 0 0).testBit n

/-- A write that needs a right. -/
def needs (n : Nat) (p : Prog Unit) : Prog Unit := .get (fun s => if s.right n then p else denied)

/-! Access masks (00 R10). -/

/-- The bits of a register's fields of one access code. -/
def accMask (r : Reg) (a : Acc) : Nat :=
  (r.fields.filter (fun f => f.acc == a)).foldl (fun m f => m ||| place f.hi f.lo (2 ^ (f.hi + 1 - f.lo) - 1)) 0

/-- The bits that an access reaches. -/
def halfMask : Half → Nat
  | .full => 2 ^ 64 - 1
  | .low => 2 ^ 32 - 1
  | .high => 2 ^ 64 - 2 ^ 32

/-- Whether a field lies wholly in what an access reaches (00 R11). -/
def Field.within (f : Field) (h : Half) : Bool :=
  match h with
  | .full => true
  | .low => decide (f.hi < 32)
  | .high => decide (32 ≤ f.lo)

/-! Reads. -/

/-- Base of the snapshot in LPDDR6 (19 R489). -/
def snapBase : Nat := 0x013F80000000

/-- Whether a scan has written a page of the snapshot: LPDDR6 lists what has been written, and in this range only a scan writes. -/
def State.snapWritten (s : State) (page : Nat) : Bool := (Mem.get (snapBase + 0x10000 * page) s.mem).isSome

/-- A granule of the snapshot read at its channel, past the mesh and the caches (19 R489): POISON where the channel has failed (10 R296). -/
def scanRead (rq : Req) (off : Nat) : Prog Gran :=
  .get (fun s => if s.flag F.MEM_CH_STATUS.FAILED (channelOf off) 0 then poisonGran else channelRead { rq with direct := true } off)

/-- A word of the snapshot window: zero where no scan has written the page, while one is under way, and beyond the last page (19 R492). The
PCIe controller consumes the granule; one that is not correctable shows the data as received. -/
def snapWord (j : Nat) : Prog Nat :=
  letI := Prog.monad
  do
  let s ← ask id
  let page := s.field F.TRC_SNAP_PAGE.PAGE 0 0
  let st := s.field F.TRC_HUSH_STATUS.STATE 0 0
  if decide (0x5C3 < page) || st == 1 || st == 2 || !s.snapWritten page then pure 0
  else do
    let off := snapBase + 0x10000 * page + 8 * j
    let rq : Req := { cls := .dma, unit := 0x0C }
    let g ← scanRead rq (off / 32 * 32)
    let d ← consume { rq with direct := true } (off / 32 * 32) g
    pure (leAt (d.getD g.data) (off % 32) 8)

/-- The right that a read of a register needs (17 R454, 19 R492, R496): 0 HUSH, 1 SCAN. -/
def readRight (r : Reg) : Option Nat :=
  match r with
  | .TRC_HUSH_CTRL | .TRC_HUSH_MARK => some 0
  | .TRC_HUSH_SHIP | .TRC_SNAP_WINDOW => some 1
  | _ => none

/-- A register word read, its RC fields cleared that the access returns whole; without the right that it needs it is zero and counted (17
R454). A read of a fenced or stopped core's block clears RC fields as any read does, though its word is held: the model's choice (log 163). -/
def readWord (r : Reg) (i j : Nat) (h : Half) : Prog Nat :=
  letI := Prog.monad
  do
  let s ← ask id
  if (readRight r).any (fun n => !s.right n) then do
    denied
    pure 0
  else do
  let v ← (if r = .TRC_SNAP_WINDOW then snapWord j
    else if liveWord r j then (match s.heldWord r i j with
      | some v => pure (v % 2 ^ 64)
      | none => liveNow j)
    else pure (s.viewWord r i j))
  each (r.fields.filter (fun f => f.acc == .rc && f.within h)) (fun f => setF f i j 0)
  pure (v &&& halfMask h)

/-- The register word at a BAR0 offset, within its 64 MiB. -/
def regAt (off : Nat) : Option (Reg × Nat × Nat) := if off < 0x4000000 then Reg.find (off / 8 * 8) else none

/-- A read of a BAR0 offset (00 R9): zero where no register is, or where BAR0 does not decode (15 R404). -/
def readReg (off : Nat) (h : Half) : Prog Nat :=
  letI := Prog.monad
  do
  let s ← ask id
  match regAt off with
  | some (r, i, j) => if s.decodes off then readWord r i j h else pure 0
  | none => pure 0

end Sys2Proof.Machine
end

