-- ==== Sys2Proof/Machine/Observe.lean ====
section
/-!
DEFINITION. The fault log's HEAD, drains that escalate, counter swaps, the trace merger, Hush and its snapshot
(spec/18_reliability.md R466, R468, 19_observability.md R473 to R496).
-/
namespace Sys2Proof.Machine
open Prog hiding pure bind get op run monad

/-! Faults (18 R466, R468). -/

/-- TOP_FAULT_PTRS.HEAD written: past the outstanding records it acts as TAIL. -/
def faultHead (head : Nat) : Prog Unit :=
  .get (fun s =>
    let h := s.field F.TOP_FAULT_PTRS.HEAD 0 0
    let t := s.field F.TOP_FAULT_PTRS.TAIL 0 0
    setF F.TOP_FAULT_PTRS.HEAD 0 0 (if (t + 256 - h) % 256 < (head + 256 - h) % 256 then t else head))
def execFaultLogHeadWrite (head : Byte) (s : State) : Host.Outcome State Fault Refusal :=
  Prog.next (gated (Reg.addr .TOP_FAULT_PTRS 0 0) (faultHead head.toNat)) s

/-- A drain has passed its limit: the immediate variant acts and a record names the function: a core's site, the Rake, a ring. -/
def escalate (f : Fin 3) (i : Nat) : Prog Unit :=
  letI := Prog.monad
  do
  let s ← ask id
  when (s.field F.TOP_FAULT_CONFIG.DRAIN_LIMIT 0 0 != 0) do
    match f.val with
    | 0 =>
      if h : i < 144 then
        when (s.field F.CORE_SEQ_STATUS.STATE i 0 == 2) do
          abortCore ⟨i, h⟩
          faultRecord 0xB 1 (.ofSite ⟨i, h⟩)
      else skip
    | 1 =>
      when (s.rake.draining && s.rake.run.isSome) do
        rakeAbort
        faultRecord 0xB 2 {}
    | _ =>
      if h : i < 16 then
        when (s.host.rings[i].draining && s.flag F.HST_RING_CTRL.BUSY i 0) do
          abortRing ⟨i, h⟩
          faultRecord 0xB 3 {}
      else skip
    collPoll
def execDrainEscalate (f : Fin 3) (i : Fin 256) (s : State) : Host.Outcome State Fault Refusal := Prog.next (escalate f i.val) s

/-! Counter swaps (19 R473 to R477). -/

/-- Every instance of counter sets. -/
def swapInsts : List SwapInst :=
  (List.finRange 144).map .core ++ (List.finRange 18).map .cluster ++ (List.finRange 32).map .rake ++ [.coll] ++ (List.finRange 64).map .link

/-- Swaps of the present target that are owed once another takes its place: none while it is pending, since that one then replaces it; where
it has passed, those of the instances that have not swapped yet, their clocks having stopped (19 R476). -/
def State.owedNext (s : State) : List (SwapInst × Nat × Bool) :=
  if s.now < s.obs.target then s.obs.owed
  else s.obs.owed ++ (s.obs.due.filter (fun i => !s.obs.owed.any (fun o => o.1 == i))).map (fun i => (i, s.obs.target, s.obs.atPast))

/-- A swap commanded at a target time; one that was pending is replaced. -/
def setTarget (t : Nat) (past : Bool) : Prog Unit :=
  letI := Prog.monad
  do
  when past (setF F.CNT_STATUS.AT_PAST 0 0 1)
  addF F.CNT_STATUS.SWAP_SEQ 0 0 1
  let owed ← ask (·.owedNext)
  modObs (fun o => { o with target := t, atPast := past, due := swapInsts, owed := owed })

def swapNow : Prog Unit := .get (fun s => setTarget (s.now + 100) false)
def execCntSwap (s : State) : Host.Outcome State Fault Refusal := Prog.next (gated (Reg.addr .CNT_CMD 0 0) swapNow) s

/-- CNT_CMD.AT: a time less than 100 ns ahead is too near. -/
def swapAt : Prog Unit :=
  .get (fun s =>
    let t := s.field F.CNT_SWAP_AT.TIME 0 0
    if t < s.now + 100 then setTarget (s.now + 100) true else setTarget t false)
def execCntSwapAt (s : State) : Host.Outcome State Fault Refusal := Prog.next (gated (Reg.addr .CNT_CMD 0 0) swapAt) s

/-- The swap that an instance makes next, with its target and AT_PAST: one that it owes, or the commanded one once its target is reached (19
R476). -/
def State.swapOf (s : State) (i : SwapInst) : Option (Nat × Bool) :=
  match s.obs.owed.find? (fun o => o.1 == i) with
  | some o => some o.2
  | none => if s.obs.due.contains i && decide (s.obs.target ≤ s.now) then some (s.obs.target, s.obs.atPast) else none

/-- An instance swaps: in its first cycle at the target or after. A core whose clock is stopped swaps once it restarts, for all targets that
have passed by then, and its event then carries LATE. -/
def swapProg (i : SwapInst) : Prog Unit :=
  letI := Prog.monad
  do
  let s ← ask id
  let stopped := match i with | .core c => s.hushed || s.fenced c | _ => false
  match (if stopped then none else s.swapOf i) with
  | none => skip
  | some (target, atPast) => do
    let one := !s.obs.owed.any (fun o => o.1 == i) || decide (s.obs.target < s.obs.resumed)
    modObs (fun o => { o with owed := o.owed.filter (fun o => o.1 != i), due := if one then o.due.filter (· != i) else o.due })
    let late := decide (s.reg .TRC_HUSH_TIME 0 0 ≤ target) && decide (target < s.obs.resumed)
    let past := b2n atPast
    match i with
    | .core c => swapCore c (2 * b2n late + past)
    | .cluster c => do
      swapSet .CNT_CLUS_FROZEN .CNT_CLUS_LIVE c 0 1 c.val 5 past
      swapSet .CNT_CLUS_FROZEN .CNT_CLUS_LIVE c 32 1 c.val 6 past
    | .rake u => swapSet .CNT_RAKE_FROZEN .CNT_RAKE_LIVE u 0 2 u.val 7 past
    | .coll => swapSet .CNT_COLL_FROZEN .CNT_COLL_LIVE 0 0 3 0 8 past
    | .link l => swapSet .CNT_LINK_FROZEN .CNT_LINK_LIVE l 0 4 l.val 9 past
def execCounterSwap (i : SwapInst) (s : State) : Host.Outcome State Fault Refusal := Prog.next (swapProg i) s

/-! The trace merger (19 R484 to R486, R495). -/

def State.trcSize (s : State) : Nat := 2 ^ min 30 (max 10 (s.field F.TRC_RING_CTRL.LOG2 0 0))

/-- Entries of the ring that the host has not read. -/
def State.trcUsed (s : State) : Nat :=
  let n := s.trcSize
  (s.field F.TRC_RING_PTRS.TAIL 0 0 % n + n - s.field F.TRC_RING_PTRS.HEAD 0 0 % n) % n

/-- The type of an event. -/
def evType (ev : List Word) : Nat := fld (nth ev 0 0).toNat 63 60

/-- The source that is next: one that holds a TIME_STEP goes before all, else round robin (19 R481, R484). -/
def State.nextSource (s : State) : Option Fifo :=
  let fs := s.obs.fifos.filter (fun f => !f.events.isEmpty)
  match fs.find? (fun f => f.events.any (fun e => evType e == 0xC)) with
  | some f => some f
  | none =>
    let later (f : Fifo) : Bool := decide (s.obs.lastSrc.1 < f.kind) || (s.obs.lastSrc.1 == f.kind && decide (s.obs.lastSrc.2 < f.num))
    match fs.find? later with
    | some f => some f
    | none => fs.head?

/-- The first event taken out; a LOSS event takes the entry that frees where events were lost. -/
def Fifo.pop (now : Nat) (f : Fifo) : Fifo :=
  if f.lost = 0 then { f with events := f.events.tail }
  else { f with events := f.events.tail ++ [eventWords 0xE f.kind f.num 0 0 0xFF now f.lost f.lostAt f.seq],
                seq := (f.seq + 1) % 256, lost := 0 }

/-- A pointer of the ring moves: vector 3 where the occupancy goes from below the watermark to it or above (19 R485). -/
def trcMove (f : Field) (v : Nat) : Prog Unit :=
  letI := Prog.monad
  do
  let s ← ask id
  setF f 0 0 v
  let s1 ← ask id
  let w := s.field F.TRC_RING_CTRL.WATERMARK 0 0 * s.trcSize
  when (w != 0 && decide (16 * s.trcUsed < w) && decide (w ≤ 16 * s1.trcUsed)) (raise 3)

/-- The entry written is accepted: TAIL advances. -/
def trcAccepted : Prog Unit :=
  letI := Prog.monad
  do
  let s ← ask id
  modObs (fun o => { o with writing := false })
  trcMove F.TRC_RING_PTRS.TAIL ((s.field F.TRC_RING_PTRS.TAIL 0 0 + 1) % s.trcSize)

/-- The requester of the trace merger, at HE (01 R19). -/
def obsReq : Req := { cls := .dma, unit := 0x0B, stop := some hubEast }

/-- The requester of the snapshot: it goes through the scan network and not through the mesh (19 R492). -/
def scanReq : Req := { cls := .dma, unit := 0x0B }

/-- The address of the ring's next entry. -/
def State.trcEntry (s : State) : Nat := 32 * s.field F.TRC_RING_BASE.BASE 0 0 + 32 * (s.field F.TRC_RING_PTRS.TAIL 0 0 % s.trcSize)

/-- One event written to the ring, unless the ring is disabled, full under STOP, held by Hush or at the seam (01 R17), or awaits an
acceptance. -/
def mergeProg : Prog Unit :=
  letI := Prog.monad
  do
  let s ← ask id
  let full := s.trcUsed + 1 == s.trcSize
  when (s.flag F.TRC_RING_CTRL.ENABLE 0 0 && !s.hushed && !s.reqCut obsReq s.trcEntry && !s.obs.writing && (!full || s.flag F.TRC_RING_CTRL.MODE 0 0)) do
    match s.nextSource with
    | none => skip
    | some f => do
      let ev := f.events.head?.getD []
      modObs (fun o => { o with fifos := o.fifos.map (fun g => if g.kind = f.kind ∧ g.num = f.num then g.pop s.now else g),
                                lastSrc := (f.kind, f.num), writing := true })
      when full do
        setF F.TRC_RING_PTRS.HEAD 0 0 ((s.field F.TRC_RING_PTRS.HEAD 0 0 + 1) % s.trcSize)
        incF F.TRC_RING_STATUS.OVERWRITTEN 0 0 1
      when (evType ev == 0xE) (incF F.TRC_RING_STATUS.LOSS_EVENTS 0 0 1)
      let rs ← writePatches obsReq (Patch.addBytes s.trcEntry (ev.flatMap (fun w => toBytes 8 w.toNat)) [])
      if rs.isEmpty then trcAccepted else sendStores .trace 3 0xFF 0 {} rs
def execTraceMerge (s : State) : Host.Outcome State Fault Refusal := Prog.next mergeProg s

/-- TRC_RING_PTRS.HEAD written by the host. -/
def trcHead (head : Nat) : Prog Unit := trcMove F.TRC_RING_PTRS.HEAD head
def execTraceHeadWrite (head : BitVec 32) (s : State) : Host.Outcome State Fault Refusal :=
  Prog.next (gated (Reg.addr .TRC_RING_PTRS 0 0) (trcHead head.toNat)) s

/-! Hush (19 R487 to R493). -/

/-- TRC_HUSH_CTRL.TRIGGER, with the HUSH right. -/
def triggerProg : Prog Unit := needs 0 (hushTrigger 1)
def execTrigger (s : State) : Host.Outcome State Fault Refusal := Prog.next (gated (Reg.addr .TRC_HUSH_CTRL 0 0) triggerProg) s

/-- TRC_HUSH_CTRL.RESUME, with the HUSH right. -/
def resumeProg : Prog Unit :=
  letI := Prog.monad
  needs 0 (do
    let s ← ask id
    let st := s.field F.TRC_HUSH_STATUS.STATE 0 0
    when (st == 3 || st == 5) do
      traceEvent 0xD 7 0 0xFF 0 0 (256 + s.field F.TRC_HUSH_STATUS.CAUSE 0 0) (s.reg .TRC_HUSH_TIME 0 0)
      setF F.TRC_HUSH_STATUS.STATE 0 0 0
      modObs (fun o => { o with resumed := s.now })
      deliverHeld
      drainStalls s.fabric.stalls.length
      drainCasts
      modFabric (fun f => { f with parked := [] })
      each s.fabric.parked (fun w => (emit (.loop w.packet)).bind (fun _ => match w.vc with
        | some v => rxFree w.input v (pBytes w.packet)
        | none => skip))
      wakeCores
      ringsGoOn
      rakeKick
      collPoll)
def execResume (s : State) : Host.Outcome State Fault Refusal := Prog.next (gated (Reg.addr .TRC_HUSH_CTRL 0 0) resumeProg) s

/-- Every unit has taken its last action: the scan starts. -/
def stoppedProg : Prog Unit :=
  .get (fun s => when (s.field F.TRC_HUSH_STATUS.STATE 0 0 == 1)
    ((setF F.TRC_HUSH_STATUS.STATE 0 0 2).bind (fun _ => setF F.TRC_HUSH_STATUS.SCANNED 0 0 0)))
def execHushStopped (s : State) : Host.Outcome State Fault Refusal := Prog.next stoppedProg s

/-! The snapshot (19 R489 to R491). What its layouts do not give, and what the model does not hold, is free (log 45). -/

/-- A byte of a fixed list, none past its end. -/
def at? (bs : List Byte) (k : Nat) : Option Byte := bs[k]?

/-- The units of the queue entries, with the first entry and the depth of each. -/
def snapQueues (x : Site) : List (Nat × Nat × List Flight) :=
  let q (u : CoreUnit) : List Flight := x.flights.filter (fun f => f.unit == u)
  [(0, 16, q .arrays), (16, 8, x.rows), (24, 16, q .dmaRd), (40, 16, q .dmaWr), (56, 16, q .lacewing), (72, 8, q .mower), (80, 8, q .coll)]

/-- A queue entry of 320 bytes. -/
def snapEntry (f : Flight) (k : Nat) : Option Byte :=
  if k < 16 then at? (toBytes 16 f.word.toNat) k
  else if k = 16 then some 1
  else if k = 17 then some (if f.phase = .queued then 0 else 1)
  else if 20 ≤ k ∧ k < 24 then at? (toBytes 4 f.step) (k - 20)
  else if 24 ≤ k ∧ k < 28 then at? (toBytes 4 f.epoch) (k - 24)
  else if 28 ≤ k ∧ k < 60 then at? (f.tregs.flatMap (toBytes 4)) (k - 28)
  else if 64 ≤ k then at? (f.descs.flatMap (fun d => d.flatMap (fun w => toBytes 8 w.toNat))) (k - 64)
  else none

/-- ACTIVE_COPY of a site: which of the two column buffers holds the resident weights is free (log 45). -/
def State.snapCopy (s : State) (i : SiteId) : Nat := (Config.scanByte s.freeCtr (0x100000 + 0x80000 * i.val + 2)).toNat % 2

/-- A byte of the column buffers (19 R491): of an entry of the resident weights in the active copy its offsets and its HB4 scale, and zero
in bits [63:52] of every entry; all else is free, also the raw form of the values, which the spec does not give (log 45). -/
def State.snapColumn (s : State) (i : SiteId) (k : Nat) : Byte :=
  let e := k / 8 * 8
  let any := leAt ((List.range 8).map (fun j => Config.scanByte s.freeCtr (0x140000 + 0x80000 * i.val + e + j))) 0 8
  let entries : List WEntry := match s.sites[i].resident with
    | some r => (r.groups.map (fun g => nth g.2 (k % 0x20000 / 0x1000) [])).flatten
    | none => []
  let v := if k / 0x20000 = s.snapCopy i then (match entries[k % 0x1000 / 8]? with
      | some w =>
        let v := setFld (setFld any 33 32 w.o0) 35 34 w.o1
        match w.stored with
        | some sc => setFld v 51 36 (FPar.bf16.encode (FPar.bf16.round .rne sc).1)
        | none => v
      | none => any) else any
  nth (toBytes 8 (setFld v 63 52 0)) (k % 8) 0

/-- A byte of a site's section. -/
def State.snapSite (s : State) (i : SiteId) (k : Nat) : Option Byte :=
  let x := s.sites[i]
  let base := Reg.addr .CORE_SEQ_CTRL i.val 0
  let halted := s.field F.CORE_SEQ_STATUS.STATE i 0 == 0
  if k < 0x1000 then
    if k = 0 then some (BitVec.ofNat 8 i.val)
    else if k = 1 then some (BitVec.ofNat 8 ((s.coreOf i).getD 0xFF))
    else if k = 2 then some (BitVec.ofNat 8 (b2n (s.fenced i) + 2 * b2n halted + 4 * s.snapCopy i))
    else if k = 3 then some (BitVec.ofNat 8 ((Config.scanByte s.freeCtr (0x100000 + 0x80000 * i.val + 3)).toNat % 9))
    else if 4 ≤ k ∧ k < 8 then at? (toBytes 4 (fld (nth s.obs.power i 0) 31 16)) (k - 4)
    else if 8 ≤ k ∧ k < 16 then at? (toBytes 8 (s.stopStamp i)) (k - 8)
    else if 16 ≤ k ∧ k < 24 then at? (toBytes 8 (s.reg .CORE_SEQ_PC i 0)) (k - 16)
    else if 24 ≤ k ∧ k < 28 then at? (toBytes 4 (s.field F.CORE_SEQ_STEP.STEP i 0)) (k - 24)
    else if 28 ≤ k ∧ k < 32 then at? (toBytes 4 (s.field F.CORE_SEQ_STEP.EPOCH i 0)) (k - 28)
    else if s.fenced i then some 0
    else none
  else if s.fenced i then some 0
  else if k < 0x3000 then s.regByte (base + (k - 0x1000))
  else if k < 0x5000 then (if (k - 0x3000) / 16 < x.buffer.length then none else some 0)
  else if 0x5000 ≤ k ∧ k < 0x5000 + 96 * 320 then
    let e := (k - 0x5000) / 320
    let y := (k - 0x5000) % 320
    if 88 ≤ e then some 0
    else match (snapQueues x).find? (fun q => decide (q.1 ≤ e) && decide (e < q.1 + q.2.1)) with
      | some q => match q.2.2[e - q.1]? with
        | some f => snapEntry f y
        | none => if y = 16 then some 0 else none
      | none => some 0
  else if 0x10000 ≤ k ∧ k < 0x18000 then
    let a : Fin 4 := ⟨(k - 0x10000) / 8192 % 4, Nat.mod_lt _ (by decide)⟩
    let y := (k - 0x10000) % 8192
    let cell (l : List (Option (BitVec 32))) : Option Byte := match l[y % 4096 / 4]? with
      | some (some v) => at? (toBytes 4 v.toNat) (y % 4)
      | _ => none
    if y < 4096 then (match x.arrays[a].act with
      | some t => cell (t.cells.map some)
      | none => none)
    else cell x.arrays[a].xfer.cells
  else if 0x40000 ≤ k then some (s.snapColumn i (k - 0x40000))
  else none

/-- A byte of a cluster's section. -/
def State.snapCluster (s : State) (c : ClusterId) (k : Nat) : Option Byte :=
  if k = 0 then some (BitVec.ofNat 8 c.val)
  else if 8 ≤ k ∧ k < 16 then at? (toBytes 8 (s.reg .TRC_HUSH_TIME 0 0)) (k - 8)
  else if 0x1000 ≤ k ∧ k < 0x11000 then s.regByte (0x400000 + 0x10000 * c.val + (k - 0x1000))
  else if 0x20000 ≤ k ∧ k < 0xA0000 then
    let e := (k - 0x20000) / 64
    let y := (k - 0x20000) % 64
    match s.clusters[c].ant.find? (fun q => antSet q.ctx q.granule == e / 8 && q.way == e % 8) with
    | some q =>
      let r : AntRec := { q.record with seq := q.age }
      at? (r.value ++ r.header) y
    | none => if y = 39 then (Config.scanByte s.freeCtr (0x4900000 + 0x100000 * c.val + k)).toNat % 128 |> BitVec.ofNat 8 |> some else none
  else if 0xA0000 ≤ k ∧ k < 0xA0010 then (match s.mowerNext c with
    | some (_, f) => if f.phase = .queued then none else at? (toBytes 16 f.word.toNat) (k - 0xA0000)
    | none => none)
  else none

/-- A byte of a Rake unit's section. -/
def State.snapRake (s : State) (k : Nat) : Option Byte :=
  if k < 0x58 then s.regByte (0x140000 + k)
  else if k < 0x98 then (match s.rake.run with
    | some r => at? (r.cmd.flatMap (fun w => toBytes 8 w.toNat)) (k - 0x58)
    | none => none)
  -- a command in execution has yet to process its elements: it does so when it completes
  else if k < 0xA0 then s.rake.run.map (fun _ => 0)
  else none

/-- A byte of the collective engine's section. -/
def State.snapColl (s : State) (k : Nat) : Option Byte :=
  if k < 0x38 then s.regByte (0x200000 + k)
  else if k < 0x58 then s.regByte (0x360000 + (k - 0x38))
  else if 0x10000 ≤ k ∧ k < 0x24000 then
    -- a merge slot that holds one packet shows it; how it holds more the spec does not say
    match (s.fabric.holds[(k - 0x10000) / 320]?).map (·.parts) with
    | some [(_, p)] =>
      let y := (k - 0x10000) % 320
      if y < 32 then at? ([p.w0, p.w1, p.w2, p.w3].flatMap (fun w => toBytes 8 w.toNat)) y
      else at? (p.grans.flatMap (fun g => toBytes 36 g.toNat)) (y - 32)
    | _ => none
  else if 0x30400 ≤ k ∧ k < 0x30600 then
    match ((s.coll.runs.filter (fun r => !r.bg && !r.ended))[(k - 0x30400) / 64]?) with
    | some r => at? (r.record.flatMap (fun w => toBytes 8 w.toNat)) ((k - 0x30400) % 64)
    | none => none
  else none

/-- The regions that the scan writes before the header, in order: offset and size. -/
def snapRegions : List (Nat × Nat) :=
  (List.range 144).map (fun i => (0x100000 + 0x80000 * i, 0x80000)) ++ (List.range 18).map (fun c => (0x4900000 + 0x100000 * c, 0x100000)) ++
    (List.range 32).map (fun u => (0x5B00000 + 0x1000 * u, 0x1000)) ++ [(0x5C00000, 0x40000)]

/-- A byte of the snapshot, at an offset of its regions. -/
def State.snapByte (s : State) (off : Nat) : Byte :=
  let known : Option Byte :=
    if off < 0x4900000 then (if h : (off - 0x100000) / 0x80000 < 144 then s.snapSite ⟨(off - 0x100000) / 0x80000, h⟩ ((off - 0x100000) % 0x80000) else none)
    else if off < 0x5B00000 then
      (if h : (off - 0x4900000) / 0x100000 < 18 then s.snapCluster ⟨(off - 0x4900000) / 0x100000, h⟩ ((off - 0x4900000) % 0x100000) else none)
    else if off < 0x5C00000 then s.snapRake ((off - 0x5B00000) % 0x1000)
    else s.snapColl (off - 0x5C00000)
  known.getD (Config.scanByte s.freeCtr off)

/-- The CRC-32C of the sections, over the bytes that the scan writes. -/
def State.snapCrc (s : State) : Nat := crc32c (snapRegions.flatMap (fun r => (List.range r.2).map (fun k => s.snapByte (r.1 + k))))

/-- The header's 4,096 bytes (19 R490). -/
def State.snapHeader (s : State) : List Byte :=
  let h := toBytes 4 0x48535548 ++ toBytes 2 1 ++ toBytes 2 s.ownId ++ toBytes 1 (s.field F.TRC_HUSH_STATUS.CAUSE 0 0) ++ zeroBytes 7 ++
    toBytes 8 (s.reg .TRC_HUSH_TIME 0 0) ++ toBytes 8 s.now ++
    (List.range 128).map (fun l => BitVec.ofNat 8 (s.field F.TOP_CORE_MAP.SITE 0 l)) ++
    (toBytes 18 (s.reg .TOP_FENCED 0 0 + s.reg .TOP_FENCED 0 1 <<< 64 + s.reg .TOP_FENCED 0 2 <<< 128)) ++ zeroBytes 6 ++
    toBytes 8 (s.reg .RST_CAUSE 0 0) ++ toBytes 4 (s.field F.FAB_LAYOUT.EPOCH 0 0) ++ zeroBytes 60 ++ toBytes 4 s.snapCrc
  slice h 0 4096

/-- A granule of the snapshot written to LPDDR6; a failed channel drops it (10 R296). -/
def snapGran (off : Nat) (bs : List Byte) : Prog Unit :=
  .get (fun s => when (!s.flag F.MEM_CH_STATUS.FAILED (channelOf (snapBase + off)) 0) ((wake (snapBase + off)).bind (fun _ => putGran (snapBase + off) (.valid bs))))

/-- A granule of the snapshot as it stands, written at an address with its check bytes (10 R284); that of another device is answered. -/
def shipGran (addr : Nat) (g : Gran) : Prog (List (Nat × Gran)) :=
  letI := Prog.monad
  do
  let s ← ask id
  match s.target addr with
  | .remote a => pure [(a, g)]
  | .lpddr _ | .scratch _ _ | .acc _ _ _ | .passes _ _ | .blank _ | .unmapped _ => do
    placeGran (fld addr 40 0) g
    pure []
  | _ => do
    let d ← consumeCopy { scanReq with pkt := some { struct := 5, address := addr } } addr g
    writePatches scanReq [⟨addr, d.1.map (fun b => (0xFF, b.toNat)), d.2⟩]

/-- The snapshot shipped, region by region in offset order, as TC3 STOREs (19 R492). -/
def shipProg : Prog Unit :=
  letI := Prog.monad
  do
  let s ← ask id
  let base := 32 * s.field F.TRC_HUSH_SHIP.ADDR 0 0
  each ((0, 0x1000) :: snapRegions) (fun r => each (List.range (r.2 / 256)) (fun k => do
    let off := r.1 + 256 * k
    let rs ← collect (List.range 8) (fun g => do
      let x ← scanRead scanReq (snapBase + off + 32 * g)
      shipGran (base + off + 32 * g) x)
    sendStores .hush 3 0xFF 0 {} rs.flatten))

/-- The scan ends: the snapshot stands in LPDDR6, its header written last. -/
def scanDone : Prog Unit :=
  letI := Prog.monad
  do
  let s ← ask id
  when (s.field F.TRC_HUSH_STATUS.STATE 0 0 == 2) do
    each snapRegions (fun r => each (List.range (r.2 / 32)) (fun k =>
      snapGran (r.1 + 32 * k) ((List.range 32).map (fun b => s.snapByte (r.1 + 32 * k + b)))))
    each (List.range 128) (fun k => snapGran (32 * k) (slice s.snapHeader (32 * k) 32))
    act .free
    setF F.TRC_HUSH_STATUS.SCANNED 0 0 1447
    setF F.TRC_HUSH_STATUS.STATE 0 0 3
    raise 4
    when (s.field F.TRC_HUSH_SHIP.ADDR 0 0 != 0) do
      setF F.TRC_HUSH_STATUS.STATE 0 0 4
      shipProg
def execHushScanDone (s : State) : Host.Outcome State Fault Refusal := Prog.next scanDone s

/-- The last COMPLETE of a shipped snapshot has arrived. -/
def shipDone : Prog Unit :=
  .get (fun s => when (s.field F.TRC_HUSH_STATUS.STATE 0 0 == 4 && !s.fabric.reqs.any (fun q => q.origin == .hush) &&
      !s.fabric.held.any (fun h => h.req.origin == .hush)) (setF F.TRC_HUSH_STATUS.STATE 0 0 5))
def execHushShipDone (s : State) : Host.Outcome State Fault Refusal := Prog.next shipDone s

end Sys2Proof.Machine
end

