-- ==== Sys2Proof/Machine/Sequencer.lean ====
section
/-!
DEFINITION. The sequencer's own instructions, ILLEGAL_OP, HIVE.TAKE and its reply, the control of a core
(spec/05_core_programming.md R129 to R159, R163).
-/
namespace Sys2Proof.Machine
open Prog hiding pure bind get op run monad

/-- NOP (05 R139): issues and does nothing. -/
def nopProg (i : SiteId) (w : IWord) : Prog Unit := sequenced i w (fun _ => skip)
def execNop (i : SiteId) (w : IWord) (s : State) : Host.Outcome State Fault Refusal := Prog.next (nopProg i w) s

/-- The unit that a consumer unit code (18 R459) of a core's instruction stands for. -/
def unitOfCode (code : Nat) : CoreUnit :=
  if code = 5 then .dmaWr else if code = 6 then .lacewing else if code = 7 then .mower else .arrays

/-- Whether a FENCE that names units covers writes made under a consumer unit code; the DMA code stands for both queues. -/
def covers (us : List CoreUnit) (code : Nat) : Bool := us.contains (unitOfCode code)

/-- Whether writes of the named units of a core beyond it are not yet visible at their homes (05 R132, R139, 11 R319, 14 R392). -/
def State.unseenWrites (s : State) (i : SiteId) (us : List CoreUnit) : Bool :=
  let own (r : FReq) : Bool := r.op == 2 && (match r.origin with
    | .core j u _ => j == i && us.contains u
    | .coll _ => us.contains .coll && r.stream == s.collStream i
    | _ => false)
  s.fabric.reqs.any own || s.fabric.held.any (fun h => own h.req) ||
    (s.host.waiting ++ s.host.reads).any (fun r => match r.origin with | .flush j c => j == i && covers us c | _ => false) ||
    s.sites[i].unseen.any (fun w => covers us w.1)

/-- Zero-length reads to the host windows that the named units of a core have written (14 R392). -/
def flushWindows (i : SiteId) (us : List CoreUnit) : Prog Unit :=
  letI := Prog.monad
  do
  let s ← ask id
  each (s.sites[i].unseen.filter (fun w => covers us w.1)) (fun w => hostReadReq (.flush i w.1) (s.reg .HST_WIN_BASE 0 w.2) 0 0)
  modSite i (fun x => { x with unseen := x.unseen.filter (fun w => !covers us w.1) })

/-- The units that a FENCE names (05 R139). -/
def fenceUnits (w : IWord) : List CoreUnit :=
  (if wb w 119 then [.arrays] else []) ++ (if wb w 118 then [.dmaRd, .dmaWr] else []) ++ (if wb w 117 then [.lacewing] else []) ++
    (if wb w 116 then [.mower] else []) ++ (if wb w 115 then [.coll] else [])

/-- The wait of a FENCE on units and visibility, if it has one; with COLL among the units it is one of R369. -/
def fenceBlocked (i : SiteId) (us : List CoreUnit) (vis : Bool) (s : State) : Option (Option WaitOn) :=
  let x := s.sites[i]
  if us.any (fun u => !(x.inFlight u).isEmpty) || (vis && s.unseenWrites i us) then
    some (if us.contains .coll then some (s.collWait i) else plainWait)
  else none

/-- FENCE (05 R139): an open batch closes; with VIS the host windows written are flushed once the units are done. -/
def fenceProg (i : SiteId) (w : IWord) : Prog Unit :=
  letI := Prog.monad
  let us := fenceUnits w
  attempt i w
    (do
      closeBatch i false
      let s ← ask id
      when (wb w 114 && us.all (fun u => (s.sites[i].inFlight u).isEmpty)) (flushWindows i us))
    (fenceBlocked i us (wb w 114)) (fun _ => skip)
def execFence (i : SiteId) (w : IWord) (s : State) : Host.Outcome State Fault Refusal := Prog.next (fenceProg i w) s

/-- Every unit. -/
def allUnits : List CoreUnit := [.arrays, .dmaRd, .dmaWr, .lacewing, .mower, .coll]

/-- HALT (05 R139): a FENCE over every unit with VIS, then the halt with cause HALT. -/
def haltProg (i : SiteId) (w : IWord) : Prog Unit :=
  letI := Prog.monad
  attempt i w
    (do
      closeBatch i false
      let s ← ask id
      when (allUnits.all (fun u => (s.sites[i].inFlight u).isEmpty)) (flushWindows i allUnits))
    (fenceBlocked i allUnits true) (fun _ => haltCore i 1 (wLayer w) (wOper w))
def execHalt (i : SiteId) (w : IWord) (s : State) : Host.Outcome State Fault Refusal := Prog.next (haltProg i w) s

/-- Whether the Rake's command in execution will signal a counter of a core (09 R259; 12 R369 KIND 5). -/
def State.rakeSignals (s : State) (i : SiteId) (cc : Nat) : Bool :=
  match s.rake.run with
  | none => false
  | some r =>
    let w := (nth r.cmd 0 0).toNat
    w.testBit 47 && s.siteOf (fld w 46 40) == some i && fld w 39 36 == cc

/-- WAIT (05 R139): CORE_CC[n] at or above VALUE; CONSUME subtracts VALUE. -/
def waitProg (i : SiteId) (w : IWord) : Prog Unit :=
  let n := wf w 67 64
  let v := wf w 63 32
  attempt i w (closeBatch i false)
    (fun s => if v ≤ s.field F.CORE_CC.VALUE i n then none
      else some (some (if s.rakeSignals i n then ⟨5, true, s.ownId, 0⟩ else ⟨3, false, 0, 0⟩)))
    (fun _ => when (wb w 119) (.get (fun s => setF F.CORE_CC.VALUE i n (s.field F.CORE_CC.VALUE i n - v))))
def execWait (i : SiteId) (w : IWord) (s : State) : Host.Outcome State Fault Refusal := Prog.next (waitProg i w) s

/-- MARK (05 R139, 19 R477, R483, R487): a marker event; SWAP swaps the core's counter banks, the new ones taking the tags of this issue;
VALUE may trigger Hush. -/
def markProg (i : SiteId) (w : IWord) : Prog Unit :=
  letI := Prog.monad
  sequenced i w (fun pc => do
    let s ← ask id
    traceEvent 2 0 i.val 0 (wLayer w) (wOper w) (place 63 32 (s.field F.CORE_SEQ_STEP.STEP i 0) + wf w 63 32) pc
    when (wb w 119) ((swapCore i 0).bind (fun _ => tagSet i 0 w))
    when (s.flag F.TRC_HUSH_CTRL.ON_MARK 0 0 && s.field F.TRC_HUSH_MARK.VALUE 0 0 == wf w 63 32) (hushTrigger 4))
def execMark (i : SiteId) (w : IWord) (s : State) : Host.Outcome State Fault Refusal := Prog.next (markProg i w) s

/-- EPOCH (05 R139, 04 R108): waits for array and Mower work, sets the mask epoch, invalidates the resident weights. -/
def epochProg (i : SiteId) (w : IWord) : Prog Unit :=
  letI := Prog.monad
  attempt i w skip (fenceBlocked i [.arrays, .mower] false) (fun _ => do
    setF F.CORE_SEQ_STEP.EPOCH i 0 (wf w 63 32)
    modSite i (fun x => { x with resident := none }))
def execEpoch (i : SiteId) (w : IWord) (s : State) : Host.Outcome State Fault Refusal := Prog.next (epochProg i w) s

/-- STEP (05 R139): the current step set, or VALUE added modulo 2^32. -/
def stepProg (i : SiteId) (w : IWord) : Prog Unit :=
  sequenced i w (fun _ => .get (fun s =>
    setF F.CORE_SEQ_STEP.STEP i 0 ((if wb w 119 then s.field F.CORE_SEQ_STEP.STEP i 0 else 0) + wf w 63 32)))
def execStep (i : SiteId) (w : IWord) (s : State) : Host.Outcome State Fault Refusal := Prog.next (stepProg i w) s

/-- A slot written: eight words; weights loaded through it are no longer resident (04 R108). -/
def writeSlot (i : SiteId) (slot : Nat) (ws : List Nat) : Prog Unit :=
  letI := Prog.monad
  do
  each (List.range 8) (fun k => setR .CORE_DESC_SLOT i (8 * slot + k) (nth ws k 0))
  modSite i (fun x => match x.resident with
    | some r => if r.slot = slot then { x with resident := none } else x
    | none => x)

/-- Whether the table entries that a DSET reads are held at the seam (01 R17). -/
def State.tableCut (s : State) (i : SiteId) (w : IWord) : Bool :=
  (List.range (2 * (wf w 77 72 + 1))).any (fun k =>
    let a := (s.reg .CORE_DESC_TABLE i 0 + 64 * wf w 55 32 + 32 * k) % 2 ^ 64
    localAddr a && s.pathCut (siteStop i) (fld a 40 0))

/-- DSET (05 R139, R144): descriptors from the table into slots modulo 64. An entry that lies outside the local space or whose
granule fails loads FORMAT 0xFF, its other bits free (log 1), and records a DESC error. -/
def dsetProg (i : SiteId) (w : IWord) : Prog Unit :=
  letI := Prog.monad
  attempt i w skip (fun s => if s.tableCut i w then some plainWait else none) (fun pc => do
    let s ← ask id
    let rq : Req := { cls := .seq, unit := 1, site := some i, layer := wLayer w, oper := wOper w }
    each (List.range (wf w 77 72 + 1)) (fun k => do
      let slot := (wSA w + k) % 64
      let a := (s.reg .CORE_DESC_TABLE i 0 + 64 * (wf w 55 32 + k)) % 2 ^ 64
      let here := localAddr a
      let m ← if here then fetch rq (span a 64) else pure []
      let ws := (List.range 8).map (fun j => m.bytes (a + 8 * j) 8)
      if here && ws.all Option.isSome then writeSlot i slot (ws.map (fun v => v.getD 0))
      else do
        let junk ← collect (List.range 8) (fun _ => fresh 64)
        writeSlot i slot (junk.set 1 (setFld (nth junk 1 0) 7 0 0xFF))
        coreError i 5 w slot pc))
def execDset (i : SiteId) (w : IWord) (s : State) : Host.Outcome State Fault Refusal := Prog.next (dsetProg i w) s

/-- Where the run-time extent of a dimension stands in the descriptor words: word, high bit, low bit (05 R141). -/
def extPlace (d : Nat) : Nat × Nat × Nat :=
  if d = 0 then (2, 32, 8) else if d = 1 then (3, 24, 0) else (d + 3, 15, 0)

/-- DADJ (05 R139, R140): BASE plus u32(Tn) × s32(V), or a run-time extent := Tn. -/
def dadjProg (i : SiteId) (w : IWord) : Prog Unit :=
  letI := Prog.monad
  sequenced i w (fun pc => do
    let s ← ask id
    let slot := wSA w
    let ws := (s.slotWords i slot).map (·.toNat)
    let t := s.tileReg i (wf w 66 64)
    let mode := wf w 113 112
    let dim := wf w 34 32
    if mode = 0 then
      writeSlot i slot (ws.set 0 (wrap 64 (((nth ws 0 0 : Nat) : Int) + (t : Int) * sext 32 (wf w 63 32))))
    else if mode = 1 && decide (dim < min 5 (fld (nth ws 2 0) 2 0)) then
      let (k, hi, lo) := extPlace dim
      writeSlot i slot (ws.set k (setFld (nth ws k 0) hi lo t))
    else coreError i 3 w (if mode = 1 then slot else 0) pc)
def execDadj (i : SiteId) (w : IWord) (s : State) : Host.Outcome State Fault Refusal := Prog.next (dadjProg i w) s

/-- TSET (05 R139): Tn := V. -/
def tsetProg (i : SiteId) (w : IWord) : Prog Unit :=
  sequenced i w (fun _ => setTile i (wf w 66 64) (wf w 63 32))
def execTset (i : SiteId) (w : IWord) (s : State) : Host.Outcome State Fault Refusal := Prog.next (tsetProg i w) s

/-- TADD (05 R139): Tn := Tn + V modulo 2^32. -/
def taddProg (i : SiteId) (w : IWord) : Prog Unit :=
  sequenced i w (fun _ => .get (fun s => setTile i (wf w 66 64) (s.tileReg i (wf w 66 64) + wf w 63 32)))
def execTadd (i : SiteId) (w : IWord) (s : State) : Host.Outcome State Fault Refusal := Prog.next (taddProg i w) s

/-- JMP's condition on a tile register (05 R139). -/
def jmpTaken (cond t : Nat) : Bool :=
  match cond with
  | 0 => true
  | 1 => t == 0xFFFFFFFF
  | 2 => t != 0
  | _ => t == 0

/-- JMP (05 R130, R139): a target outside the instruction buffer discards the buffer. The next instruction at this one's address + 16 × OFFSET where the condition holds. -/
def jmpProg (i : SiteId) (w : IWord) : Prog Unit :=
  sequenced i w (fun pc => .get (fun s =>
    let to_ := wrap 64 ((pc : Int) + 16 * sext 32 (wf w 63 32))
    when (jmpTaken (wf w 113 112) (s.tileReg i (wf w 66 64)))
      ((modSite i (fun x => if x.buffer.contains to_ then x else { x with buffer := [] })).bind (fun _ => setR .CORE_SEQ_PC i 0 to_))))
def execJmp (i : SiteId) (w : IWord) (s : State) : Host.Outcome State Fault Refusal := Prog.next (jmpProg i w) s

/-- OWN (05 R139, R159): owner and core of every bank of the mask. -/
def ownProg (i : SiteId) (w : IWord) : Prog Unit :=
  sequenced i w (fun _ => each (onesOf 32 (wf w 63 32)) (fun b =>
    setR .CORE_BANK_OWNER i b (place 10 4 (wf w 70 64) + place 2 0 (wf w 74 72))))
def execOwn (i : SiteId) (w : IWord) (s : State) : Host.Outcome State Fault Refusal := Prog.next (ownProg i w) s

/-- HIVE.TAKE (05 R134, R152): a take or set leaves for its counter; it does not wait for the reply. -/
def hiveTakeProg (i : SiteId) (w : IWord) : Prog Unit :=
  sequenced i w (fun _ => modSite i (fun x =>
    let t : Take := { tn := wf w 66 64, hive := wf w 75 68, set := wb w 119,
                      arg := if wb w 119 then wf w 63 32 else wf w 39 32, reply := none }
    { x with takes := x.takes ++ [t] }))
def execHiveTake (i : SiteId) (w : IWord) (s : State) : Host.Outcome State Fault Refusal := Prog.next (hiveTakeProg i w) s

/-- What a Hive counter does with a take or a set (05 R152): its new VALUE and LIMIT, and the reply. -/
def hiveServe (value limit : Nat) (set : Bool) (arg : Nat) : Nat × Nat × Nat :=
  if set then (0, arg, value)
  else if limit ≤ value then (value, limit, 0xFFFFFFFF)
  else ((value + arg) % 2 ^ 32, limit, value)

/-- The stop of the counter that a take goes to. -/
def Take.stop (t : Take) : Nat := if h : t.hive < 256 then clusterStop (hiveHome ⟨t.hive, h⟩).1.val else 0

/-- Whether an earlier take of the site is still on the same plane to the same stop (01 R22). -/
def Site.takeBehind (x : Site) (t : Take) : Bool :=
  (x.takes.takeWhile (fun u => u.tn != t.tn)).any (fun u =>
    u.reply.isNone && u.stop == t.stop && hivePlane u.hive == hivePlane t.hive)

/-- A take or set reaches its counter and is served in one step (05 R152, R153); Hive counters are held by Hush (19 R488). A take that a
lost seam channel holds, or that an earlier one precedes, has not reached it (01 R17, R22). -/
def nocHiveTakeProg (i : SiteId) (tn : Fin 8) : Prog Unit :=
  letI := Prog.monad
  do
  let s ← ask id
  match s.sites[i].takes.find? (fun t => t.tn == tn.val && t.reply.isNone) with
  | none => skip
  | some t =>
    if s.hushed || s.sites[i].takeBehind t || s.seamCut (siteStop i) t.stop (hivePlane t.hive) then skip
    else if h : t.hive < 256 then do
      let (c, k) := hiveHome ⟨t.hive, h⟩
      let (v, l, r) := hiveServe (s.field F.HIVE_COUNTER.VALUE c k) (s.field F.HIVE_COUNTER.LIMIT c k) t.set t.arg
      setR .HIVE_COUNTER c k (place 63 32 l + place 31 0 v)
      emit (.hiveReply i tn r)
      modSite i (fun x => { x with takes := x.takes.map (fun u => if u.tn == tn.val then { u with reply := some r } else u) })
    else skip
def execNocHiveTake (i : SiteId) (tn : Fin 8) (s : State) : Host.Outcome State Fault Refusal :=
  Prog.next (nocHiveTakeProg i tn) s

/-- Whether the reply of an earlier take of the site is still on the same plane from the same stop (01 R22): takes to one stop on one
plane are served in their order, and so their replies leave it. -/
def Site.replyBehind (x : Site) (t : Take) : Bool :=
  (x.takes.takeWhile (fun u => u.tn != t.tn)).any (fun u => u.stop == t.stop && hivePlane u.hive == hivePlane t.hive)

/-- The reply of a take arrives and writes its tile register (05 R134); the stop of a fenced site discards it, and at a core whose clock
Hush has stopped it waits (01 R41). -/
def hiveReplyProg (i : SiteId) (tn : Fin 8) : Prog Unit :=
  letI := Prog.monad
  do
  let s ← ask id
  match s.sites[i].takes.find? (fun t => t.tn == tn.val && t.reply.isSome) with
  | none => skip
  | some t =>
    when (!s.seamCut t.stop (siteStop i) (hivePlane t.hive) && !s.sites[i].replyBehind t && (!s.hushed || s.deaf i)) do
      if s.deaf i then nocDrop F.TOP_NOC_ERROR.DROP_FENCED (siteStop i) else setTile i tn.val (t.reply.getD 0)
      modSite i (fun x => { x with takes := x.takes.filter (fun u => u.tn != tn.val) })
def execHiveTakeReply (i : SiteId) (tn : Fin 8) (s : State) : Host.Outcome State Fault Refusal :=
  Prog.next (hiveReplyProg i tn) s

/-- A reserved opcode is not issued: an ILLEGAL_OP error and a halt (05 R137). -/
def illegalProg (i : SiteId) (w : IWord) : Prog Unit :=
  letI := Prog.monad
  do
  let s ← ask id
  when (s.canIssue i) do
    let pc := s.reg .CORE_SEQ_PC i 0
    let failed ← ready i pc
    if failed then fetchFault i pc
    else do
      coreError i 2 w 0 pc
      haltCore i 4 (wLayer w) (wOper w)
def execIllegalOp (i : SiteId) (w : IWord) (s : State) : Host.Outcome State Fault Refusal := Prog.next (illegalProg i w) s

/-- CORE_SEQ_CTRL.START, HALT_REQ and ABORT (05 R163). -/
def execStart (i : SiteId) (s : State) : Host.Outcome State Fault Refusal := Prog.next (gated (Reg.addr .CORE_SEQ_CTRL i.val 0) (startCore i)) s
def execHaltReq (i : SiteId) (s : State) : Host.Outcome State Fault Refusal := Prog.next (gated (Reg.addr .CORE_SEQ_CTRL i.val 0) (haltRequest i)) s
def execAbort (i : SiteId) (s : State) : Host.Outcome State Fault Refusal := Prog.next (gated (Reg.addr .CORE_SEQ_CTRL i.val 0) (abortCore i)) s

end Sys2Proof.Machine
end

