-- ==== Sys2Proof/Machine/RegAccess.lean ====
section
/-!
DEFINITION. Writes of registers, with what each does (spec/00_scope.md R9 to R12 and the register tables of every file), and the
commands that carry them: REGISTER_WRITE, NOC_REGISTER_ACCESS and the ring command REG_WRITE.
-/
namespace Sys2Proof.Machine
open Prog hiding pure bind get op run monad

/-- What a write leaves in a register (00 R10): its RW fields as written, its W1C fields cleared by ones, all else unchanged; `m` says
which bits the access reaches. -/
def writtenWord (r : Reg) (old v m : Nat) : Nat :=
  let rw := accMask r .rw &&& m
  let keep := old - (old &&& rw) + (v &&& rw)
  keep - (keep &&& (accMask r .w1c &&& v &&& m))

/-- The plain effect of a write. -/
def plainWrite (r : Reg) (i j v m : Nat) : Prog Unit := .get (fun s => setR r i j (writtenWord r (s.reg r i j) v m))

/-- A plain write under a condition on the state. -/
def writeIf (c : State → Bool) (r : Reg) (i j v m : Nat) : Prog Unit := .get (fun s => when (c s) (plainWrite r i j v m))

/-- Command bits written at a site (05 R163): ABORT before HALT_REQ, either before START. -/
def coreCtrl (i : SiteId) (v : Nat) : Prog Unit :=
  if v.testBit 2 then abortCore i else if v.testBit 1 then haltRequest i else if v.testBit 0 then startCore i else skip

/-- RAKE_CTRL: ABORT also drains; RESUME ends a drain that is not written with it (09 R275). -/
def rakeCtrl (v : Nat) : Prog Unit :=
  if v.testBit 1 then rakeAbort else if v.testBit 0 then rakeDrain else if v.testBit 2 then rakeResume else skip

/-- FAB_LINK_CTRL (11 R335). -/
def linkCtrl (l : LinkId) (v : Nat) : Prog Unit :=
  letI := Prog.monad
  do
  let s ← ask id
  let on := s.flag F.FAB_LINK_CTRL.ENABLE l.val 0
  when (v.testBit 0 && !on) (enableLink l)
  when (!v.testBit 0 && on) (disableLink l)
  when (v.testBit 1) (writeRetrain l)

/-- RST_CMD (14 R395). -/
def resetCmd (v : Nat) (h : Half) : Prog Unit :=
  if badCmd v h then hostError F.HST_ERROR.BAD_KEY
  else requestReset (if fld v 1 0 = 2 then 2 + fld v 14 8 else fld v 1 0)

/-- HST_RING_CTRL (14 R387, R398): ABORT before DRAIN; ENABLE written 1 resumes fetching, written 0 ends it as DRAIN does. -/
def ringCtrl (r : RingId) (v m : Nat) : Prog Unit :=
  letI := Prog.monad
  do
  let s ← ask id
  let on := s.flag F.HST_RING_CTRL.ENABLE r 0
  setR .HST_RING_CTRL r 0 (writtenWord .HST_RING_CTRL (s.reg .HST_RING_CTRL r 0) v (m - (m &&& 1)))
  when (m.testBit 0) do
    if v.testBit 2 then abortRing r
    else if v.testBit 1 then drainRing r
    else if v.testBit 0 && !on then ringOn r
    else if !v.testBit 0 && on then do
      drainRing r
      setF F.HST_RING_CTRL.ENABLE r 0 0
    else skip

/-- MSIX_CTRL of a vector: clearing Mask sends a held vector (14 R379, R389). -/
def msixCtrl (k v m : Nat) : Prog Unit := (plainWrite .MSIX_CTRL 0 k v m).bind (fun _ => .get (fun s => when (!s.flag F.MSIX_CTRL.MASK 0 k) (sendHeld k)))

/-- SEC_FW_CTRL (17 R456): FLASH before LOAD. -/
def fwCtrl (v : Nat) : Prog Unit :=
  if fld v 63 48 != 0x7E51 then skip
  else if v.testBit 1 then flashCmd (fld v 39 16) else if v.testBit 0 then loadCmd (fld v 39 16) else skip

/-- TRC_HUSH_CTRL (19 R496), with the HUSH right. -/
def hushCtrl (v m : Nat) : Prog Unit :=
  letI := Prog.monad
  needs 0 (do
    plainWrite .TRC_HUSH_CTRL 0 0 v m
    when ((v &&& m).testBit 5) resumeProg
    when ((v &&& m).testBit 4) triggerProg)

/-- TRC_RING_CTRL: LOG2 and MODE only while ENABLE is 0 (19 R495). -/
def trcCtrl (v m : Nat) : Prog Unit :=
  .get (fun s =>
    let held := if s.flag F.TRC_RING_CTRL.ENABLE 0 0 then 0x5F else 0
    plainWrite .TRC_RING_CTRL 0 0 v (m - (m &&& held)))

/-- A word of a descriptor slot written (05 R174, 04 R108). -/
def slotWord (i : SiteId) (j v m : Nat) : Prog Unit :=
  letI := Prog.monad
  do
  let s ← ask id
  let slot := j / 8
  writeSlot i slot ((List.range 8).map (fun k =>
    if k = j % 8 then writtenWord .CORE_DESC_SLOT (s.reg .CORE_DESC_SLOT i j) v m else s.reg .CORE_DESC_SLOT i (8 * slot + k)))

/-- A core-block register written (05 R163 to R174). -/
def writeCore (i : SiteId) (r : Reg) (j v m : Nat) : Prog Unit :=
  letI := Prog.monad
  let halted (s : State) : Bool := s.field F.CORE_SEQ_STATUS.STATE i 0 == 0
  .get (fun s => when (!s.fenced i) (match r with
    | .CORE_SEQ_CTRL => coreCtrl i (v &&& m)
    | .CORE_SEQ_PC | .CORE_SEQ_STEP | .CORE_TILE_REGS | .CORE_CC => writeIf halted r i j v m
    | .CORE_DESC_SLOT => when (halted s) (slotWord i j v m)
    | .CORE_ERROR_RECORD => do
      plainWrite r i j v m
      when ((v &&& m).testBit 63) (setF F.CORE_ERROR_WHERE.OVERFLOW i 0 0)
    | _ => plainWrite r i j v m))

/-- What a write of a register does, by register. `v` is the whole word with the written half in place, `m` the bits reached. -/
def writeWord (r : Reg) (i j v : Nat) (h : Half) : Prog Unit :=
  letI := Prog.monad
  let m := halfMask h
  let lo := h != .high
  let vm := v &&& m
  if hs : r.place.insts = 144 ∧ i < 144 then writeCore ⟨i, hs.2⟩ r j v m
  else match r with
  | .TOP_FENCE_CMD => fenceCmd v h
  | .TOP_FAULT_PTRS => when lo (faultHead (fld v 7 0))
  | .ANT_SPILL_BASE | .ANT_SPILL_LIMIT | .ANT_SORT_BASE => writeIf (fun s => s.field F.ANT_STATUS.FILL i 0 == 0) r i j v m
  | .RAKE_RING_BASE => writeIf (fun s => !s.flag F.RAKE_STATUS.BUSY 0 0) r i j v m
  | .RAKE_RING_SIZE => 
    .get (fun s => when (!s.flag F.RAKE_STATUS.BUSY 0 0) ((plainWrite r i j v m).bind (fun _ => wrapHead)))
  | .RAKE_RING_PTRS => when lo (rakeDoorbell (fld v 31 0))
  | .RAKE_CTRL => rakeCtrl vm
  | .MEM_SCRUB_CTRL => when lo (writePeriod (fld v 7 0))
  | .MEM_FILL_BASE => writeIf (fun s => !s.flag F.MEM_FILL_CTRL.BUSY 0 0) r i j v m
  | .MEM_FILL_CTRL => .get (fun s => writeFill (writtenWord r (s.reg r 0 0) v m % 2 ^ 36 + (vm &&& 2 ^ 63)))
  | .FAB_CONFIG => do
    plainWrite r i j v (m - (m &&& 1))
    when lo (writeLanes (v.testBit 0))
  | .FAB_TIME_CONFIG | .FAB_ROUTE_DEV => do
    plainWrite r i j v m
    timeState
  | .FAB_LINK_CTRL => if hl : i < 64 then when lo (linkCtrl ⟨i, hl⟩ v) else skip
  | .RST_CMD => resetCmd v h
  | .HST_IRQ_CAUSE | .HST_SITE_CAUSE => clearCause r j vm
  | .HST_RING_BASE | .HST_CQ_BASE => writeIf (fun s => !s.flag F.HST_RING_CTRL.ENABLE i 0) r i j v m
  | .HST_RING_PTRS => if hr : i < 16 then when lo (doorbell ⟨i, hr⟩ (fld v 31 0)) else skip
  | .HST_CQ_PTRS => if hr : i < 16 then when lo (cqHead ⟨i, hr⟩ (fld v 31 0)) else skip
  | .HST_RING_CTRL => if hr : i < 16 then ringCtrl ⟨i, hr⟩ v m else skip
  | .MSIX_CTRL => msixCtrl j v m
  | .OPT_STAGE => writeIf (fun s => s.field F.OPT_STATUS.STAGE 0 0 != 1) r i j v m
  | .OPT_CTRL => when (fld vm 63 48 == 0x0C5A && vm.testBit 0) optCommit
  | .SEC_FW_CTRL => fwCtrl vm
  | .SEC_ATT_CTRL => when (vm.testBit 0) goCmd
  | .SEC_DBG_CTRL => if vm.testBit 1 then closeDebug else when (vm.testBit 0) tokenCmd
  | .SEC_OWNER_CTRL => when (fld vm 63 48 == 0x0E7A && vm.testBit 0) fuseCmd
  | .SEC_OWNER_KEY => writeIf (fun s => !s.flag F.SEC_STATUS.OWNER_SET 0 0) r i j v m
  | .SEC_TOKEN => if j < 360 then plainWrite r i j v m else when (j == 360) (plainWrite r i j v (m % 2 ^ 32))
  | .CNT_CMD => if vm.testBit 1 then swapAt else when (vm.testBit 0) swapNow
  | .TRC_RING_BASE => writeIf (fun s => !s.flag F.TRC_RING_CTRL.ENABLE 0 0) r i j v m
  | .TRC_RING_CTRL => trcCtrl v m
  | .TRC_RING_PTRS => when lo (trcHead (fld v 31 0))
  | .TRC_HUSH_CTRL => hushCtrl v m
  | .TRC_HUSH_MARK => needs 0 (plainWrite r i j v m)
  | .TRC_HUSH_SHIP => needs 1 (plainWrite r i j v m)
  | _ => plainWrite r i j v m

/-- A write of a BAR0 offset (00 R9, 15 R404, 19 R493): dropped where no register is. -/
def writeReg (off v : Nat) (h : Half) : Prog Unit :=
  match regAt off with
  | some (r, i, j) => decoded (off / 8 * 8) (writeWord r i j v h)
  | none => skip

/-- REGISTER_WRITE: the host's writes reach the device while its link is up, Memory Space Enable is 1 and the function is not in D3hot
(14 R378, R380, R389) and no lost seam channel holds them (01 R19). -/
def hostWriteReg (off v : Nat) (h : Half) : Prog Unit :=
  .get (fun s => when (s.hostUp && !s.registerCut (off / 8 * 8)) (writeReg off v h))
def execRegisterWrite (off : BitVec 26) (v : Word) (h : Half) (s : State) : Host.Outcome State Fault Refusal :=
  Prog.next (hostWriteReg off.toNat v.toNat h) s

/-- NOC_REGISTER_ACCESS (00 R9, R11, 01 R19, R26): an access of 64 bits or of a half, the host's reads among them. A read answers with the
bits of its half, a write writes it. One that a lost seam channel holds, there or back, or that comes from a host whose accesses do not reach
the device, has no effect (01 R17, 14 R378, R389, log 140). -/
def nocRegister (off : Nat) (a : RegRequest) : Prog Unit :=
  letI := Prog.monad
  .get (fun s => when (!s.accessCut a.source (off / 8 * 8) a.write.isNone) (match a.write with
    | some v => writeReg off v.toNat a.half
    | none => do
      let v ← readReg off a.half
      emit (.regValue off v)))
def execNocRegisterAccess (off : BitVec 26) (a : RegRequest) (s : State) : Host.Outcome State Fault Refusal :=
  Prog.next (nocRegister off.toNat a) s

/-- The ring command REG_WRITE (14 R383, R386): a 64-bit write of the device's own BAR0. -/
def regWriteCmd (r : RingId) (c : RingCmd) : Prog Unit :=
  letI := Prog.monad
  ringRun r c (· == 6) (do
    let s ← ask id
    if 0x4000000 ≤ c.w1.toNat then ringFinish r 4 c.w1.toNat
    else when (!s.registerCut (c.w1.toNat / 8 * 8)) do
      writeReg c.w1.toNat c.w2.toNat .full
      let s ← ask id
      when (s.flag F.HST_RING_CTRL.BUSY r 0 && s.host.rings[r].queue.head? == some c) (ringFinish r 0 0))
def execRegWrite (r : RingId) (c : RingCmd) (s : State) : Host.Outcome State Fault Refusal := Prog.next (regWriteCmd r c) s

end Sys2Proof.Machine
end

