-- ==== Sys2Proof/Machine/Mgmt.lean ====
section
/-!
DEFINITION. The management port (spec/21_module_and_pins.md R512, R513). AUX_POWER_ON and POWER_LOSS stand in ResetCtl.
-/
namespace Sys2Proof.Machine
open Prog hiding pure bind get op run monad

/-- The 8 bytes of a management register as a number. FIXED reads 0 until option load gives PWR_FREQ_CTRL.MODE (log 169). -/
def mgmtWord (k : Nat) : Prog Nat :=
  letI := Prog.monad
  do
  let s ← ask id
  match k with
  | 0 => pure (s.reg .MGT_ID 0 0)
  | 1 => pure (place 63 32 (s.reg .RST_CAUSE 0 0 % 2 ^ 32) + place 31 24 (s.field F.MGT_STATE.RAIL 0 0) +
      place 17 17 (s.field F.OPT_STATUS.FIXED 0 0) + place 16 16 (s.field F.OPT_STATUS.DEFAULTED 0 0) +
      place 15 8 (s.field F.RST_PHASE.FAIL 0 0) + s.field F.RST_PHASE.PHASE 0 0)
  | 2 => pure (s.reg .MGT_INPUT 0 0)
  | 3 =>
    let hot := if s.field F.RST_PHASE.PHASE 0 0 ≤ 6 then 0 else s.pwr.memTemp.foldl max 0
    pure (place 63 56 hot + place 47 32 (s.field F.MGT_THERMAL.LID 0 0) + place 20 16 (s.field F.MGT_THERMAL.HOT_SENSOR 0 0) + s.field F.MGT_THERMAL.HOT 0 0)
  | 4 => pure (place 63 48 (s.field F.PWR_STATUS.CEILING_MHZ 0 0) + place 41 32 (s.field F.PWR_CAP_LIMIT.WATTS 0 0) +
      place 2 2 (s.field F.PWR_STATUS.MEASURED 0 0) + place 1 1 (b2n (decide (5 ≤ s.field F.RST_PHASE.PHASE 0 0) && s.field F.PWR_FREQ_CTRL.MODE 0 0 == 0)) +
      s.field F.PWR_STATUS.THROTTLED 0 0)
  | 5 => pure (s.reg .MGT_ALERT 0 0)
  | 6 => pure (s.reg .MGT_ALERT_ENABLE 0 0)
  | _ => pure 0

/-- A management register written. -/
def mgmtSet (k v : Nat) : Prog Unit :=
  match k with
  | 5 => plainWrite .MGT_ALERT 0 0 v (2 ^ 64 - 1)
  | 6 => plainWrite .MGT_ALERT_ENABLE 0 0 v (2 ^ 64 - 1)
  | _ => skip

/-- Where the port answers: at its dynamic address, at its static address 0x4C while it has none (21 R512). -/
def Mgmt.address (m : Mgmt) : Nat := m.addr.getD 0x4C

/-- A write transaction: a register index byte, then the 8 data bytes of that register if it carries them; one with 1 to 7 data
bytes is dropped. -/
def mgmtWriteProg (bytes : List Byte) : Prog Unit :=
  .get (fun s => when s.mgmt.on (match bytes with
    | [] => skip
    | k :: data =>
      if data.isEmpty || decide (8 ≤ data.length) then
        (modMgmt (fun m => { m with index := k.toNat })).bind (fun _ =>
          when (!data.isEmpty) (mgmtSet k.toNat (ofBytes (data.take 8))))
      else skip))
def execMgmtWrite (bytes : List Byte) (s : State) : Host.Outcome State Fault Refusal := Prog.next (mgmtWriteProg bytes) s

/-- A read of `n` registers from the last index written, after which the index has advanced by `n` modulo 256. -/
def mgmtReadProg (n : Nat) : Prog Unit :=
  letI := Prog.monad
  do
  let s ← ask id
  when s.mgmt.on do
    let ws ← collect (List.range n) (fun k => mgmtWord ((s.mgmt.index + k) % 256))
    emit (.mgmtData s.mgmt.address ((ws.map (toBytes 8)).flatten))
    modMgmt (fun m => { m with index := (m.index + n) % 256 })
def execMgmtRead (n : Fin 257) (s : State) : Host.Outcome State Fault Refusal := Prog.next (mgmtReadProg n.val) s

/-- A dynamic address taken; from then on the port answers there. -/
def takeAddress (a : Nat) : Prog Unit :=
  .get (fun s => when s.mgmt.on ((modMgmt (fun m => { m with addr := some a })).bind (fun _ => emit (.mgmtAck a))))

def setdasaProg (a : BitVec 7) : Prog Unit := takeAddress a.toNat
def execSetdasa (a : BitVec 7) (s : State) : Host.Outcome State Fault Refusal := Prog.next (setdasaProg a) s
/-- The provisioned ID (21 R512): bit 32 is 1, and the other 47 bits are the low bits of the device serial of the certificate, whose
bytes are taken little-endian (log 157). -/
def provisionedId : Nat :=
  let n := ofBytes serial
  place 47 33 (n / 2 ^ 32) + place 32 32 1 + n % 2 ^ 32

/-- ENTDAA: the port gives its provisioned ID, most significant byte first (log 157), and takes the address. -/
def entdaaProg (a : BitVec 7) : Prog Unit :=
  .get (fun s => when s.mgmt.on ((emit (.mgmtData s.mgmt.address (toBytes 6 provisionedId).reverse)).bind (fun _ => takeAddress a.toNat)))
def execEntdaa (a : BitVec 7) (s : State) : Host.Outcome State Fault Refusal := Prog.next (entdaaProg a) s

end Sys2Proof.Machine
end

