-- ==== Sys2Proof/Machine/Serve.lean ====
section
/-!
DEFINITION. What arrives from outside: data flits, the packets of the fabric at their destination and at their source, heartbeats,
and the completions of reads of host memory (spec 11 R303 to R329, 14 R384 to R391, 16 R437).
-/
namespace Sys2Proof.Machine
open Prog hiding pure bind get op run monad

/-! Arrival (11 R308, R317). -/

/-- A packet that the first device to receive it discards: a reserved OP, a LEN outside its OP's range, or FMT 0b11. -/
def pBad (p : Packet) : Bool :=
  let n := pLen p
  pFmt p == 3 || (match pOp p with
    | 0 | 1 | 2 | 7 | 8 => n == 0 || decide (8 < n)
    | 3 | 4 | 5 => n != 1
    | 6 | 9 => n != 0
    | 10 => decide (2 < n)
    | _ => true)

/-- The router's number of an input: 64 for this device itself. -/
def inputOf (l : Option LinkId) : Nat := match l with | some n => n.val | none => 64

/-- Whether a packet can come by an input. -/
def State.inputUp (s : State) (l : Option LinkId) : Bool := match l with | some n => s.linkIsUp n.val | none => true

/-- The local offset of granule k of a packet. -/
def granOff (p : Packet) (k : Nat) : Nat := (pOff p / 32 * 32 + 32 * k) % 2 ^ 41

/-- Whether a packet is a request: a LOAD, STORE, FADD or CAS. -/
def pRequest (p : Packet) : Bool := pOp p == 0 || pOp p == 2 || pOp p == 3 || pOp p == 4

/-- Whether a request that came by a link cannot reach a granule that it names, or register, for a lost seam channel between the link's
stop and it (01 R17, R20). -/
def State.serveCut (s : State) (l : Option LinkId) (p : Packet) : Bool :=
  match l with
  | none => false
  | some n => pRequest p && (match pSpace p with
    | 1 => (List.range (pLen p)).any (fun k => s.pathCut (linkStop n.val) (granOff p k))
    | 3 => (match registerStop (pOff p) with
      | some t => s.seamCut2 (linkStop n.val) t registerPlane
      | none => false)
    | _ => false)

/-- Whether a request names the window of a core whose clock Hush has stopped: it waits in that core's queue (01 R41). -/
def State.coreStopped (s : State) (p : Packet) : Bool :=
  s.hushed && pRequest p && pSpace p == 1 && (match localTarget (pOff p) with
    | .scratch i _ | .acc i _ _ | .passes i _ | .blank i => !s.deaf i
    | _ => false)

/-- A packet at its destination: served, unless it must wait. -/
def serveOr (l : Option LinkId) (q : Packet) (body : Packet → Prog Unit) : Prog Unit :=
  .get (fun s =>
    if s.serveCut l q then holdTransit (inputOf l) none q
    else if s.coreStopped q then
      rxKeep (inputOf l) (fun vc => modFabric (fun x => { x with parked := x.parked ++ [{ input := inputOf l, out := none, packet := q, vc := vc }] }))
    else body q)

/-- An address-routed packet of an operation arrives by an input: it is served here, or forwarded. -/
def arrival (ops : Nat → Bool) (l : Option LinkId) (p : Packet) (body : Packet → Prog Unit) : Prog Unit :=
  .get (fun s =>
    if !s.inputUp l then skip
    else if pBad p then fabDrop F.FAB_ERROR.BAD_OP
    else if !ops (pOp p) then skip
    else match s.route p with
      | (.here, q) => serveOr l q body
      | _ => forward (inputOf l) p)

/-- A tree packet arrives by an input. -/
def treeArrival (op : Nat) (l : Option LinkId) (p : Packet) (body : Prog Unit) : Prog Unit :=
  .get (fun s =>
    if !s.inputUp l then skip
    else if pBad p then fabDrop F.FAB_ERROR.BAD_OP
    else when (pOp p == op) body)

/-! Requests at their destination (11 R315 to R321). -/

/-- The requester of the fabric at memory, banks and registers. -/
def fabReq : Req := { cls := .dma, unit := 0x0B }

/-- The answer to a request. -/
def answer (p : Packet) (status old : Nat) (gs : List (BitVec 288)) : Prog Unit :=
  .get (fun s => forward 64 (responseTo s p (answerOp p) status (if pOp p = 2 then 1 else 0) old gs))

/-- The answer to a request that failed. -/
def answerFail (p : Packet) (status : Nat) : Prog Unit :=
  (failGrans p).bind (fun gs => (failOld p).bind (fun old => answer p status old gs))

/-- Whether word 1 of a packet has a reserved bit set (11 R315). -/
def badWord1 (p : Packet) : Bool := fld p.w1.toNat 61 57 != 0 || p.w1.toNat.testBit 41

/-- Whether a local offset is treated as unmapped (10 R288). -/
def unmappedOff (off : Nat) : Bool := match localTarget off with | .unmapped _ => true | _ => false

/-- The host bus address of a window offset; none on a window miss (14 R390). -/
def State.windowAddr (s : State) (off : Nat) : Option Nat :=
  let w := fld off 40 38
  let lg := min 38 (max 12 (s.field F.HST_WIN_SIZE.LOG2 0 w))
  if s.flag F.HST_WIN_SIZE.ENABLE 0 w && decide (fld off 37 0 < 2 ^ lg) then some (s.reg .HST_WIN_BASE 0 w + fld off 37 0) else none

/-- HST_ERROR.WIN_MISS where an access missed its window. -/
def winMiss (b : Bool) : Prog Unit := when b (hostError F.HST_ERROR.WIN_MISS)

/-- A LOAD of host memory (14 R390): granules beyond the window are zero at once, the others are asked from the host. -/
def loadWindow (p : Packet) : Prog Unit :=
  letI := Prog.monad
  do
  let s ← ask id
  let hits := (List.range (pLen p)).map (fun k => s.windowAddr (granOff p k))
  let miss := hits.any (·.isNone)
  winMiss miss
  let gs := hits.map (fun h => if h.isNone then some (Gran.valid (zeroBytes 32)) else none)
  if gs.all (·.isSome) then answer p 1 0 (gs.filterMap (fun g => g.map burstOf))
  else do
    modHost (fun h => { h with served := h.served ++ [⟨p, gs, b2n miss⟩] })
    each (List.range hits.length) (fun k => match nth hits k none with
      | some a => hostReadReq (.fabric p) a 32 k
      | none => skip)

/-- The granule of four registers. -/
def regGran (off : Nat) : Prog Gran :=
  letI := Prog.monad
  do
  let ws ← collect (List.range 4) (fun j => readReg (off + 8 * j) .full)
  pure (.valid ((ws.map (toBytes 8)).flatten))

def serveLoad (p : Packet) : Prog Unit :=
  letI := Prog.monad
  do
  let s ← ask id
  if badWord1 p then answerFail p 3
  else match pSpace p with
    | 1 => do
      let gs ← collect (List.range (pLen p)) (fun k => readRaw fabReq (granOff p k))
      answer p (b2n ((List.range (pLen p)).any (fun k => unmappedOff (granOff p k)))) 0 (gs.map burstOf)
    | 2 => if s.flag F.FAB_CONFIG.HOST_REMOTE 0 0 then loadWindow p else answerFail p 5
    | 3 =>
      if s.flag F.FAB_CONFIG.REG_REMOTE 0 0 then do
        let gs ← collect (List.range (pLen p)) (fun k => regGran (granOff p k))
        answer p 0 0 (gs.map burstOf)
      else answerFail p 5
    | _ => answerFail p 2

/-- A granule of a STORE written to host memory: corrected where it can be, else as a poisoned write. -/
def storeHost (p : Packet) (k addr : Nat) : Prog Unit :=
  letI := Prog.monad
  do
  let s ← ask id
  let g := granOf (nth p.grans k 0)
  let at' := p.w1.toNat + 32 * k
  let (o, d) := g.decode
  reportGran { hostReq with pkt := some { struct := 7, address := at' } } at' o 0
  match o with
  | .clean | .corrected _ => emit (.hostWrite addr d s.host.relaxed)
  | _ => emit (.hostWritePoisoned addr g.data s.host.relaxed)

/-- A STORE written at its destination: its status, by space. -/
def storeHere (p : Packet) : Prog Nat :=
  letI := Prog.monad
  do
  let s ← ask id
  let ks := List.range p.grans.length
  match pSpace p with
  | 1 => do
    each ks (fun k => do
      landGran (granOff p k) (granOf (nth p.grans k 0)))
    pure (b2n (ks.any (fun k => unmappedOff (granOff p k))))
  | 2 =>
    if s.flag F.FAB_CONFIG.HOST_REMOTE 0 0 then do
      let miss := ks.any (fun k => (s.windowAddr (granOff p k)).isNone)
      winMiss miss
      each ks (fun k => match s.windowAddr (granOff p k) with
        | some a => storeHost p k a
        | none => skip)
      pure (b2n miss)
    else pure 5
  | 3 =>
    if s.flag F.FAB_CONFIG.REG_REMOTE 0 0 then do
      let j := fld (pOff p) 4 3
      each ks (fun k => do
        let d ← packetUse p k
        writeReg (granOff p k + 8 * j) (leAt d (8 * j) 8) .full)
      pure 0
    else pure 5
  | _ => pure 2

def serveStore (p : Packet) : Prog Unit :=
  letI := Prog.monad
  do
  let s ← ask id
  if badWord1 p then answerFail p 3
  else if pTc p = 1 && s.epochDiffers p then do
    epochDrop
    answerFail p 7
  else do
    let st ← storeHere p
    when (st ≤ 1 && p.w2.toNat.testBit 63) (signalCC (fld p.w2.toNat 62 56) (fld p.w2.toNat 55 52))
    answer p st 0 []
    collPoll

/-- An atomic at a granule of memory or of a bank: it is corrected, the word that OFFSET[4:3] names is replaced by what `f` makes of
the old word, if anything, and the old word is answered (11 R318, 01 R41). -/
def atomicAt (p : Packet) (f : Nat → Option Nat) : Prog Unit :=
  letI := Prog.monad
  do
  let s ← ask id
  let off := granOff p 0
  let j := fld (pOff p) 4 3
  let deafAt := match localTarget off with
    | .scratch i _ | .acc i _ _ | .passes i _ | .blank i => s.deaf i
    | _ => false
  if deafAt then do
    let _ ← readRaw fabReq off
    answerFail p 6
  else do
    -- the payload is consumed too (18 R457)
    let _ ← packetUse p 0
    let g ← readRaw fabReq off
    let d ← consume fabReq off g
    match d with
    | none => answerFail p 6
    | some d => do
      let old := leAt d (8 * j) 8
      when (!unmappedOff off) (match f old with
        | none => skip
        | some v => do
          let bs := slice d 0 (8 * j) ++ toBytes 8 v ++ slice d (8 * j + 8) (24 - 8 * j)
          let _ ← writePatch fabReq ⟨off, bs.map (fun b => (0xFF, b.toNat)), false⟩
          skip)
      let v ← fresh 256
      answer p (b2n (unmappedOff off)) old [burstOf (.valid (toBytes 32 v))]

/-- The payload word of an atomic. -/
def payloadWord (p : Packet) : Nat := leAt ((granOf (nth p.grans 0 0)).decode).2 (8 * fld (pOff p) 4 3) 8

def serveAtomic (p : Packet) (f : Nat → Option Nat) : Prog Unit :=
  if badWord1 p then answerFail p 3 else if pSpace p = 1 then atomicAt p f else answerFail p 2

/-! Answers at the source of their request (11 R319, R320). -/

/-- What the answer of a request means to what asked for it. -/
def answerTo (q : FReq) (st : Nat) (gs : List (Nat × Gran)) : Prog Unit :=
  letI := Prog.monad
  match q.origin with
  | .core i u pc => when (q.op == 0) (feedFlight i u pc gs)
  | .coll id => modRun id (fun r =>
      let r1 := { r with got := r.got ++ gs }
      if st = 0 then r1 else r1.fail (if st = 7 then 4 else 5))
  | .ring r => do
    when (st != 0) (ringNote r 2 q.addr)
    modRing r (fun y => { y with got := y.got ++ gs })
    ringCheck r
  | .trace => trcAccepted
  | _ => skip

/-- Whether an answer may come from its source for a request: from the device that the request names, or, UNREACHABLE, from any router
on the way (11 R309). -/
def FReq.answeredBy (q : FReq) (p : Packet) : Bool := fld q.addr 56 42 == pSrc p || pStatus p == 4

/-- The request that a LOAD_RESP or ATOMIC_RESP answers. -/
def State.reqOf (s : State) (p : Packet) (ops : Nat → Bool) : Option FReq :=
  s.fabric.reqs.find? (fun q => ops q.op && q.stream == pStream p && q.rtag == pRtag p && q.answeredBy p)

def takeLoad (p : Packet) : Prog Unit :=
  letI := Prog.monad
  do
  let s ← ask id
  let st := pStatus p
  remoteStatus st
  match s.reqOf p (· == 0) with
  | none => skip
  | some q => do
    answered q
    let gs ← collect (List.range q.len) (fun k => do
      let g ← (if st ≤ 1 then pure (granOf (nth p.grans k 0)) else failedGran)
      pure ((q.addr / 32 * 32 + 32 * k) % 2 ^ 64, g))
    answerTo q st gs
  collPoll

def takeAtomic (p : Packet) : Prog Unit :=
  letI := Prog.monad
  do
  let s ← ask id
  remoteStatus (pStatus p)
  match s.reqOf p (fun o => o == 3 || o == 4) with
  | none => skip
  | some q => do
    answered q
    answerTo q (pStatus p) []

/-- The writes that a COMPLETE covers: one, that of its address, the oldest of them; more than one, the oldest writes of its stream to
its device. -/
def State.covered (s : State) (p : Packet) : List FReq :=
  let ws := s.fabric.reqs.filter (fun q => q.op == 2 && q.stream == pStream p && q.answeredBy p)
  let n := fld p.w2.toNat 47 32
  if n = 1 then
    match ws.find? (fun q => setFld q.addr 56 42 0 == setFld p.w1.toNat 56 42 0) with
    | some q => [q]
    | none => ws.take 1
  else ws.take n

def takeComplete (p : Packet) : Prog Unit :=
  letI := Prog.monad
  do
  let s ← ask id
  remoteStatus (pStatus p)
  each (s.covered p) (fun q => do
    answered q
    answerTo q (pStatus p) [])
  collPoll

/-! SYNC (11 R317, 12 R353, 16 R437). -/

/-- A heartbeat: four fields into the peer register of every link to its source, and the granule into the collector table. -/
def heartbeatTaken (p : Packet) : Prog Unit :=
  letI := Prog.monad
  match p.grans with
  | [] => skip
  | b :: _ => do
    let d ← packetUse p 0
    let s ← ask id
    each (List.range 64) (fun n => when (s.field F.FAB_LINK_STATUS.PEER_DEV n 0 == pSrc p) (do
      setF F.PWR_HB_PEER.FLAGS 0 n (leAt d 10 1)
      setF F.PWR_HB_PEER.HOT_MAX 0 n (leAt d 11 1)
      setF F.PWR_HB_PEER.CEILING_MHZ 0 n (leAt d 12 2)
      setF F.PWR_HB_PEER.SEQ 0 n (leAt d 16 4)))
    when (s.flag F.PWR_HB_CONFIG.COLLECT 0 0)
      (placeGran ((32 * s.field F.PWR_HB_TABLE.BASE 0 0 + 32 * pSrc p) % 2 ^ 41) (granOf b))

/-- A SYNC at its destination, by KIND; a barrier packet that would open a key too many waits on its channel (12 R353), as does
every one while Hush holds the engine (19 R488). -/
def serveSync (input : Nat) (p : Packet) : Prog Unit :=
  match fld p.w2.toNat 7 0 with
  | 0 => heartbeatTaken p
  | 1 => .get (fun s => if s.hushed || s.syncFull p then stallPacket input p else (syncArrive p).bind (fun _ => collPoll))
  | _ => incF F.FAB_DROP_COUNT.COUNT 0 0 1

/-! The packet commands. -/

def loadArrive (l : Option LinkId) (p : Packet) : Prog Unit := arrival (· == 0) l p serveLoad
def execLoadPacket (l : Option LinkId) (p : Packet) (s : State) : Host.Outcome State Fault Refusal := Prog.next (loadArrive l p) s
def loadRespArrive (l : Option LinkId) (p : Packet) : Prog Unit := arrival (· == 1) l p takeLoad
def execLoadResp (l : Option LinkId) (p : Packet) (s : State) : Host.Outcome State Fault Refusal := Prog.next (loadRespArrive l p) s
def storeArrive (l : Option LinkId) (p : Packet) : Prog Unit := arrival (· == 2) l p serveStore
def execStorePacket (l : Option LinkId) (p : Packet) (s : State) : Host.Outcome State Fault Refusal := Prog.next (storeArrive l p) s

/-- FADD adds the payload word modulo 2^64. -/
def faddArrive (l : Option LinkId) (p : Packet) : Prog Unit :=
  arrival (· == 3) l p (fun q => serveAtomic q (fun old => some ((old + payloadWord q) % 2 ^ 64)))
def execFadd (l : Option LinkId) (p : Packet) (s : State) : Host.Outcome State Fault Refusal := Prog.next (faddArrive l p) s

/-- CAS writes the payload word where the target word equals word 3. -/
def casArrive (l : Option LinkId) (p : Packet) : Prog Unit :=
  arrival (· == 4) l p (fun q => serveAtomic q (fun old => if old = q.w3.toNat then some (payloadWord q) else none))
def execCas (l : Option LinkId) (p : Packet) (s : State) : Host.Outcome State Fault Refusal := Prog.next (casArrive l p) s

def atomicRespArrive (l : Option LinkId) (p : Packet) : Prog Unit := arrival (· == 5) l p takeAtomic
def execAtomicResp (l : Option LinkId) (p : Packet) (s : State) : Host.Outcome State Fault Refusal := Prog.next (atomicRespArrive l p) s
def completeArrive (l : Option LinkId) (p : Packet) : Prog Unit := arrival (· == 6) l p takeComplete
def execComplete (l : Option LinkId) (p : Packet) (s : State) : Host.Outcome State Fault Refusal := Prog.next (completeArrive l p) s

def reduceArrive (l : Option LinkId) (p : Packet) : Prog Unit :=
  treeArrival 7 l p ((treeReduce (l.map (·.val)) p).bind (fun _ => collPoll))
def execReduce (l : Option LinkId) (p : Packet) (s : State) : Host.Outcome State Fault Refusal := Prog.next (reduceArrive l p) s
def mcastArrive (l : Option LinkId) (p : Packet) : Prog Unit := treeArrival 8 l p ((treeMcast (inputOf l) p).bind (fun _ => collPoll))
def execMcast (l : Option LinkId) (p : Packet) (s : State) : Host.Outcome State Fault Refusal := Prog.next (mcastArrive l p) s

/-- A TIME message received at `t4`, in ns. -/
def timePacket (l : LinkId) (p : Packet) (t4 : Nat) : Prog Unit := treeArrival 9 (some l) p (timeArrive l p t4)
def execTime (l : LinkId) (p : Packet) (t4 : Nat) (s : State) : Host.Outcome State Fault Refusal := Prog.next (timePacket l p t4) s

def heartbeatArrive (l : Option LinkId) (p : Packet) : Prog Unit :=
  arrival (· == 10) l p (fun q => when (fld q.w2.toNat 7 0 != 1) (serveSync (inputOf l) q))
def execSyncHeartbeat (l : Option LinkId) (p : Packet) (s : State) : Host.Outcome State Fault Refusal := Prog.next (heartbeatArrive l p) s
def syncCollectiveArrive (l : Option LinkId) (p : Packet) : Prog Unit :=
  arrival (· == 10) l p (fun q => when (fld q.w2.toNat 7 0 != 0) (serveSync (inputOf l) q))
def execSyncCollective (l : Option LinkId) (p : Packet) (s : State) : Host.Outcome State Fault Refusal := Prog.next (syncCollectiveArrive l p) s

def badOpArrive (l : Option LinkId) (p : Packet) : Prog Unit := arrival (fun _ => false) l p (fun _ => skip)
def execBadOp (l : Option LinkId) (p : Packet) (s : State) : Host.Outcome State Fault Refusal := Prog.next (badOpArrive l p) s

/-- The end of a fabric reduction's wait (11 R326). -/
def fabTimeoutProg (tag : BitVec 16) (addr : Word) : Prog Unit := (treeTimeout tag.toNat addr.toNat).bind (fun _ => collPoll)
def execFabRedTimeout (tag : BitVec 16) (addr : Word) (s : State) : Host.Outcome State Fault Refusal :=
  Prog.next (fabTimeoutProg tag addr) s

/-! Data flits (11 R302 to R305). -/

/-- A packet that arrives by an input, by its OP; a TIME message counts as received now. -/
def packetArrive (l : Option LinkId) (p : Packet) : Prog Unit :=
  match pOp p with
  | 0 => loadArrive l p
  | 1 => loadRespArrive l p
  | 2 => storeArrive l p
  | 3 => faddArrive l p
  | 4 => casArrive l p
  | 5 => atomicRespArrive l p
  | 6 => completeArrive l p
  | 7 => reduceArrive l p
  | 8 => mcastArrive l p
  | 9 => match l with
    | some n => .get (fun s => timePacket n p s.now)
    | none => skip
  | 10 => arrival (· == 10) l p (serveSync (inputOf l))
  | _ => badOpArrive l p

/-- A packet in the receive buffer of a link acts; unless it waits, it leaves the buffer (11 R305). -/
def rxArrive (l : LinkId) (vc : Option Nat) (p : Packet) : Prog Unit :=
  (modFabric (fun x => { x with rx := vc })).bind (fun _ => (packetArrive (some l) p).bind (fun _ => rxDone l.val (pBytes p)))

/-- A packet that waited goes on: to its output link, or it arrives anew by its input. -/
def goOn (w : FWait) : Prog Unit :=
  match w.out with
  | some n => match w.cast with
    | some _ => .get (fun s =>
        if s.transitCut w.input n then modFabric (fun x => { x with transit := x.transit ++ [w] })
        else (queueCopy w.input n w.packet w.vc w.cast).bind (fun _ => pumpAt n))
    | none => (modFabric (fun x => { x with rx := w.vc })).bind (fun _ => (transitOn w.input n w.packet).bind (fun _ =>
        rxDone w.input (pBytes w.packet)))
  | none => if h : w.input < 64 then rxArrive ⟨w.input, h⟩ w.vc w.packet else packetArrive none w.packet

/-- The length of a packet by its header word 0: a LOAD has no payload. -/
def wireLen (w0 : Nat) : Nat := if fld w0 63 60 = 0 then 32 else 32 + 36 * fld w0 57 54

/-- A packet from its bytes. -/
def packetOf (bs : List Byte) : Packet :=
  { w0 := BitVec.ofNat 64 (leAt bs 0 8), w1 := BitVec.ofNat 64 (leAt bs 8 8), w2 := BitVec.ofNat 64 (leAt bs 16 8),
    w3 := BitVec.ofNat 64 (leAt bs 24 8),
    grans := (List.range ((bs.length - 32) / 36)).map (fun k => BitVec.ofNat 288 (leAt bs (32 + 36 * k) 36)) }

/-- One packet at the front of bytes, if all of it is there, and what follows. -/
def takePacket (bs : List Byte) : Option (Packet × List Byte) :=
  if bs.length < 8 then none
  else
    let n := wireLen (leAt bs 0 8)
    if bs.length < n then none else some (packetOf (bs.take n), bs.drop n)

/-- The packets that begin in the rest of a body, and the bytes of the one that goes on in the next flit; a word of all ones where a
header would begin ends them. `fuel` bounds how many. -/
def takePackets : Nat → List Byte → List Packet × List Byte
  | 0, bs => ([], bs)
  | n + 1, bs =>
    if decide (4 ≤ bs.length) && leAt bs 0 4 == 0xFFFFFFFF then ([], [])
    else match takePacket bs with
      | none => ([], bs)
      | some (p, rest) =>
        let (ps, r) := takePackets n rest
        (p :: ps, r)

/-- What the body of an accepted flit completes, with what is left for the next one (11 R303). -/
def parseBody (part : List Byte) (start : Nat) (body : List Byte) : List Packet × List Byte :=
  let cont := if start ≤ 60 then body.take (4 * start) else body
  let whole := if part.isEmpty then none else takePacket (part ++ cont)
  let first := match whole with | some (p, _) => [p] | none => []
  if start ≤ 60 then
    let (ps, r) := takePackets 8 (body.drop (4 * start))
    (first ++ ps, r)
  else (first, if part.isEmpty || whole.isSome then [] else part ++ cont)

/-- A data flit discarded: one NAK until the expected one arrives. -/
def nakLink (l : LinkId) : Prog Unit :=
  .get (fun s => when (!s.links[l].nakSent)
    ((modLink l (fun k => { k with nakSent := true })).bind (fun _ => sendFlit l (idleFlit s.links[l].lastRx true))))

/-- A data flit: accepted if its FEC decodes, its CRC matches and its SEQ is the expected one; its packets then act in order, and what
leaves the receive buffer is returned as credit. -/
def dataFlitProg (l : LinkId) (f : BitVec 2048) (fec : Bool) : Prog Unit :=
  letI := Prog.monad
  do
  let s ← ask id
  when (s.linkIsUp l.val) do
    fecCount l fec
    if !fec || !flitOk f then do
      incF F.FAB_LINK_ERR_COUNT.CRC l.val 0 1
      nakLink l
    else when (flitFld f 63 60 == 0) (do
      let seq := flitFld f 59 48
      if seq != s.links[l].expectSeq then do
        takeHeader l f false
        nakLink l
      else do
        let (ps, r) := parseBody s.links[l].partialRx (flitFld f 34 29) (slice (toBytes 256 f.toNat) 8 244)
        modLink l (fun k => { k with expectSeq := (seq + 1) % 4096, lastRx := seq, nakSent := false, partialRx := r })
        takeHeader l f true
        each ps (fun p => rxArrive l (some (pVc p)) p)
        returnCredit l)
def execDataFlit (l : LinkId) (flit : BitVec 2048) (fec : Bool) (s : State) : Host.Outcome State Fault Refusal :=
  Prog.next (dataFlitProg l flit fec) s

/-! Completions from the host (14 R384, R386, R391, R392). -/

/-- The bytes of a completion cut into granules with codes of their own; those of a failed read are poison-marked, their data
free. -/
def hostGrans (len : Nat) (r : Option (List Byte)) : Prog (List Gran) :=
  collect (List.range (len / 32)) (fun k => match r with
    | some bs => .pure (.valid ((List.range 32).map (fun j => nth bs (32 * k + j) 0)))
    | none => poisonGran)

/-- A granule of host memory for a LOAD of another device; the last one lets it be answered. -/
def servedArrive (p : Packet) (k : Nat) (g : Gran) (failed : Bool) : Prog Unit :=
  letI := Prog.monad
  do
  let s ← ask id
  match s.host.served.find? (fun v => v.packet == p && (nth v.grans k none).isNone) with
  | none => skip
  | some v => do
    let v' : Served := { v with grans := v.grans.set k (some g), status := if failed then 6 else v.status }
    if v'.grans.all (·.isSome) then do
      modHost (fun h => { h with served := h.served.erase v })
      answer p v'.status 0 (v'.grans.filterMap (fun x => x.map burstOf))
    else modHost (fun h => { h with served := h.served.map (fun x => if x = v then v' else x) })

/-- Commands of a ring from their bytes. -/
def ringCmdAt (bs : List Byte) (k : Nat) : RingCmd :=
  let w (j : Nat) : Word := BitVec.ofNat 64 (leAt bs (64 * k + 8 * j) 8)
  ⟨w 0, w 1, w 2, w 3, w 4, w 5, w 6, w 7⟩

/-- What a completion means to what asked for it; none where the read failed. -/
def hostDeliver (q : HRead) (r : Option (List Byte)) : Prog Unit :=
  letI := Prog.monad
  do
  when r.isNone (hostError F.HST_ERROR.HOST_ERR)
  match q.origin with
  | .core i u pc => do
    let gs ← hostGrans q.len r
    feedFlight i u pc ((List.range gs.length).map (fun k => (q.dest + 32 * k, nth gs k (.valid (zeroBytes 32)))))
  | .coll id => do
    let gs ← hostGrans q.len r
    modRun id (fun x => { x with
      got := x.got ++ (List.range gs.length).map (fun k => (q.dest + 32 * k, nth gs k (.valid (zeroBytes 32)))) })
  | .ring n => do
    when r.isNone (do
      setF F.HST_ERROR.LAST_RING 0 0 n.val
      ringNote n 5 q.addr)
    let gs ← hostGrans q.len r
    let s ← ask id
    ringLand n (s.host.rings[n].late ++ (List.range gs.length).map (fun k =>
      (q.dest + 32 * k, (nth gs k (.valid (zeroBytes 32))).data, r.isNone)))
    ringCheck n
  | .fetch n => do
    when r.isNone (setF F.HST_ERROR.LAST_RING 0 0 n.val)
    modRing n (fun y => { y with parts := y.parts ++ [(q.dest, r)] })
    let s ← ask id
    let x := s.host.rings[n]
    -- the last part has come: the commands enter in their order, unless a part failed
    when (!(s.host.waiting ++ s.host.reads).any (fun p => p.origin == .fetch n)) do
      modRing n (fun y => { y with asked := 0, parts := [] })
      when (x.parts.all (fun p => p.2.isSome)) do
        let bs := (List.range 8).flatMap (fun k => match x.parts.find? (fun p => p.1 == 64 * k) with
          | some (_, some b) => b
          | _ => [])
        let k := bs.length / 64
        setF F.HST_RING_PTRS.HEAD n 0 ((s.field F.HST_RING_PTRS.HEAD n 0 + k) % s.ringSize n)
        modRing n (fun y => { y with queue := y.queue ++ (List.range k).map (ringCmdAt bs) })
        ringGo n
  | .firmware => modSec (fun x => match r with
    | some bs => { x with loaded := x.loaded ++ [(q.dest, bs)] }
    | none => { x with hostErr := true })
  | .fabric p => do
    let gs ← hostGrans 32 r
    servedArrive p q.dest (nth gs 0 (.valid (zeroBytes 32))) r.isNone
  | _ => skip

/-- An uncorrectable error in AER's status (14 R376), by its bit of the standard. -/
def aerError (bit : Nat) : Prog Unit := modHost (fun h => { h with aer := h.aer ||| 1 <<< bit })

/-- A completion for which no read waits: an unexpected completion, bit 16 of the uncorrectable class, which the standard has reported as
an advisory error, bit 13 of the correctable class (PRESUMED, log 153). -/
def strayCompletion : Prog Unit := modHost (fun h => { h with aer := h.aer ||| 1 <<< 16, aerCor := h.aerCor ||| 1 <<< 13 })

/-- A read of host memory ends; its tag is free for another. -/
def hostEnd (tag bit : Nat) (r : Option (List Byte)) : Prog Unit :=
  letI := Prog.monad
  do
  let s ← ask id
  match s.host.reads.find? (fun q => q.tag == tag) with
  | none => skip
  | some q => do
    modHost (fun h => { h with reads := h.reads.erase q })
    when (bit != 0) (aerError bit)
    hostDeliver q r
    sendReads
    collPoll

/-- A completion arrives; a poisoned one is an error of AER (bit 12). -/
def hostCompletion (tag : Nat) (r : HostResult) : Prog Unit :=
  .get (fun s => when s.host.linkUp (if !s.host.reads.any (fun q => q.tag == tag) then strayCompletion else match r with
    | .data bs => hostEnd tag 0 (some bs)
    | .poison => hostEnd tag 12 none
    | _ => hostEnd tag 0 none))
def execHostReadCompletion (tag : Nat) (r : HostResult) (s : State) : Host.Outcome State Fault Refusal :=
  Prog.next (hostCompletion tag r) s

/-- No completion came in time: an error of AER (bit 14). -/
def hostTimeout (tag : Nat) : Prog Unit := hostEnd tag 14 none
def execCompletionTimeout (tag : Nat) (s : State) : Host.Outcome State Fault Refusal := Prog.next (hostTimeout tag) s

end Sys2Proof.Machine
end

