-- ==== Sys2Proof/Machine/Seam.lean ====
section
/-!
DEFINITION. What happens when a seam channel of the on-chip network has lock again (spec/01_organisation.md R17).
-/
namespace Sys2Proof.Machine
open Prog hiding pure bind get op run monad

/-- A held packet goes on from the seam stop beyond the channel. -/
def nocRelease (w : NocWait) : Prog Unit :=
  if w.dests.isEmpty then nocReduce 20 w.stop w.input w.packet else mcDeliver w.packet w.dests

/-- A seam channel has lock again: what it held goes on in order, and what waited for it acts. -/
def seamReturnProg (row : Fin 4) (plane : Fin 8) : Prog Unit :=
  letI := Prog.monad
  do
  let s ← ask id
  let here (w : NocWait) : Bool := w.row == row.val && w.plane == plane.val
  modNoc (fun n => { n with seams := n.seams.filter (· != (row.val, plane.val)), waits := n.waits.filter (fun w => !here w) })
  each (s.noc.waits.filter here) nocRelease
  modFabric (fun x => { x with transit := [] })
  each s.fabric.transit goOn
  nocGoOn
  wakeCores
  ringsGoOn
  rakeKick
  collPoll
def execSeamLockReturn (row : Fin 4) (plane : Fin 8) (s : State) : Host.Outcome State Fault Refusal :=
  Prog.next (seamReturnProg row plane) s

/-- One always-on tick: the timebase advances by 5 ns (01 R42), the cycle in which resets are weighed against each
other is over (15 R417), and the network cycle in which stops hold packets of ORD = 0 (01 R31). -/
def tickTime : Prog Unit :=
  letI := Prog.monad
  do
  let s ← ask id
  act (.now (s.now + 5))
  when s.rst.cycle.isSome (modRst (fun r => { r with cycle := none }))
  when (!s.noc.cycle.isEmpty) do
    cycleEnd s.noc.cycle.length
    collPoll

/-- What a step does when no command waits (log 10). -/
def State.tick (s : State) : State := (tickTime.run s).2

end Sys2Proof.Machine
end

