-- ==== Sys2Proof/Machine/Dispatch.lean ====
section
/-!
DEFINITION. The dispatch of commands: one arm per constructor of `Instr`, in the order of spec/opcode_table.json.
-/
namespace Sys2Proof.Machine

/-- The effect of a command on everything but the queue. -/
def exec (i : Instr) (s : State) : Host.Outcome State Fault Refusal :=
  match i with
  | .nop a0 a1 => Sys2Proof.Machine.execNop a0 a1 s
  | .halt a0 a1 => Sys2Proof.Machine.execHalt a0 a1 s
  | .fence a0 a1 => Sys2Proof.Machine.execFence a0 a1 s
  | .wait a0 a1 => Sys2Proof.Machine.execWait a0 a1 s
  | .mark a0 a1 => Sys2Proof.Machine.execMark a0 a1 s
  | .epoch a0 a1 => Sys2Proof.Machine.execEpoch a0 a1 s
  | .step a0 a1 => Sys2Proof.Machine.execStep a0 a1 s
  | .dset a0 a1 => Sys2Proof.Machine.execDset a0 a1 s
  | .dadj a0 a1 => Sys2Proof.Machine.execDadj a0 a1 s
  | .tset a0 a1 => Sys2Proof.Machine.execTset a0 a1 s
  | .tadd a0 a1 => Sys2Proof.Machine.execTadd a0 a1 s
  | .jmp a0 a1 => Sys2Proof.Machine.execJmp a0 a1 s
  | .own a0 a1 => Sys2Proof.Machine.execOwn a0 a1 s
  | .hiveTake a0 a1 => Sys2Proof.Machine.execHiveTake a0 a1 s
  | .hiveTakeReply a0 a1 => Sys2Proof.Machine.execHiveTakeReply a0 a1 s
  | .mma a0 a1 => Sys2Proof.Machine.execMma a0 a1 s
  | .mmaT a0 a1 => Sys2Proof.Machine.execMmaT a0 a1 s
  | .mmaProbe a0 a1 => Sys2Proof.Machine.execMmaProbe a0 a1 s
  | .park a0 a1 => Sys2Proof.Machine.execPark a0 a1 s
  | .unpark a0 a1 => Sys2Proof.Machine.execUnpark a0 a1 s
  | .tileTransferDone a0 a1 => Sys2Proof.Machine.execTileTransferDone a0 a1 s
  | .batchFillTimeout a0 => Sys2Proof.Machine.execBatchFillTimeout a0 s
  | .load a0 a1 => Sys2Proof.Machine.execLoad a0 a1 s
  | .store a0 a1 => Sys2Proof.Machine.execStore a0 a1 s
  | .gather a0 a1 => Sys2Proof.Machine.execGather a0 a1 s
  | .scatter a0 a1 => Sys2Proof.Machine.execScatter a0 a1 s
  | .scatterAdd a0 a1 => Sys2Proof.Machine.execScatterAdd a0 a1 s
  | .scatterAddDrain a0 a1 => Sys2Proof.Machine.execScatterAddDrain a0 a1 s
  | .quant a0 a1 => Sys2Proof.Machine.execQuant a0 a1 s
  | .requant a0 a1 => Sys2Proof.Machine.execRequant a0 a1 s
  | .lutmv a0 a1 => Sys2Proof.Machine.execLutmv a0 a1 s
  | .scoutPredict a0 a1 => Sys2Proof.Machine.execScoutPredict a0 a1 s
  | .scoutApply a0 a1 => Sys2Proof.Machine.execScoutApply a0 a1 s
  | .mow a0 a1 => Sys2Proof.Machine.execMow a0 a1 s
  | .sowCand a0 a1 => Sys2Proof.Machine.execSowCand a0 a1 s
  | .sowGrowBlock a0 a1 => Sys2Proof.Machine.execSowGrowBlock a0 a1 s
  | .sowGrowPosition a0 a1 => Sys2Proof.Machine.execSowGrowPosition a0 a1 s
  | .compress a0 a1 => Sys2Proof.Machine.execCompress a0 a1 s
  | .blkt a0 a1 => Sys2Proof.Machine.execBlkt a0 a1 s
  | .allReduce a0 a1 => Sys2Proof.Machine.execAllReduce a0 a1 s
  | .reduceScatter a0 a1 => Sys2Proof.Machine.execReduceScatter a0 a1 s
  | .allGather a0 a1 => Sys2Proof.Machine.execAllGather a0 a1 s
  | .allToAll a0 a1 => Sys2Proof.Machine.execAllToAll a0 a1 s
  | .permute a0 a1 => Sys2Proof.Machine.execPermute a0 a1 s
  | .barrier a0 a1 => Sys2Proof.Machine.execBarrier a0 a1 s
  | .local a0 a1 => Sys2Proof.Machine.execLocal a0 a1 s
  | .dispatch a0 a1 => Sys2Proof.Machine.execDispatch a0 a1 s
  | .combineReturn a0 a1 => Sys2Proof.Machine.execCombineReturn a0 a1 s
  | .combineAdd a0 a1 => Sys2Proof.Machine.execCombineAdd a0 a1 s
  | .stageSend a0 a1 => Sys2Proof.Machine.execStageSend a0 a1 s
  | .stageCredit a0 a1 => Sys2Proof.Machine.execStageCredit a0 a1 s
  | .hint a0 a1 => Sys2Proof.Machine.execHint a0 a1 s
  | .illegalOp a0 a1 => Sys2Proof.Machine.execIllegalOp a0 a1 s
  | .instructionComplete a0 a1 => Sys2Proof.Machine.execInstructionComplete a0 a1 s
  | .start a0 => Sys2Proof.Machine.execStart a0 s
  | .haltReq a0 => Sys2Proof.Machine.execHaltReq a0 s
  | .abort a0 => Sys2Proof.Machine.execAbort a0 s
  | .registerWrite a0 a1 a2 => Sys2Proof.Machine.execRegisterWrite a0 a1 a2 s
  | .nocReadRequest a0 a1 a2 => Sys2Proof.Machine.execNocReadRequest a0 a1 a2 s
  | .nocWrite a0 a1 a2 => Sys2Proof.Machine.execNocWrite a0 a1 a2 s
  | .nocReadResponse a0 a1 a2 => Sys2Proof.Machine.execNocReadResponse a0 a1 a2 s
  | .multicastWrite a0 a1 => Sys2Proof.Machine.execMulticastWrite a0 a1 s
  | .reduction a0 a1 => Sys2Proof.Machine.execReduction a0 a1 s
  | .nocHiveTake a0 a1 => Sys2Proof.Machine.execNocHiveTake a0 a1 s
  | .anthillInsert a0 => Sys2Proof.Machine.execAnthillInsert a0 s
  | .nocRegisterAccess a0 a1 => Sys2Proof.Machine.execNocRegisterAccess a0 a1 s
  | .nocCompletion a0 a1 => Sys2Proof.Machine.execNocCompletion a0 a1 s
  | .nocBadKind a0 a1 => Sys2Proof.Machine.execNocBadKind a0 a1 s
  | .nocRedTimeout a0 a1 => Sys2Proof.Machine.execNocRedTimeout a0 a1 s
  | .seamLockLoss a0 a1 => Sys2Proof.Machine.execSeamLockLoss a0 a1 s
  | .seamLockReturn a0 a1 => Sys2Proof.Machine.execSeamLockReturn a0 a1 s
  | .rakeDoorbell a0 => Sys2Proof.Machine.execRakeDoorbell a0 s
  | .update => Sys2Proof.Machine.execUpdate s
  | .prep => Sys2Proof.Machine.execPrep s
  | .seal => Sys2Proof.Machine.execSeal s
  | .verify => Sys2Proof.Machine.execVerify s
  | .rakeBadOp => Sys2Proof.Machine.execRakeBadOp s
  | .rakeDrain => Sys2Proof.Machine.execRakeDrain s
  | .rakeAbort => Sys2Proof.Machine.execRakeAbort s
  | .rakeResume => Sys2Proof.Machine.execRakeResume s
  | .memRead a0 => Sys2Proof.Machine.execMemRead a0 s
  | .memWrite a0 a1 => Sys2Proof.Machine.execMemWrite a0 a1 s
  | .scrubPeriodWrite a0 => Sys2Proof.Machine.execScrubPeriodWrite a0 s
  | .scrubGranule a0 => Sys2Proof.Machine.execScrubGranule a0 s
  | .fillGo a0 => Sys2Proof.Machine.execFillGo a0 s
  | .fillComplete => Sys2Proof.Machine.execFillComplete s
  | .refreshRateUpdate a0 a1 => Sys2Proof.Machine.execRefreshRateUpdate a0 a1 s
  | .powerDownEntry a0 => Sys2Proof.Machine.execPowerDownEntry a0 s
  | .dataFlit a0 a1 a2 => Sys2Proof.Machine.execDataFlit a0 a1 a2 s
  | .idleFlit a0 a1 => Sys2Proof.Machine.execIdleFlit a0 a1 s
  | .linkManagementFlit a0 a1 => Sys2Proof.Machine.execLinkManagementFlit a0 a1 s
  | .replayTimeout a0 => Sys2Proof.Machine.execReplayTimeout a0 s
  | .loadPacket a0 a1 => Sys2Proof.Machine.execLoadPacket a0 a1 s
  | .loadResp a0 a1 => Sys2Proof.Machine.execLoadResp a0 a1 s
  | .storePacket a0 a1 => Sys2Proof.Machine.execStorePacket a0 a1 s
  | .fadd a0 a1 => Sys2Proof.Machine.execFadd a0 a1 s
  | .cas a0 a1 => Sys2Proof.Machine.execCas a0 a1 s
  | .atomicResp a0 a1 => Sys2Proof.Machine.execAtomicResp a0 a1 s
  | .complete a0 a1 => Sys2Proof.Machine.execComplete a0 a1 s
  | .reduce a0 a1 => Sys2Proof.Machine.execReduce a0 a1 s
  | .mcast a0 a1 => Sys2Proof.Machine.execMcast a0 a1 s
  | .time a0 a1 a2 => Sys2Proof.Machine.execTime a0 a1 a2 s
  | .syncHeartbeat a0 a1 => Sys2Proof.Machine.execSyncHeartbeat a0 a1 s
  | .syncCollective a0 a1 => Sys2Proof.Machine.execSyncCollective a0 a1 s
  | .badOp a0 a1 => Sys2Proof.Machine.execBadOp a0 a1 s
  | .fabRedTimeout a0 a1 => Sys2Proof.Machine.execFabRedTimeout a0 a1 s
  | .timeSend a0 => Sys2Proof.Machine.execTimeSend a0 s
  | .tc0WindowEnd a0 => Sys2Proof.Machine.execTc0WindowEnd a0 s
  | .laneLockLoss a0 => Sys2Proof.Machine.execLaneLockLoss a0 s
  | .retrain a0 => Sys2Proof.Machine.execRetrain a0 s
  | .linkTrainingDone a0 a1 => Sys2Proof.Machine.execLinkTrainingDone a0 a1 s
  | .linkDisable a0 => Sys2Proof.Machine.execLinkDisable a0 s
  | .lanesWrite a0 => Sys2Proof.Machine.execLanesWrite a0 s
  | .laneChange a0 => Sys2Proof.Machine.execLaneChange a0 s
  | .prefetchStart a0 => Sys2Proof.Machine.execPrefetchStart a0 s
  | .nopCommand a0 a1 => Sys2Proof.Machine.execNopCommand a0 a1 s
  | .copyH2D a0 a1 => Sys2Proof.Machine.execCopyH2D a0 a1 s
  | .copyD2H a0 a1 => Sys2Proof.Machine.execCopyD2H a0 a1 s
  | .startCommand a0 a1 => Sys2Proof.Machine.execStartCommand a0 a1 s
  | .haltCommand a0 a1 => Sys2Proof.Machine.execHaltCommand a0 a1 s
  | .signal a0 a1 => Sys2Proof.Machine.execSignal a0 a1 s
  | .regWrite a0 a1 => Sys2Proof.Machine.execRegWrite a0 a1 s
  | .commandBadOp a0 a1 => Sys2Proof.Machine.execCommandBadOp a0 a1 s
  | .ringDoorbell a0 a1 => Sys2Proof.Machine.execRingDoorbell a0 a1 s
  | .ringEnable a0 => Sys2Proof.Machine.execRingEnable a0 s
  | .ringDrain a0 => Sys2Proof.Machine.execRingDrain a0 s
  | .ringAbort a0 => Sys2Proof.Machine.execRingAbort a0 s
  | .cqHeadWrite a0 a1 => Sys2Proof.Machine.execCqHeadWrite a0 a1 s
  | .cqTimer a0 => Sys2Proof.Machine.execCqTimer a0 s
  | .msixUnmask a0 => Sys2Proof.Machine.execMsixUnmask a0 s
  | .irqCauseClear a0 a1 => Sys2Proof.Machine.execIrqCauseClear a0 a1 s
  | .bar2Read a0 a1 => Sys2Proof.Machine.execBar2Read a0 a1 s
  | .bar2Write a0 a1 => Sys2Proof.Machine.execBar2Write a0 a1 s
  | .ptmDialog a0 => Sys2Proof.Machine.execPtmDialog a0 s
  | .powerStateD3hot => Sys2Proof.Machine.execPowerStateD3hot s
  | .powerStateD0 => Sys2Proof.Machine.execPowerStateD0 s
  | .pcieLinkDown => Sys2Proof.Machine.execPcieLinkDown s
  | .pcieLinkUp a0 a1 a2 => Sys2Proof.Machine.execPcieLinkUp a0 a1 a2 s
  | .refclkLoss => Sys2Proof.Machine.execRefclkLoss s
  | .hostColdReset => Sys2Proof.Machine.execHostColdReset s
  | .hostWarmReset => Sys2Proof.Machine.execHostWarmReset s
  | .hostCoreReset a0 => Sys2Proof.Machine.execHostCoreReset a0 s
  | .badKey a0 a1 => Sys2Proof.Machine.execBadKey a0 a1 s
  | .coldReset a0 => Sys2Proof.Machine.execColdReset a0 s
  | .warmReset a0 a1 => Sys2Proof.Machine.execWarmReset a0 a1 s
  | .coreReset a0 a1 => Sys2Proof.Machine.execCoreReset a0 a1 s
  | .powerOn => Sys2Proof.Machine.execPowerOn s
  | .brownOut a0 => Sys2Proof.Machine.execBrownOut a0 s
  | .inputOvervoltage => Sys2Proof.Machine.execInputOvervoltage s
  | .perstAssert a0 => Sys2Proof.Machine.execPerstAssert a0 s
  | .perstDeassert a0 => Sys2Proof.Machine.execPerstDeassert a0 s
  | .watchdogExpiry a0 a1 => Sys2Proof.Machine.execWatchdogExpiry a0 a1 s
  | .thermalTrip a0 a1 => Sys2Proof.Machine.execThermalTrip a0 a1 s
  | .railsDone a0 => Sys2Proof.Machine.execRailsDone a0 s
  | .fuseLoadDone a0 => Sys2Proof.Machine.execFuseLoadDone a0 s
  | .optionLoadDone a0 => Sys2Proof.Machine.execOptionLoadDone a0 s
  | .firmwareVerifyDone a0 => Sys2Proof.Machine.execFirmwareVerifyDone a0 s
  | .lpddr6TrainingDone a0 => Sys2Proof.Machine.execLpddr6TrainingDone a0 s
  | .sweepDone a0 => Sys2Proof.Machine.execSweepDone a0 s
  | .fabricBringupDone => Sys2Proof.Machine.execFabricBringupDone s
  | .optCommit => Sys2Proof.Machine.execOptCommit s
  | .optCommitDone => Sys2Proof.Machine.execOptCommitDone s
  | .controlTick a0 => Sys2Proof.Machine.execControlTick a0 s
  | .telemetryReport a0 => Sys2Proof.Machine.execTelemetryReport a0 s
  | .ageingCheck a0 => Sys2Proof.Machine.execAgeingCheck a0 s
  | .sensorSample a0 a1 => Sys2Proof.Machine.execSensorSample a0 a1 s
  | .vcoreSlewDone a0 => Sys2Proof.Machine.execVcoreSlewDone a0 s
  | .droop a0 => Sys2Proof.Machine.execDroop a0 s
  | .droopEnd a0 a1 => Sys2Proof.Machine.execDroopEnd a0 a1 s
  | .heartbeatSend => Sys2Proof.Machine.execHeartbeatSend s
  | .loadFirmware a0 => Sys2Proof.Machine.execLoadFirmware a0 s
  | .flash a0 => Sys2Proof.Machine.execFlash a0 s
  | .go => Sys2Proof.Machine.execGo s
  | .verifyToken => Sys2Proof.Machine.execVerifyToken s
  | .close => Sys2Proof.Machine.execClose s
  | .fuse => Sys2Proof.Machine.execFuse s
  | .secCommandDone a0 => Sys2Proof.Machine.execSecCommandDone a0 s
  | .fenceSite a0 a1 => Sys2Proof.Machine.execFenceSite a0 a1 s
  | .faultLogHeadWrite a0 => Sys2Proof.Machine.execFaultLogHeadWrite a0 s
  | .drainEscalate a0 a1 => Sys2Proof.Machine.execDrainEscalate a0 a1 s
  | .cntSwap => Sys2Proof.Machine.execCntSwap s
  | .cntSwapAt => Sys2Proof.Machine.execCntSwapAt s
  | .counterSwap a0 => Sys2Proof.Machine.execCounterSwap a0 s
  | .traceMerge => Sys2Proof.Machine.execTraceMerge s
  | .traceHeadWrite a0 => Sys2Proof.Machine.execTraceHeadWrite a0 s
  | .trigger => Sys2Proof.Machine.execTrigger s
  | .hushStopped => Sys2Proof.Machine.execHushStopped s
  | .hushScanDone => Sys2Proof.Machine.execHushScanDone s
  | .hushShipDone => Sys2Proof.Machine.execHushShipDone s
  | .resume => Sys2Proof.Machine.execResume s
  | .mgmtWrite a0 => Sys2Proof.Machine.execMgmtWrite a0 s
  | .mgmtRead a0 => Sys2Proof.Machine.execMgmtRead a0 s
  | .setdasa a0 => Sys2Proof.Machine.execSetdasa a0 s
  | .entdaa a0 => Sys2Proof.Machine.execEntdaa a0 s
  | .auxPowerOn => Sys2Proof.Machine.execAuxPowerOn s
  | .powerLoss => Sys2Proof.Machine.execPowerLoss s
  | .hostReadCompletion a0 a1 => Sys2Proof.Machine.execHostReadCompletion a0 a1 s
  | .completionTimeout a0 => Sys2Proof.Machine.execCompletionTimeout a0 s
  | .configurationRequest a0 => Sys2Proof.Machine.execConfigurationRequest a0 s
  | .linkEnable a0 => Sys2Proof.Machine.execLinkEnable a0 s

end Sys2Proof.Machine
end

