-- ==== Sys2Proof/Safety.lean ====
section
/-!
DEFINITION. What a safe state is, and the words in which statements say what a command does: that it completes, which parts of the
state, which registers and which bytes it leaves alone, and when an instruction can issue.
-/
namespace Sys2Proof.Machine

/-! Safe states. -/

/-- The canonical form of the error patterns: strictly rising granules, none listed with pattern 0. -/
def Chk.wf : List (Nat × BitVec 32) → Bool
  | [] => true
  | (a, v) :: t => decide (v ≠ 0) && (match t with | [] => true | (b, _) :: _ => decide (a < b)) && Chk.wf t

/-- Reserved bits of every register word listed are zero (00 R12). -/
def RegFile.wf (l : List (RegKey × Word)) : Bool :=
  l.all (fun e => e.2 &&& BitVec.ofNat 64 e.1.reg.mask == e.2)

/-- A safe state. -/
def State.Safe (s : State) : Prop := Mem.wf s.mem = true ∧ Chk.wf s.chk = true ∧ RegFile.wf s.regs = true

/-! Completion. -/

/-- A command completes: it answers a next state, and that state satisfies `P`. -/
def Completes (c : Instr) (s : State) (P : State → Prop) : Prop := ∃ t, exec c s = .next t ∧ P t

/-! Frames. -/

/-- The parts of the state: its fields but for the queue (`memory` is what an update of bytes and error patterns together writes). -/
inductive Part where
  | regs | mem | chk | memory | sites | clusters | noc | channels | links | fabric | coll | rake | host | rst | pwr | sec | obs | mgmt | now
  | out | lost | freeCtr | want | got
deriving DecidableEq, Repr

/-- Two states agree on a part. -/
def Part.same (s t : State) : Part → Prop
  | .regs => t.regs = s.regs
  | .mem => t.mem = s.mem
  | .chk => t.chk = s.chk
  | .memory => True
  | .sites => t.sites = s.sites
  | .clusters => t.clusters = s.clusters
  | .noc => t.noc = s.noc
  | .channels => t.channels = s.channels
  | .links => t.links = s.links
  | .fabric => t.fabric = s.fabric
  | .coll => t.coll = s.coll
  | .rake => t.rake = s.rake
  | .host => t.host = s.host
  | .rst => t.rst = s.rst
  | .pwr => t.pwr = s.pwr
  | .sec => t.sec = s.sec
  | .obs => t.obs = s.obs
  | .mgmt => t.mgmt = s.mgmt
  | .now => t.now = s.now
  | .out => t.out = s.out
  | .lost => t.lost = s.lost
  | .freeCtr => t.freeCtr = s.freeCtr
  | .want => t.want = s.want
  | .got => t.got = s.got

/-- Every part but those listed is unchanged, and so is the queue of waiting commands. -/
def SameBut (l : List Part) (s t : State) : Prop := (∀ p, p ∉ l → Part.same s t p) ∧ t.pending = s.pending

/-- Every register word but those that `touched` names is unchanged. -/
def SameRegs (touched : RegKey → Bool) (s t : State) : Prop :=
  ∀ k, touched k = false → RegFile.get k t.regs = RegFile.get k s.regs

/-- Every byte of memory and every error pattern outside the granules that `touched` names (local offset ÷ 32) is unchanged. -/
def SameMemory (touched : Nat → Prop) (s t : State) : Prop :=
  (∀ a, ¬ touched (a / 32) → Mem.get a t.mem = Mem.get a s.mem) ∧ (∀ g, ¬ touched g → Chk.get g t.chk = Chk.get g s.chk)

/-- Every site but one is unchanged. -/
def SameSites (i : SiteId) (s t : State) : Prop := ∀ j : SiteId, j ≠ i → t.sites[j] = s.sites[j]

/-- The registers in which events, interrupts and fault records show: causes, held vectors, the fault log, Hush, alerts. -/
def logReg (k : RegKey) : Bool :=
  [Reg.HST_IRQ_CAUSE, .HST_SITE_CAUSE, .MSIX_PBA, .TOP_FAULT_LOG, .TOP_FAULT_PTRS, .TOP_FAULT_STATUS, .TRC_HUSH_STATUS, .TRC_HUSH_TIME,
    .MGT_ALERT].contains k.reg

/-- Channels are unchanged, but that some have left power-down (10 R278). -/
def Woken (s t : State) : Prop :=
  ∀ k : ChannelId, t.channels[k] = s.channels[k] ∨ t.channels[k] = { s.channels[k] with powerDown := false }

/-- Clusters are unchanged, but for what their slices know of the lines that LPDDR6 may hold older (01 R35, R37). -/
def CacheOnly (s t : State) : Prop := ∀ c : ClusterId, t.clusters[c] = { s.clusters[c] with llc := t.clusters[c].llc }

/-- A site is unchanged, but that an ABORT of what is in flight no longer undoes some of its writes (05 R135). -/
def SettledSite (i : SiteId) (s t : State) : Prop :=
  ∃ keep : Nat → Bool, t.sites[i] = { s.sites[i] with
    flights := s.sites[i].flights.map (fun f => { f with touched := f.touched.filter (fun e => keep e.1) }) }

/-- Every site is unchanged but for that. -/
def Settled (s t : State) : Prop := ∀ i : SiteId, SettledSite i s t

/-! Issue. -/

/-- An instruction word can issue at a site now: the core runs and is held by nothing, the instruction at its pc stands in the
instruction buffer, and no Hive take into a tile register of the word is outstanding (05 R129, R134, R135). -/
def State.issues (s : State) (i : SiteId) (w : IWord) : Bool :=
  s.canIssue i && s.sites[i].buffer.contains (s.reg .CORE_SEQ_PC i 0) && !s.takeWait i w

/-- The site and word of a command that a core's sequencer reads at its pc (05 R129, R136). -/
def fetched : Instr → Option (SiteId × IWord)
  | .nop i w | .halt i w | .fence i w | .wait i w | .mark i w | .epoch i w | .step i w | .dset i w | .dadj i w | .tset i w | .tadd i w
  | .jmp i w | .own i w | .hiveTake i w | .mma i w | .mmaT i w | .mmaProbe i w | .park i w | .unpark i w | .load i w | .store i w | .gather i w
  | .scatter i w | .scatterAdd i w | .scatterAddDrain i w | .quant i w | .requant i w | .lutmv i w | .scoutPredict i w | .scoutApply i w
  | .mow i w | .sowCand i w | .sowGrowBlock i w | .sowGrowPosition i w | .compress i w | .blkt i w | .illegalOp i w => some (i, w)
  | .allReduce i w | .reduceScatter i w | .allGather i w | .allToAll i w | .permute i w | .barrier i w | .local i w | .dispatch i w
  | .combineReturn i w | .combineAdd i w | .stageSend i w | .stageCredit i w | .hint i w => some (i, w)
  | _ => none

/-- The registers of a core that issue itself writes: the pc, the wait it ends with the peer it waited on, the counters. -/
def issueReg (i : SiteId) (k : RegKey) : Bool :=
  k.inst == i.val && [Reg.CORE_SEQ_PC, .CORE_COLL_WAIT, .CNT_PEER_LIVE, .CNT_CORE_LIVE].contains k.reg

/-- The state once a word has issued with the pc of `pc`, before its own effect: a wait ends, the counters name the instruction, unless it swaps their banks (R477), the pc
advances (05 R129, R132, 19 R472, R474). -/
def State.issued (s : State) (i : SiteId) (w : IWord) (pc : Nat) : State :=
  (((endWait i w).bind (fun _ => (tagIssue i w).bind (fun _ => setR .CORE_SEQ_PC i 0 ((pc + 16) % 2 ^ 64)))).run s).2

/-- The parts that issue itself writes. -/
def issueParts : List Part := [.regs, .obs, .freeCtr]

/-- The pc stands at the next instruction: bits [63:4], an instruction being 16 bytes (05 R129). -/
def Advances (i : SiteId) (s t : State) : Prop :=
  t.field F.CORE_SEQ_PC.ADDR i 0 = (s.field F.CORE_SEQ_PC.ADDR i 0 + 1) % 2 ^ 60

/-- An instruction waits at a core: CORE_COLL_WAIT may name what it waits on, with the instruction and the policy of a wait that begins (12
R369, R370, 20 R497); nothing else changes. -/
def Waits (i : SiteId) (w : IWord) (s t : State) : Prop :=
  SameRegs (fun k => k == ⟨.CORE_COLL_WAIT, i, 0⟩) s t ∧ SameSites i s t ∧ SameBut [.regs, .sites] s t ∧
  (t.sites[i] = s.sites[i] ∨ t.sites[i] = { s.sites[i] with
    waits := w
    policy := if s.flag F.CORE_COLL_WAIT.VALID i 0 then s.sites[i].policy else s.field F.FAB_COLL_CONFIG.WAIT_POLICY 0 0 })

/-! Instructions of the units. -/

/-- The registers of the Mower's status (07 R221). -/
def mowerReg (k : RegKey) : Bool := k.reg == .MOW_STATUS

/-- The site, word and unit of an instruction that a unit other than the arrays and COLL executes (05 R131). -/
def unitOf : Instr → Option (SiteId × IWord × CoreUnit)
  | .load i w | .gather i w => some (i, w, .dmaRd)
  | .store i w | .scatter i w | .scatterAdd i w | .scatterAddDrain i w => some (i, w, .dmaWr)
  | .quant i w | .requant i w | .lutmv i w | .scoutPredict i w | .scoutApply i w => some (i, w, .lacewing)
  | .mow i w | .sowCand i w | .sowGrowBlock i w | .sowGrowPosition i w | .compress i w | .blkt i w => some (i, w, .mower)
  | _ => none

/-- The site and word of an array instruction that runs alone: of an MMA, one that enters no row queue (04 R121). -/
def State.arrayOf (s : State) : Instr → Option (SiteId × IWord)
  | .mma i w => if s.joinsBatch false i w then none else some (i, w)
  | .mmaT i w => if s.joinsBatch true i w then none else some (i, w)
  | .mmaProbe i w | .park i w | .unpark i w => some (i, w)
  | _ => none

/-- The site and word of a COLL (12 R336). -/
def collOf : Instr → Option (SiteId × IWord)
  | .allReduce i w | .reduceScatter i w | .allGather i w | .allToAll i w | .permute i w | .barrier i w | .local i w | .dispatch i w
  | .combineReturn i w | .combineAdd i w | .stageSend i w | .stageCredit i w | .hint i w => some (i, w)
  | _ => none

/-- The queue entry that an instruction of a unit would have now. -/
def State.entryOf (s : State) (i : SiteId) (w : IWord) (u : CoreUnit) : Flight := s.flightOf i u w (s.reg .CORE_SEQ_PC i 0)

/-- The state in which an instruction begins to act: arrived at its unit and started there, with no granule of another device asked or
arrived. -/
def State.begins (s : State) (i : SiteId) (f : Flight) : State :=
  Prim.apply (.want []) (Prim.apply (.got []) (((arrived i f).bind (fun _ => started i f)).run s).2)

/-- The state in which an instruction of a unit begins to act that starts as it issues. -/
def State.acting (s : State) (i : SiteId) (w : IWord) (u : CoreUnit) : State :=
  (s.issued i w (s.reg .CORE_SEQ_PC i 0)).begins i (s.entryOf i w u)

/-- The state in which a closed batch begins to act: counted, its MMAs in flight under the number of their head, all of them started. -/
def State.batchActing (s : State) (i : SiteId) (h : Flight) : State :=
  Prim.apply (.want []) (Prim.apply (.got []) (((incF F.CORE_ARRAY_EVENTS.BATCH_TIMEOUT i 0 1).bind (fun _ =>
    (modSite i (fun x => { x with rows := [], flights := x.flights ++ x.rows.map (fun f => { f with batch := some h.seq }) })).bind
      (fun _ => Prog.each s.sites[i].rows (started i)))).run s).2)

/-- An instruction that issues enters its unit's queue, last, with the copies that its entry takes; at the Mower it stands last in the
cluster's order. -/
def Queued (i : SiteId) (u : CoreUnit) (f : Flight) (s t : State) : Prop :=
  t.sites[i] = { s.sites[i] with flights := s.sites[i].flights ++ [f] } ∧ SameSites i s t ∧ Advances i s t ∧
  (∀ c : ClusterId, t.clusters[c] =
    if u = .mower ∧ c = clusterOf i then { s.clusters[c] with mow := s.clusters[c].mow ++ [(i.val, f.seq)] } else s.clusters[c]) ∧
  SameRegs (fun k => issueReg i k || (u == .mower && mowerReg k)) s t ∧ SameBut (.sites :: .clusters :: issueParts) s t

/-- An instruction that began to act in `a`, and of which `b` is the outcome, is in flight in `t`, the last of its core: its effect made,
if `b` lacks no granule of another device or of the host, and at the Mower its status shown (07 R221); else nothing of it is, and it awaits
those granules, a GATHER each as often as its hold does not serve it. -/
def Acted (i : SiteId) (f : Flight) (a b t : State) : Prop :=
  let asks := f.asks b.want
  (b.want = [] → (∃ g, t.sites[i] = { b.sites[i] with flights := b.sites[i].flights ++ [g] } ∧ g.phase = .done ∧
      { g with phase := f.phase, touched := f.touched } = f) ∧ SameSites i b t ∧
    SameRegs (fun k => f.unit == .mower && mowerReg k) b t ∧ SameBut [.sites, .regs, .got, .want] b t) ∧
  (b.want ≠ [] → t.sites[i] = { a.sites[i] with flights := a.sites[i].flights ++ [{ f with
      phase := .remote asks [], unasked := asks.filter (fun x => a.cutFrom (siteStop i) x && !a.isLocal x) }] } ∧
    SameSites i a t ∧ SameBut [.sites, .regs, .links, .fabric, .host, .out, .freeCtr, .want, .got] a t)

/-- A granule of LPDDR6 that reads clean: it is available to jobs, its channel has not failed, no line of its sub-channel is erased, and
its code is valid. -/
def State.readsClean (s : State) (off : Nat) : Bool :=
  decide (off < 0x013F80000000) && !s.flag F.MEM_CH_STATUS.FAILED (channelOf off) 0 && (s.erased off).isNone && (s.stored off).err == 0

/-- What a core has in flight is in order: its instructions have numbers of their own, no two takes write one tile register, and an open
batch holds array instructions alone (05 R131, R134, 04 R121). -/
def Site.Ordered (x : Site) : Prop :=
  ((x.flights ++ x.rows).map (·.seq)).Nodup ∧ (x.takes.map (·.tn)).Nodup ∧ ∀ f ∈ x.rows, f.unit = .arrays

/-- What every core has in flight is in order. -/
def State.Ordered (s : State) : Prop := ∀ i : SiteId, s.sites[i].Ordered

/-! What bodies leave. -/

/-- A descriptor of `n` elements of one byte each, one after another from an address on. -/
def Desc.row (d : Desc) (addr n : Nat) : Prop :=
  d.ok = true ∧ d.sparse = 0 ∧ d.rank = 1 ∧ nth d.ext 0 1 = n ∧ nth d.cap 0 1 = n ∧ nth d.str 0 0 = 1 ∧ d.fmt!.width = 8 ∧ d.base = addr

/-- `n` bytes from offset `x` on in a scratch bank of a site that DMA owns, in one sound granule. -/
def State.dmaBytes (s : State) (i : SiteId) (x n : Nat) : Prop :=
  x < 0x200000 ∧ x % 32 + n ≤ 32 ∧ s.owns .dma i (x / 0x10000) = true ∧ (s.stored (windowBase i.val + x / 32 * 32)).err = 0

/-- The bytes `x` to `x + n - 1` of a site's window are copied to `y` on: nothing else of memory, and no register, changes. -/
def CopiesRow (i : SiteId) (x y n : Nat) (s t : State) : Prop :=
  let from_ := windowBase i.val + x / 32 * 32
  let to_ := windowBase i.val + y / 32 * 32
  (∀ k, k < n → nth (t.stored to_).data (y % 32 + k) 0 = nth (s.stored from_).data (x % 32 + k) 0) ∧
  (∀ j, j < y % 32 ∨ y % 32 + n ≤ j → nth (t.stored to_).data j 0 = nth (s.stored to_).data j 0) ∧ (t.stored to_).err = 0 ∧
  SameMemory (fun b => b = to_ / 32) s t ∧ SameRegs (fun _ => false) s t ∧ SameBut [.regs, .mem, .chk] s t

/-- A format error of an instruction (02 R48): its first is recorded with its opcode and slot, and it reads and writes nothing. -/
def FormatErrs (i : SiteId) (f : Flight) (slot : Nat) (s t : State) : Prop :=
  t.flag F.CORE_ERROR_RECORD.VALID i 0 = true ∧
  (s.flag F.CORE_ERROR_RECORD.VALID i 0 = false → t.field F.CORE_ERROR_RECORD.KIND i 0 = 1 ∧
    t.field F.CORE_ERROR_RECORD.OPCODE i 0 = wOpcode f.word ∧ t.field F.CORE_ERROR_RECORD.SLOT i 0 = slot) ∧
  SameRegs (fun k => logReg k || (k.inst == i.val && [Reg.CORE_ERROR_RECORD, .CORE_ERROR_WHERE, .CORE_ERROR_PC].contains k.reg)) s t ∧
  SameBut [.regs, .out] s t

/-- The local offset of a tile of 32-bit accumulators (04 R112). -/
def tileAt (i : SiteId) (k : Fin 4) (tile : Nat) : Nat := windowBase i.val + 0x200000 + 0x20000 * k.val + 4096 * tile

/-- The active tile of an array that a tile index names (04 R113). -/
def State.activeTile (s : State) (i : SiteId) (k : Fin 4) (idx : Nat) : Option Active :=
  s.sites[i].arrays[k].act.filter (fun c => c.tile == tileOf c.mode c.int idx)

/-- PARK (04 R116): the tiles of 32-bit accumulators that are active and named are written to their bytes through the transfer registers,
and their arrays have no active tile; every other array of the core, and every other byte, stays. -/
def Parks (i : SiteId) (w : IWord) (s t : State) : Prop :=
  let parked (k : Fin 4) : Option Active := if k ∈ arraysOf w then s.activeTile i k (wTile w) else none
  (∀ k c, parked k = some c →
    (∀ e j, e < 1024 → j < 4 → Mem.get (tileAt i k c.tile + 4 * e + j) t.mem = some (nth (toBytes 4 (nth c.cells e 0).toNat) j 0)) ∧
    t.sites[i].arrays[k].act = none ∧
    t.sites[i].arrays[k].xfer = { busy := true, dir := true, held := false, tile := c.tile, cells := [] }) ∧
  (∀ k, parked k = none → t.sites[i].arrays[k] = s.sites[i].arrays[k]) ∧
  SameMemory (fun b => ∃ k c, parked k = some c ∧ tileAt i k c.tile ≤ 32 * b ∧ 32 * b < tileAt i k c.tile + 4096) s t ∧
  SameSites i s t ∧ SameRegs (fun q => q == ⟨.CORE_ARRAY_STATUS, i, 0⟩) s t ∧ SameBut [.regs, .mem, .chk, .sites] s t

/-- UNPARK in WIDE (04 R116): the accumulators of the named tile are loaded into the transfer registers of each array named whose active
tile it is not; every other array of the core, and every byte, stays. -/
def Unparks (i : SiteId) (w : IWord) (s t : State) : Prop :=
  let tile := wideTile (wTile w)
  let loads (k : Fin 4) : Prop := k ∈ arraysOf w ∧ ∀ c, s.sites[i].arrays[k].act = some c → c.tile ≠ tile
  (∀ k, loads k → ∃ cells, t.sites[i].arrays[k] = { s.sites[i].arrays[k] with
      xfer := { busy := true, dir := false, held := false, tile := tile, cells := cells } } ∧ cells.length = 1024 ∧
    ∀ e, e < 1024 → nth cells e none = some (BitVec.ofNat 32 (leAt (s.stored (tileAt i k tile + 32 * (e / 8))).data (4 * (e % 8)) 4))) ∧
  (∀ k, ¬ loads k → t.sites[i].arrays[k] = s.sites[i].arrays[k]) ∧
  SameSites i s t ∧ SameRegs (fun q => q == ⟨.CORE_ARRAY_STATUS, i, 0⟩) s t ∧ SameBut [.regs, .sites] s t

/-! Collectives in execution (12 R340). -/

/-- The completion record of a collective (12 R345). -/
def CollRun.ending (r : CollRun) (layout now : Nat) : List Byte :=
  toBytes 4 r.flight.step ++ toBytes 1 r.status ++ toBytes 1 r.op ++ zeroBytes 2 ++ toBytes 4 layout ++ toBytes 4 r.poison ++
    toBytes 8 now ++ zeroBytes 8

/-- Whether all of a collective that is its own has been done: its contributions made and sent, its results landed, its packets
accepted, its barrier released (12 R340). -/
def State.workDone (s : State) (r : CollRun) : Prop :=
  match r.op with
  | 0 | 1 | 2 => r.todo = [] ∧ r.casts = [] ∧ r.landedAll = true
  | 3 => s.collOpen r.id = false
  | 5 => ∃ k, s.coll.keys.find? (fun k => r.bkey == some (k.tag, k.seq, k.round)) = some k ∧ k.done.isSome = true
  | 6 => r.landedAll = true
  | 8 | 10 => s.collHeld r.id = false ∧ s.collInserts r = false
  | _ => False

/-- The only collective in execution, at its own work in its last round, with no fingerprints to exchange and no header to write. -/
def State.lone (s : State) (r : CollRun) : Prop :=
  s.coll.runs = [r] ∧ s.coll.queue = [] ∧ s.fabric.stalls = [] ∧ s.hushed = false ∧ r.bg = false ∧ r.ended = false ∧ r.stage = 0 ∧
  lastRound r.trees ≤ r.round ∧ r.fpPtr = 0 ∧ r.grad = false ∧ r.nfs = []

/-- A collective completes (12 R340, R345, R373): it is gone, its record stands where it asks for one, its signal is given, its counts
show. -/
def CollCompletes (r : CollRun) (s t : State) : Prop :=
  t.coll.runs = [] ∧ t.field F.FAB_COLL_STATUS.ACTIVE 0 0 = 0 ∧ t.flag F.FAB_COLL_STATUS.BUSY 0 0 = false ∧
  t.field F.FAB_COLL_STATUS.LAST_STATUS 0 0 = r.status ∧
  t.field F.FAB_COLL_EVENTS.COMPLETED 0 0 = min F.FAB_COLL_EVENTS.COMPLETED.top (s.field F.FAB_COLL_EVENTS.COMPLETED 0 0 + 1) ∧
  t.field F.FAB_COLL_EVENTS.ERRORS 0 0 =
    min F.FAB_COLL_EVENTS.ERRORS.top (s.field F.FAB_COLL_EVENTS.ERRORS 0 0 + (if r.status = 0 then 0 else 1)) ∧
  ((r.w 5).testBit 29 = true → ∀ i, s.siteOf r.core = some i →
    t.field F.CORE_CC.VALUE i r.cc = (s.field F.CORE_CC.VALUE i r.cc + 1) % 2 ^ 32) ∧
  (r.statusPtr ≠ 0 → t.stored r.statusPtr = .valid (r.ending (s.field F.FAB_LAYOUT.EPOCH 0 0) s.now))

/-- The table address of entry k of a DSET (05 R139, R144). -/
def State.entryAt (s : State) (i : SiteId) (w : IWord) (k : Nat) : Nat := (s.reg .CORE_DESC_TABLE i 0 + 64 * (wf w 55 32 + k)) % 2 ^ 64

/-! Registers. -/

/-- A register whose write is a command or has an effect of its own. -/
def Reg.command (r : Reg) : Bool :=
  [Reg.CORE_SEQ_CTRL, .CORE_DESC_SLOT, .CORE_ERROR_RECORD, .TOP_FENCE_CMD, .TOP_FAULT_PTRS, .RAKE_RING_PTRS, .RAKE_CTRL, .MEM_SCRUB_CTRL,
    .MEM_FILL_CTRL, .FAB_CONFIG, .FAB_TIME_CONFIG, .FAB_ROUTE_DEV, .FAB_LINK_CTRL, .RST_CMD, .HST_IRQ_CAUSE, .HST_SITE_CAUSE,
    .HST_RING_PTRS, .HST_CQ_PTRS, .HST_RING_CTRL, .MSIX_CTRL, .OPT_CTRL, .SEC_FW_CTRL, .SEC_ATT_CTRL, .SEC_DBG_CTRL, .SEC_OWNER_CTRL,
    .SEC_TOKEN, .CNT_CMD, .TRC_RING_CTRL, .TRC_RING_PTRS, .TRC_HUSH_CTRL, .TRC_HUSH_MARK, .TRC_HUSH_SHIP].contains r

/-- Whether what a unit is doing locks a register against writes, for instance i (05 R163, 08 R239, 09 R275, 10 R291, 14 R387, 15 R412,
17 R452, 19 R495): a core-block register of a fenced site, or of a core that is not halted; the bases and sizes of rings and regions in
use; the option stage during a commit; a fused owner key. -/
def State.locked (s : State) (r : Reg) (i : Nat) : Bool :=
  if r.place.insts = 144 then
    (s.reg .TOP_FENCED 0 (i / 64)).testBit (i % 64) ||
      ([Reg.CORE_SEQ_PC, .CORE_SEQ_STEP, .CORE_TILE_REGS, .CORE_CC].contains r && s.field F.CORE_SEQ_STATUS.STATE i 0 != 0)
  else match r with
  | .ANT_SPILL_BASE | .ANT_SPILL_LIMIT | .ANT_SORT_BASE => s.field F.ANT_STATUS.FILL i 0 != 0
  | .RAKE_RING_BASE | .RAKE_RING_SIZE => s.flag F.RAKE_STATUS.BUSY 0 0
  | .MEM_FILL_BASE => s.flag F.MEM_FILL_CTRL.BUSY 0 0
  | .HST_RING_BASE | .HST_CQ_BASE => s.flag F.HST_RING_CTRL.ENABLE i 0
  | .OPT_STAGE => s.field F.OPT_STATUS.STAGE 0 0 == 1
  | .SEC_OWNER_KEY => s.flag F.SEC_STATUS.OWNER_SET 0 0
  | .TRC_RING_BASE => s.flag F.TRC_RING_CTRL.ENABLE 0 0
  | _ => false

/-- A register word as a write of `v` through the bits `m` leaves it (00 R10): bit by bit, an RW bit takes the bit written, a W1C bit
that a one is written to is 0, every other bit stays. -/
def Written (r : Reg) (i j v m : Nat) (s t : State) : Prop :=
  ∀ b, b < 64 → (t.reg r i j).testBit b =
    if m.testBit b && (accMask r .rw).testBit b then v.testBit b
    else (s.reg r i j).testBit b && !(m.testBit b && (accMask r .w1c).testBit b && v.testBit b)

/-- The bits that a read of a register clears: those of its RC fields that the access reaches whole (00 R11). -/
def rcMask (r : Reg) (h : Half) : Nat :=
  (r.fields.filter (fun f => f.acc == .rc && f.within h)).foldl (fun m f => m ||| place f.hi f.lo (2 ^ (f.hi + 1 - f.lo) - 1)) 0

/-- Registers of errors, counts and interrupts, by the register that an event sets. -/
def eventReg (r : Reg) (k : RegKey) : Bool := k.reg == r || [Reg.HST_IRQ_CAUSE, .MSIX_PBA].contains k.reg

/-- A host's write of a register word would act now: it reaches the device and the register, BAR0 decodes it, and Hush does not hold it (01
R17, 14 R378, R389, 15 R404, 19 R493; that it needs Memory Space Enable is log 64). -/
def State.accepts (s : State) (r : Reg) (i j : Nat) : Bool :=
  s.hostUp && !s.registerCut (r.addr i j) && s.decodes (r.addr i j) && s.mayWrite (r.addr i j)

/-- A packet of the network is discarded at a stop: its bit and the stop in TOP_NOC_ERROR, one more in TOP_NOC_DROP_COUNT (01 R45, R46). -/
def NocDropped (f : Field) (stop : Nat) (s t : State) : Prop :=
  t.flag f 0 0 = true ∧ t.field F.TOP_NOC_ERROR.LAST_STOP 0 0 = stop ∧
  t.field F.TOP_NOC_DROP_COUNT.COUNT 0 0 = min F.TOP_NOC_DROP_COUNT.COUNT.top (s.field F.TOP_NOC_DROP_COUNT.COUNT 0 0 + 1) ∧
  SameRegs (fun k => eventReg .TOP_NOC_ERROR k || k.reg == .TOP_NOC_DROP_COUNT) s t

/-! The Rake. -/

/-- The operation of a command of the Rake's table (09 R259), 5 standing for the rest. -/
def rakeOp : Instr → Option Nat
  | .update => some 1 | .prep => some 2 | .seal => some 3 | .verify => some 4 | .rakeBadOp => some 5 | _ => none

/-- What a command of the Rake finds as it starts, past its ring entry: its shard, the committed state, and the state after the record is
read (09 R261). -/
def State.rakeShard (s : State) (r : RakeRun) : Option (Shard × Option Commit) × State := (readShard rakeReq (nth r.cmd 1 0).toNat).run s

/-- The status that ends a command of the Rake before it writes anything, if one does (09 R261): 8 a granule of it or of its shard not
correctable, 5 no operation, 6 a rule that it cannot follow, 3 nothing committed or a gap of steps, 1 a step already taken. -/
def State.rakeEarly (s : State) (r : RakeRun) : Option Nat :=
  let op := fld (nth r.cmd 0 0).toNat 63 56
  let step := fld (nth r.cmd 0 0).toNat 31 0
  if r.bad then some 8
  else if op = 0 || decide (4 < op) then some 5
  else match (s.rakeShard r).1 with
    | none => some 8
    | some (h, t) =>
      if h.badRule then some 6
      else if op = 3 then none
      else if op = 2 && h.rule != 5 then some 6
      else match t with
        | none => some 3
        | some t => if op = 4 then none else if step ≤ t.step then some 1 else if t.step + 1 ≠ step then some 3 else none

/-- Whether the Rake, once it may go on, finds no command to take: one in execution, a drain, Hush, or an empty ring (09 R275). -/
def State.rakeStill (s : State) : Prop :=
  s.rake.run ≠ none ∨ s.rake.draining = true ∨ s.hushed = true ∨
    s.field F.RAKE_RING_PTRS.HEAD 0 0 % s.rakeSize = s.field F.RAKE_RING_PTRS.TAIL 0 0 % s.rakeSize

/-! Memory. -/

/-- An offset of LPDDR6 that a requester may read as it stands: available to jobs, its channel working, no line of it erased. -/
def State.plainGran (s : State) (off : Nat) : Bool :=
  decide (off < 0x013F80000000) && !s.flag F.MEM_CH_STATUS.FAILED (channelOf off) 0 && (s.erased off).isNone

/-- The local offset of a scratchpad granule of a site, its number taken modulo 65,536 (01 R25). -/
def scratchGran (i : SiteId) (g : Nat) : Nat := windowBase i.val + 32 * (g % 65536)

/-- A site whose scratchpad granules `g` to `g + n - 1` the network may write: not fenced, their banks owned by DMA. -/
def State.takesGrans (s : State) (i : SiteId) (g n : Nat) : Prop :=
  s.deaf i = false ∧ ∀ k, k < n → s.owns .dma i ((g + k) % 65536 / 2048) = true

/-! The fabric. -/

/-- The input, the packet and the OP of an address-routed packet command; 11 stands for a reserved OP. -/
def fabricCmd : Instr → Option (Option LinkId × Packet × Nat)
  | .loadPacket l p => some (l, p, 0)
  | .loadResp l p => some (l, p, 1)
  | .storePacket l p => some (l, p, 2)
  | .fadd l p => some (l, p, 3)
  | .cas l p => some (l, p, 4)
  | .atomicResp l p => some (l, p, 5)
  | .complete l p => some (l, p, 6)
  | .syncHeartbeat l p | .syncCollective l p => some (l, p, 10)
  | .badOp l p => some (l, p, 11)
  | _ => none

/-- A packet of an OP arrives by an input that is up, well formed, and its way leads here; `q` is what is left of it, its VIA settled. -/
def State.takesPacket (s : State) (l : Option LinkId) (p : Packet) (op : Nat) (q : Packet) : Prop :=
  s.inputUp l = true ∧ pBad p = false ∧ pOp p = op ∧ s.route p = (.here, q)

/-- A tree packet of an OP arrives by an input that is up, well formed. -/
def State.takesTree (s : State) (l : Option LinkId) (p : Packet) (op : Nat) : Prop :=
  s.inputUp l = true ∧ pBad p = false ∧ pOp p = op

/-- A packet or signal of the fabric is discarded: its bit of FAB_ERROR, one more in FAB_DROP_COUNT, nothing else (11 R334). -/
def Dropped (f : Field) (s t : State) : Prop :=
  t.flag f 0 0 = true ∧ t.field F.FAB_DROP_COUNT.COUNT 0 0 = min F.FAB_DROP_COUNT.COUNT.top (s.field F.FAB_DROP_COUNT.COUNT 0 0 + 1) ∧
  SameRegs (fun k => eventReg .FAB_ERROR k || k.reg == .FAB_DROP_COUNT) s t ∧ SameBut [.regs, .out] s t

/-- A packet's signal, if it carries one, is for a present core whose site is not fenced and whose clock Hush has not stopped. -/
def State.signalOk (s : State) (w2 : Nat) : Prop :=
  w2.testBit 63 = true → ∃ i, s.siteOf (fld w2 62 56) = some i ∧ s.deaf i = false ∧ s.hushed = false

/-- The completion counter that a packet's signal names is one more, modulo 2^32, and no other register has changed. -/
def Signalled (w2 : Nat) (s t : State) : Prop :=
  (∀ i, w2.testBit 63 = true → s.siteOf (fld w2 62 56) = some i →
    t.field F.CORE_CC.VALUE i (fld w2 55 52) = (s.field F.CORE_CC.VALUE i (fld w2 55 52) + 1) % 2 ^ 32) ∧
  SameRegs (fun k => w2.testBit 63 && k.reg == .CORE_CC && k.idx == fld w2 55 52) s t

/-! The host. -/

/-- A ring executes a command, of which nothing has failed yet; `rest` waits behind it. -/
def State.executes (s : State) (r : RingId) (c : RingCmd) (rest : List RingCmd) : Prop :=
  s.flag F.HST_RING_CTRL.BUSY r 0 = true ∧ s.host.rings[r].queue = c :: rest ∧ s.host.rings[r].status = 0 ∧ s.host.rings[r].detail = 0

/-- The operation of a ring command (14 R383). -/
def ringOp (c : RingCmd) : Nat := fld c.w0.toNat 63 56

/-- The record of a command (14 R385), with the phase of its queue. -/
def ringBytes (r : RingId) (c : RingCmd) (status detail now : Nat) (phase : Bool) : List Byte :=
  toBytes 4 (fld c.w0.toNat 31 0) ++ toBytes 1 status ++ toBytes 1 (ringOp c) ++ toBytes 1 (b2n phase) ++ toBytes 1 r.val ++
    toBytes 8 now ++ toBytes 8 detail ++ zeroBytes 8

/-- A command of a ring has completed with a status and a detail: it has left the ring, LAST_STATUS shows the status, and its record is
written to the queue, if it asks for one or its status is not OK and the queue has room; a draining ring is disabled (14 R384 to R387). -/
def RingDone (r : RingId) (c : RingCmd) (rest : List RingCmd) (status detail : Nat) (s t : State) : Prop :=
  let n := s.cqSize r
  let tail := s.field F.HST_CQ_PTRS.TAIL r 0 % n
  t.field F.HST_RING_CTRL.LAST_STATUS r 0 = status ∧
  (s.host.rings[r].draining = false → t.host.rings[r].queue = rest ∧ (rest = [] → t.flag F.HST_RING_CTRL.BUSY r 0 = false)) ∧
  (s.host.rings[r].draining = true → t.host.rings[r].queue = [] ∧ t.flag F.HST_RING_CTRL.ENABLE r 0 = false ∧
    t.flag F.HST_RING_CTRL.BUSY r 0 = false) ∧
  (c.w0.toNat.testBit 54 = true ∨ status ≠ 0 → (tail + 1) % n ≠ s.field F.HST_CQ_PTRS.HEAD r 0 % n →
    Out.hostWrite (4096 * s.field F.HST_CQ_BASE.BASE r 0 + 32 * tail) (ringBytes r c status detail s.now s.host.rings[r].phase) false ∈ t.out)

/-- Reads of host memory that a command asks for: each waits or is under way; with none waiting before, as many as tags are free are sent,
in order, and leave the device while its link is up (14 R376, R391). -/
def HostAsked (qs : List HRead) (s t : State) : Prop :=
  let free := 768 - s.host.reads.length
  (∀ q ∈ qs, q ∈ t.host.waiting ++ t.host.reads) ∧ t.host.nextTag = s.host.nextTag + qs.length ∧
  (s.host.waiting = [] → t.host.reads = s.host.reads ++ qs.take free ∧ t.host.waiting = qs.drop free ∧
    t.out = s.out ++ (if s.host.linkUp then (qs.take free).map (fun q => .hostRead q.tag q.addr q.len) else []))

/-- The reads of `len` bytes of host memory from `addr`, to go to `dest`, each of at most the read size in use (14 R376, R384). -/
def State.readsOf (s : State) (o : Origin) (addr len dest : Nat) : List HRead :=
  let n := s.host.readSize
  (List.range (ceilDiv len n)).map (fun k =>
    ⟨s.host.nextTag + k, o, addr + n * k, min n (len - n * k), dest + n * k, n * k / 4096⟩)

/-- What the completion of a ring command alone changes: registers of the rings and held vectors, the rings and the reads of their next
commands, messages. -/
def RingOnly (s t : State) : Prop :=
  SameRegs (fun k => [Reg.HST_RING_CTRL, .HST_RING_PTRS, .HST_CQ_PTRS, .MSIX_PBA].contains k.reg) s t ∧ SameBut [.regs, .host, .out] s t

/-- The sites of the present cores that a ring command names among those of its ring's set. -/
def State.named (s : State) (r : RingId) (c : RingCmd) : List SiteId :=
  ((onesOf 128 (c.w4.toNat + c.w5.toNat <<< 64)).filter (fun k => decide (128 ≤ k + s.sliceSize) == (r.val == 15))).filterMap s.siteOf

/-- An interrupt vector is sent: at once, or held in its pending bit while it is masked, in D3hot or without a link (14 R389). -/
def Sent (v : Nat) (s t : State) : Prop :=
  if s.flag F.MSIX_CTRL.MASK 0 v || s.host.d3 || !s.host.linkUp then (t.reg .MSIX_PBA 0 (v / 64)).testBit (v % 64) = true
  else t.out = s.out ++ [.msix v (s.field F.MSIX_ADDR.ADDR 0 v) (s.field F.MSIX_CTRL.DATA 0 v)]

/-! Resets. -/

/-- A reset of the device that a command brings about in a state: its source, whether its kind is warm where it finds the device ready,
whether it begins at phase 1, the straps it finds, and the lines of the caches that it loses where they are dirty (15 R406, R413). A rail
that fails in phase 1 is none (15 R403; the model's choice, log 168). -/
def resetOf (s : State) : Instr → Option (Nat × Bool × Bool × BitVec 4 × List (BitVec 34))
  | .coldReset st => if s.rst.requests.contains 0 then some (4, false, false, st, []) else none
  | .warmReset st ls => if s.rst.requests.contains 1 then some (4, true, false, st, ls) else none
  | .watchdogExpiry st ls => some (5, true, false, st, ls)
  | .perstAssert ls => if s.rst.perst then none else some (3, !s.flag F.RST_CTRL.PERST_KIND 0 0, false, 0, ls)
  | .brownOut none => some (2, false, true, 0, [])
  | .brownOut (some _) | .inputOvervoltage => if s.phaseMet = 1 then none else some (2, false, true, 0, [])
  | .thermalTrip _ temp => if 480 ≤ temp.toInt then some (6, false, true, 0, []) else none
  | _ => none

/-- Registers that a reset of the device need not leave at their reset values: those it keeps, its cause and straps, the phase it begins,
a fresh challenge, and the record of lines lost. -/
def afterReset (warm : Bool) (r : Reg) : Bool :=
  [Reg.RST_CAUSE, .RST_STRAPS, .RST_PHASE, .MGT_ALERT, .MGT_STATE, .SEC_DBG_CHALLENGE, .TOP_FAULT_LOG, .TOP_FAULT_PTRS].contains r ||
    (warm && [Reg.MEM_CH_STATUS, .MEM_TRAIN_STATUS, .CORE_PWR_STATUS].contains r)

/-- A register word at its reset value. -/
def AtReset (k : RegKey) (t : State) : Prop := RegFile.get k t.regs = BitVec.ofNat 64 k.reg.resetVal

/-- Every unit beside its registers, memory and its channels is as after power-on. -/
def UnitsClear (t : State) : Prop :=
  (∀ i : SiteId, t.sites[i] = {}) ∧ (∀ c : ClusterId, t.clusters[c] = {}) ∧
  (∀ l : LinkId, t.links[l] = {}) ∧ t.noc = {} ∧ t.fabric = {} ∧ t.coll = {} ∧ t.rake = {} ∧ t.obs = {}

/-- The scratch banks and accumulator memory of a site read as zero (15 R405). -/
def Swept (i : SiteId) (t : State) : Prop := ∀ a, windowBase i.val ≤ a → a < windowBase i.val + 0x280000 → Mem.get a t.mem = some 0

/-- A site holds back no work of others: no hint is armed at its core, and no other core has an instruction at its cluster's Mower. -/
def State.alone (s : State) (i : SiteId) : Prop := s.sites[i].hint = none ∧ ∀ m ∈ s.clusters[clusterOf i].mow, m.1 = i.val

/-- The collective engine holds nothing, and nothing waits for it. -/
def State.collIdle (s : State) : Prop := s.coll.queue = [] ∧ s.coll.runs = [] ∧ s.fabric.stalls = []

end Sys2Proof.Machine
end

