-- ==== Sys2Proof/Certificates/Slice0/Obligations.lean ====
section
/-!
DEFINITION. The statements for the provers, family by family of the opcode table. Each is a rule of the spec, or follows from the
sections that its entry in OBLIGATIONS.json cites; where one rests on a choice of the model its docstring says so.
-/
open Sys2Proof Sys2Proof.Machine

/-! The block. -/

/-- A step runs exec of the command at the front of the queue on the state with the queue's rest. -/
def Obligations.StepRunsFront : Prop :=
  ∀ (c : Instr) (cs : List Instr) (s : State), s.pending = c :: cs → step s = exec c { s with pending := cs }

/-- With no command waiting one always-on tick of 5 ns passes; where no stop of the network holds packets of arrival order in its cycle,
nothing else changes but that the cycle in which resets are weighed against each other is over. That a tick stands where a block would
idle is the model's choice (log 10), and so is that the two cycles end with it (logs 22, 115). -/
def Obligations.EmptyQueueTicks : Prop :=
  ∀ s : State, s.pending = [] →
    (∃ t, step s = .next t) ∧
    (s.noc.cycle = [] → ∃ t, step s = .next t ∧ t.now = s.now + 5 ∧ t.rst = { s.rst with cycle := none } ∧ SameBut [.now, .rst] s t)

/-- No command stops the block, and none touches the queue. -/
def Obligations.CommandsComplete : Prop :=
  ∀ (c : Instr) (s : State), Completes c s (fun t => t.pending = s.pending)

/-- After reset memory and error patterns are canonical, reserved register bits are zero, and what every core has in flight is in order. -/
def Obligations.ResetIsSafe : Prop := State.reset.Safe ∧ State.reset.Ordered

/-- Every step keeps memory and error patterns canonical and reserved register bits zero (00 R12, R13); what has left the device is never
taken back, and neither count of draws and losses falls. -/
def Obligations.StepKeepsSafe : Prop :=
  ∀ s t : State, s.Safe → step s = .next t →
    t.Safe ∧ (∃ sent, t.out = s.out ++ sent) ∧ s.freeCtr ≤ t.freeCtr ∧ s.lost ≤ t.lost

/-! The sequencer's own instructions (05 R139). -/

/-- NOP, STEP, TSET, TADD, JMP and OWN issue and do nothing but this: STEP sets the current step or adds to it modulo 2^32, the mask epoch
staying; TSET writes V and TADD adds it modulo 2^32 in tile register n, the other seven staying; JMP goes to its own address + 16 × OFFSET
where its condition holds, the instruction buffer discarded if it does not hold the target, else on (05 R130); OWN gives every bank of its mask the owner and core of the word and leaves every other bank. -/
def Obligations.SequencerInstructions : Prop :=
  ∀ (i : SiteId) (w : IWord) (s : State), s.issues i w = true →
    let on (touched : RegKey → Bool) (t : State) : Prop := SameRegs (fun k => issueReg i k || touched k) s t ∧ SameBut issueParts s t
    let n := wf w 66 64
    let tile (v : Nat) (t : State) : Prop := t.tileReg i n = v % 2 ^ 32 ∧ (∀ m, m < 8 → m ≠ n → t.tileReg i m = s.tileReg i m) ∧
      Advances i s t ∧ on (fun k => k == ⟨.CORE_TILE_REGS, i, n / 2⟩) t
    Completes (.nop i w) s (fun t => Advances i s t ∧ on (fun _ => false) t) ∧
    Completes (.step i w) s (fun t =>
      t.field F.CORE_SEQ_STEP.STEP i 0 = ((if wb w 119 then s.field F.CORE_SEQ_STEP.STEP i 0 else 0) + wf w 63 32) % 2 ^ 32 ∧
      t.field F.CORE_SEQ_STEP.EPOCH i 0 = s.field F.CORE_SEQ_STEP.EPOCH i 0 ∧
      Advances i s t ∧ on (fun k => k == ⟨.CORE_SEQ_STEP, i, 0⟩) t) ∧
    Completes (.tset i w) s (tile (wf w 63 32)) ∧ Completes (.tadd i w) s (tile (s.tileReg i n + wf w 63 32)) ∧
    Completes (.jmp i w) s (fun t =>
      let to_ := wrap 64 ((s.reg .CORE_SEQ_PC i 0 : Int) + 16 * sext 32 (wf w 63 32))
      (jmpTaken (wf w 113 112) (s.tileReg i n) = true → t.field F.CORE_SEQ_PC.ADDR i 0 = fld to_ 63 4 ∧
        t.sites[i] = (if s.sites[i].buffer.contains to_ then s.sites[i] else { s.sites[i] with buffer := [] })) ∧
      (jmpTaken (wf w 113 112) (s.tileReg i n) = false → Advances i s t ∧ t.sites[i] = s.sites[i]) ∧
      SameSites i s t ∧ SameRegs (issueReg i) s t ∧ SameBut (.sites :: issueParts) s t) ∧
    Completes (.own i w) s (fun t =>
      (∀ b, b < 32 → (wf w 63 32).testBit b = true →
        t.field F.CORE_BANK_OWNER.OWNER i b = wf w 74 72 ∧ t.field F.CORE_BANK_OWNER.CORE i b = wf w 70 64) ∧
      (∀ b, b < 32 → (wf w 63 32).testBit b = false → t.reg .CORE_BANK_OWNER i b = s.reg .CORE_BANK_OWNER i b) ∧
      Advances i s t ∧ on (fun k => k.reg == .CORE_BANK_OWNER && k.inst == i.val) t)

/-- EPOCH, once no array or Mower instruction of the core is in flight, sets the mask epoch and drops the resident weights; with one in
flight it waits, changing nothing. -/
def Obligations.EpochSetsEpoch : Prop :=
  ∀ (i : SiteId) (w : IWord) (s : State), s.issues i w = true →
    (s.sites[i].inFlight .arrays = [] → s.sites[i].inFlight .mower = [] →
      Completes (.epoch i w) s (fun t =>
        t.field F.CORE_SEQ_STEP.EPOCH i 0 = wf w 63 32 ∧ t.field F.CORE_SEQ_STEP.STEP i 0 = s.field F.CORE_SEQ_STEP.STEP i 0 ∧
        t.sites[i] = { s.sites[i] with resident := none } ∧ SameSites i s t ∧
        Advances i s t ∧ SameRegs (fun k => issueReg i k || k == ⟨.CORE_SEQ_STEP, i, 0⟩) s t ∧ SameBut (.sites :: issueParts) s t)) ∧
    (¬ (s.sites[i].inFlight .arrays = [] ∧ s.sites[i].inFlight .mower = []) → exec (.epoch i w) s = .next s)

/-- With no batch open, WAIT passes where the counter has reached VALUE, subtracting it under CONSUME; else it waits: the pc, the counter
and every other register but CORE_COLL_WAIT stay. FENCE passes with nothing of the units it names in flight and, under VIS, no write of
those units unseen; with an instruction of them in flight it waits likewise, and under VIS it waits, the host windows that its units wrote
being flushed, until nothing of them is unseen (14 R392). Either closes an open batch first, and then does what it does with none (04
R121). -/
def Obligations.WaitAndFencePass : Prop :=
  ∀ (i : SiteId) (w : IWord) (s : State), s.issues i w = true →
    let closed := ((closeBatch i false).run s).2
    (closed.issues i w = true → closed.sites[i].rows = [] → closed.reg .CORE_SEQ_PC i 0 = s.reg .CORE_SEQ_PC i 0 →
      exec (.wait i w) s = exec (.wait i w) closed ∧ exec (.fence i w) s = exec (.fence i w) closed) ∧
    (s.sites[i].rows = [] →
    let n := wf w 67 64
    let v := wf w 63 32
    let us := fenceUnits w
    let idle := ∀ u ∈ us, s.sites[i].inFlight u = []
    let flushed := ((flushWindows i us).run s).2
    (v ≤ s.field F.CORE_CC.VALUE i n → Completes (.wait i w) s (fun t =>
      t.field F.CORE_CC.VALUE i n = s.field F.CORE_CC.VALUE i n - (if wb w 119 then v else 0) ∧
      Advances i s t ∧ SameRegs (fun k => issueReg i k || k == ⟨.CORE_CC, i, n⟩) s t ∧ SameBut issueParts s t)) ∧
    (s.field F.CORE_CC.VALUE i n < v → Completes (.wait i w) s (fun t => t.flag F.CORE_COLL_WAIT.VALID i 0 = true ∧ Waits i w s t)) ∧
    (idle → (wb w 114 = true → s.unseenWrites i us = false) →
      Completes (.fence i w) s (fun t => Advances i s t ∧ SameRegs (issueReg i) s t ∧ SameBut issueParts s t)) ∧
    (¬ idle → Completes (.fence i w) s (Waits i w s)) ∧
    (idle → wb w 114 = true → flushed.unseenWrites i us = true → Completes (.fence i w) s (Waits i w flushed)))

/-- HALT, with nothing of the core in flight or unseen, halts it with cause HALT: STATE 0, the pc at the next instruction, the site's
cause bit set for the host; registers other than those of issue, halt and interrupts stay. With something in flight it waits. An open batch
closes first, and HALT then does what it does with none (04 R121). -/
def Obligations.HaltHalts : Prop :=
  ∀ (i : SiteId) (w : IWord) (s : State), s.issues i w = true →
    let closed := ((closeBatch i false).run s).2
    (closed.issues i w = true → closed.sites[i].rows = [] → closed.reg .CORE_SEQ_PC i 0 = s.reg .CORE_SEQ_PC i 0 →
      exec (.halt i w) s = exec (.halt i w) closed) ∧
    (s.sites[i].rows = [] → s.sites[i].flights ≠ [] → Completes (.halt i w) s (Waits i w s)) ∧
    (s.sites[i].rows = [] → s.sites[i].flights = [] → s.unseenWrites i allUnits = false → Completes (.halt i w) s (fun t =>
      t.field F.CORE_SEQ_STATUS.STATE i 0 = 0 ∧ t.field F.CORE_SEQ_STATUS.HALT_CAUSE i 0 = 1 ∧
      (t.reg .HST_SITE_CAUSE 0 (i.val / 64)).testBit (i.val % 64) = true ∧
      Advances i s t ∧ SameRegs (fun k => issueReg i k || logReg k || k == ⟨.CORE_SEQ_STATUS, i, 0⟩) s t ∧
      SameBut (.out :: issueParts) s t))

/-- MARK without SWAP, Hush not armed on it, with marker events of core sites recorded, forms an event with STEP, VALUE and the
instruction's address and tags (19 R483). With SWAP it starts all five live sets of the core anew at the present time, their sequence
numbers one on, and the frozen sets hold what they counted from; the new bank of the sequencer names the MARK itself (19 R474, R475,
R477). -/
def Obligations.MarkActs : Prop :=
  ∀ (i : SiteId) (w : IWord) (s : State), s.issues i w = true →
    let pc := s.reg .CORE_SEQ_PC i 0
    (wb w 119 = false → s.flag F.TRC_HUSH_CTRL.ON_MARK 0 0 = false → s.flag F.TRC_RING_CTRL.ENABLE 0 0 = true →
      (s.field F.TRC_ENABLE.TYPES 0 0).testBit 2 = true → (s.field F.TRC_ENABLE.GROUPS 0 0).testBit 0 = true →
      Completes (.mark i w) s (fun t =>
        t.obs = { (s.issued i w pc).obs with
          fifos := Fifo.upd 0 i.val (fun f => f.push (eventWords 2 0 i.val (wLayer w) (wOper w) 0 s.now
            (place 63 32 (s.field F.CORE_SEQ_STEP.STEP i 0) + wf w 63 32) pc) s.now) (s.issued i w pc).obs.fifos } ∧
        Advances i s t ∧ SameRegs (issueReg i) s t ∧ SameBut issueParts s t)) ∧
    (wb w 119 = true → s.now < 2 ^ 64 → Completes (.mark i w) s (fun t => ∀ c, c < 5 →
      t.reg .CNT_CORE_LIVE i (32 * c) = s.now ∧ t.reg .CNT_CORE_FROZEN i (32 * c) = s.reg .CNT_CORE_LIVE i (32 * c) ∧
      t.reg .CNT_CORE_FROZEN i (32 * c + 1) = s.now ∧
      t.reg .CNT_CORE_LIVE i (32 * c + 3) = (s.reg .CNT_CORE_LIVE i (32 * c + 3) % 2 ^ 32 + 1) % 2 ^ 32 +
        (if c = 0 then place 63 44 (wLayer w) + place 43 32 (wOper w) else 0)))

/-- DSET loads COUNT + 1 descriptors of eight words from the table into consecutive slots modulo 64, where each entry lies in LPDDR6 and
reads clean; memory and every other register stay. An entry outside the local device-physical space loads FORMAT 0xFF and records an
error (05 R144). While a lost seam channel holds an entry it waits (01 R17). -/
def Obligations.DsetLoads : Prop :=
  ∀ (i : SiteId) (w : IWord) (s : State), s.Safe → s.issues i w = true →
    (s.tableCut i w = true → exec (.dset i w) s = .next s) ∧
    (s.tableCut i w = false → (∀ k, k ≤ wf w 77 72 → localAddr (s.entryAt i w k) = true ∧
      s.readsClean (fld (s.entryAt i w k) 40 0) = true ∧ s.readsClean (fld (s.entryAt i w k) 40 0 + 32) = true) →
    Completes (.dset i w) s (fun t =>
      (∀ k j, k ≤ wf w 77 72 → j < 8 →
        t.reg .CORE_DESC_SLOT i (8 * ((wSA w + k) % 64) + j) =
          leAt (s.stored (fld (s.entryAt i w k) 40 0 + 32 * (j / 4))).data (8 * (j % 4)) 8) ∧
      Advances i s t ∧ SameRegs (fun k => issueReg i k || (k.reg == .CORE_DESC_SLOT && k.inst == i.val)) s t ∧
      Woken s t ∧ SameBut (.channels :: .sites :: issueParts) s t)) ∧
    (s.tableCut i w = false → Completes (.dset i w) s (fun t => ∀ k, k ≤ wf w 77 72 → localAddr (s.entryAt i w k) = false →
      fld (t.reg .CORE_DESC_SLOT i (8 * ((wSA w + k) % 64) + 1)) 7 0 = 0xFF ∧ t.flag F.CORE_ERROR_RECORD.VALID i 0 = true))

/-- DADJ in MODE 0 adds u32(Tn) × s32(V) to BASE modulo 2^64; in MODE 1 it puts Tn into the run-time extent of a dimension below RANK, a Tn
beyond the field cut to the field's bits, which is the model's reading (log 129);
the other words of the slot, and the other bits of that word, stay. -/
def Obligations.DadjAdjusts : Prop :=
  ∀ (i : SiteId) (w : IWord) (s : State), s.issues i w = true →
    let k := 8 * wSA w
    let tn := s.tileReg i (wf w 66 64)
    let d := wf w 34 32
    let place := extPlace d
    let slotFrame (t : State) : Prop := Advances i s t ∧
      SameRegs (fun q => issueReg i q || (q.reg == .CORE_DESC_SLOT && q.inst == i.val)) s t ∧ SameBut (.sites :: issueParts) s t
    (wf w 113 112 = 0 → Completes (.dadj i w) s (fun t =>
      t.reg .CORE_DESC_SLOT i k = wrap 64 ((s.reg .CORE_DESC_SLOT i k : Int) + (tn : Int) * sext 32 (wf w 63 32)) ∧
      (∀ j, 0 < j → j < 8 → t.reg .CORE_DESC_SLOT i (k + j) = s.reg .CORE_DESC_SLOT i (k + j)) ∧ slotFrame t)) ∧
    (wf w 113 112 = 1 → d < min 5 (fld (s.reg .CORE_DESC_SLOT i (k + 2)) 2 0) → Completes (.dadj i w) s (fun t =>
      t.reg .CORE_DESC_SLOT i (k + place.1) = setFld (s.reg .CORE_DESC_SLOT i (k + place.1)) place.2.1 place.2.2 tn ∧
      (∀ j, j < 8 → j ≠ place.1 → t.reg .CORE_DESC_SLOT i (k + j) = s.reg .CORE_DESC_SLOT i (k + j)) ∧ slotFrame t))

/-- HIVE.TAKE sends its take or set and goes on, changing nothing else, and no two takes then write one tile register; its reply writes its tile register and ends the take (05 R134). At
a fenced site the reply is discarded, counted, and the take is over (01 R41). A reply that a lost seam channel holds, that the reply of an
earlier take precedes on its way, or whose core Hush has stopped has not arrived (01 R17, R22, R41). -/
def Obligations.HiveTakesAndReplies : Prop :=
  (∀ (i : SiteId) (w : IWord) (s : State), s.issues i w = true →
    Completes (.hiveTake i w) s (fun t =>
      t.sites[i] = { s.sites[i] with takes := s.sites[i].takes ++ [
        { tn := wf w 66 64, hive := wf w 75 68, set := wb w 119, arg := if wb w 119 then wf w 63 32 else wf w 39 32, reply := none }] } ∧
      (s.Ordered → t.Ordered) ∧
      SameSites i s t ∧ Advances i s t ∧ SameRegs (issueReg i) s t ∧ SameBut (.sites :: issueParts) s t)) ∧
  (∀ (i : SiteId) (tn : Fin 8) (s : State) (k : Take) (r : Nat),
    s.sites[i].takes.find? (fun t => t.tn == tn.val && t.reply.isSome) = some k → k.reply = some r →
    let ends (t : State) : Prop := SameSites i s t ∧ (s.Ordered → t.Ordered) ∧
      t.sites[i] = { s.sites[i] with takes := s.sites[i].takes.filter (fun u => u.tn != tn.val) }
    let waits := s.seamCut k.stop (siteStop i) (hivePlane k.hive) = true ∨ s.sites[i].replyBehind k = true ∨
      (s.hushed = true ∧ s.deaf i = false)
    (¬ waits → s.deaf i = false → Completes (.hiveTakeReply i tn) s (fun t =>
      t.tileReg i tn.val = r % 2 ^ 32 ∧ (∀ m, m < 8 → m ≠ tn.val → t.tileReg i m = s.tileReg i m) ∧ ends t ∧
      SameRegs (fun q => q == ⟨.CORE_TILE_REGS, i, tn.val / 2⟩) s t ∧ SameBut [.regs, .sites] s t)) ∧
    (¬ waits → s.deaf i = true → Completes (.hiveTakeReply i tn) s (fun t =>
      NocDropped F.TOP_NOC_ERROR.DROP_FENCED (siteStop i) s t ∧ ends t ∧ SameBut [.regs, .out, .sites] s t)) ∧
    (waits → exec (.hiveTakeReply i tn) s = .next s))

/-- A take at its counter, served in one step (05 R152): below LIMIT the old VALUE is answered and COUNT added modulo 2^32; at or beyond
LIMIT nothing changes and all ones are answered; a set answers the old VALUE and makes VALUE 0 and LIMIT its operand. The reply then
writes the take's tile register, unless the site is fenced or the reply held. A take that Hush or a lost seam channel holds, or that an earlier one on its
way precedes, waits (01 R17, R22, 19 R488). -/
def Obligations.HiveServes : Prop :=
  ∀ (i : SiteId) (tn : Fin 8) (s : State) (k : Take) (h : k.hive < 256),
    s.sites[i].takes.find? (fun t => t.tn == tn.val && t.reply.isNone) = some k → k.arg < 2 ^ 32 →
    let c := hiveHome ⟨k.hive, h⟩
    let v := s.field F.HIVE_COUNTER.VALUE c.1 c.2
    let l := s.field F.HIVE_COUNTER.LIMIT c.1 c.2
    let waits := s.hushed = true ∨ s.sites[i].takeBehind k = true ∨ s.seamCut (siteStop i) k.stop (hivePlane k.hive) = true
    let served (v' l' r : Nat) : Prop := Completes (.nocHiveTake i tn) s (fun t =>
      t.field F.HIVE_COUNTER.VALUE c.1 c.2 = v' ∧ t.field F.HIVE_COUNTER.LIMIT c.1 c.2 = l' ∧
      (∃ u ∈ t.sites[i].takes, u.tn = tn.val ∧ u.reply = some r) ∧ t.out = s.out ++ [.hiveReply i tn r] ∧
      (s.deaf i = false → s.seamCut k.stop (siteStop i) (hivePlane k.hive) = false → s.sites[i].replyBehind k = false → (∀ u ∈ s.sites[i].takes, u.tn = tn.val → u = k) →
        Completes (.hiveTakeReply i tn) t (fun u => u.tileReg i tn.val = r)) ∧
      SameSites i s t ∧ SameRegs (fun q => q == ⟨.HIVE_COUNTER, c.1, c.2⟩) s t ∧ SameBut [.regs, .out, .sites] s t)
    (waits → exec (.nocHiveTake i tn) s = .next s) ∧
    (¬ waits → k.set = true → served 0 k.arg v) ∧
    (¬ waits → k.set = false → v < l → served ((v + k.arg) % 2 ^ 32) l v) ∧
    (¬ waits → k.set = false → l ≤ v → served v l 0xFFFFFFFF)

/-- The opcode of a word, with its operation field, picks the one command that it can be (05 R136, R137). A reserved opcode is not issued: the core halts with cause 4, the pc staying, and with no error held the record takes KIND 2 and the
opcode (05 R135, R137, R170). Any instruction that does not stand in the instruction buffer is fetched first, and then does what it does
where it stands there; one whose fetch fails, a COLL as well, is not issued: the core halts with cause 5, the pc staying, and with no error
held the record takes KIND 4 (05 R129). That the fetch is made at the issue attempt and no earlier is the model's choice (log 7). -/
def Obligations.IllegalHalts : Prop :=
  (∀ (c : Instr) (i : SiteId) (w : IWord), fetched c = some (i, w) → WellFormed c = true → instrOf i w = c) ∧
  (∀ (i : SiteId) (w : IWord) (s : State), s.canIssue i = true → s.sites[i].buffer.contains (s.reg .CORE_SEQ_PC i 0) = true →
    Completes (.illegalOp i w) s (fun t =>
      t.field F.CORE_SEQ_STATUS.STATE i 0 = 0 ∧ t.field F.CORE_SEQ_STATUS.HALT_CAUSE i 0 = 4 ∧
      t.reg .CORE_SEQ_PC i 0 = s.reg .CORE_SEQ_PC i 0 ∧ t.flag F.CORE_ERROR_RECORD.VALID i 0 = true ∧
      (s.flag F.CORE_ERROR_RECORD.VALID i 0 = false →
        t.field F.CORE_ERROR_RECORD.KIND i 0 = 2 ∧ t.field F.CORE_ERROR_RECORD.OPCODE i 0 = wf w 127 120) ∧
      SameRegs (fun k => logReg k || (k.inst == i.val && [Reg.CORE_SEQ_STATUS, .CORE_ERROR_RECORD, .CORE_ERROR_WHERE,
        .CORE_ERROR_PC].contains k.reg)) s t ∧ SameBut [.regs, .obs, .out] s t)) ∧
  (∀ (c : Instr) (i : SiteId) (w : IWord) (s u : State) (failed : Bool), fetched c = some (i, w) → s.canIssue i = true →
    s.sites[i].buffer.contains (s.reg .CORE_SEQ_PC i 0) = false → (fetchInstr i (s.reg .CORE_SEQ_PC i 0)).run s = (failed, u) →
    (failed = false → u.canIssue i = true → exec c s = exec c u) ∧
    (failed = true →
      let halts (t : State) : Prop := t.field F.CORE_SEQ_STATUS.STATE i 0 = 0 ∧ t.field F.CORE_SEQ_STATUS.HALT_CAUSE i 0 = 5 ∧
        t.reg .CORE_SEQ_PC i 0 = s.reg .CORE_SEQ_PC i 0 ∧ t.flag F.CORE_ERROR_RECORD.VALID i 0 = true ∧
        (s.flag F.CORE_ERROR_RECORD.VALID i 0 = false → t.field F.CORE_ERROR_RECORD.KIND i 0 = 4) ∧
        t.sites = s.sites ∧ t.mem = s.mem ∧ t.chk = s.chk
      (collOf c = none → Completes c s halts) ∧ (collOf c ≠ none → ∃ v, exec c s = .next (collPoll.run v).2 ∧ halts v)))

/-- START makes a halted core run, its instruction buffer discarded; while it runs or drains, or its site is fenced, it does nothing.
HALT_REQ of a running core with no batch open halts it at once with cause 2 if nothing is in flight, else it drains. ABORT leaves nothing
of a core in flight, with the pc at the oldest instruction that had not completed; a core that runs or drains halts with cause 3, a halted
one stays as it is, its hint, which ABORT stops, apart (05 R135, R163, 12 R336; for a halted core the model's choice, log 154). -/
def Obligations.CoreControl : Prop :=
  ∀ (i : SiteId) (s : State), s.accepts .CORE_SEQ_CTRL i.val 0 = true →
    let st (t : State) := t.field F.CORE_SEQ_STATUS.STATE i 0
    let cause (t : State) := t.field F.CORE_SEQ_STATUS.HALT_CAUSE i 0
    let fs := s.sites[i].flights ++ s.sites[i].rows
    (st s = 0 → s.deaf i = false → Completes (.start i) s (fun t =>
      st t = 1 ∧ t.sites[i] = { s.sites[i] with buffer := [] } ∧ SameSites i s t ∧
      SameRegs (fun k => k == ⟨.CORE_SEQ_STATUS, i, 0⟩) s t ∧ SameBut [.regs, .sites] s t)) ∧
    ((st s ≠ 0 ∨ s.deaf i = true) → exec (.start i) s = .next s) ∧
    (s.running i = true → s.sites[i].rows = [] → Completes (.haltReq i) s (fun t =>
      (s.sites[i].flights = [] → st t = 0 ∧ cause t = 2) ∧ (s.sites[i].flights ≠ [] → st t = 2) ∧
      t.reg .CORE_SEQ_PC i 0 = s.reg .CORE_SEQ_PC i 0 ∧ t.sites = s.sites ∧ SameBut [.regs, .obs, .freeCtr, .out] s t)) ∧
    (s.running i = false → exec (.haltReq i) s = .next s) ∧
    (st s ≠ 0 ∨ fs ≠ [] → Completes (.abort i) s (fun t => t.sites[i].flights = [] ∧ t.sites[i].rows = [] ∧
      (st s ≠ 0 → st t = 0 ∧ cause t = 3) ∧ (st s = 0 → st t = 0 ∧ cause t = cause s) ∧
      (∀ f ∈ fs, (∀ g ∈ fs, f = g ∨ f.seq < g.seq) → t.field F.CORE_SEQ_PC.ADDR i 0 = f.pc.toNat / 16))) ∧
    (st s = 0 → fs = [] → s.sites[i].hint = none → (∀ r ∈ s.coll.runs, ¬ (r.bg = true ∧ r.site = i ∧ r.op = 11)) →
      Completes (.abort i) s (fun t => SameRegs (fun k => k.reg == .FAB_COLL_STATUS) s t ∧ SameBut [.regs] s t))

/-- The oldest instruction of a unit that has acted completes, where the engine of collectives is idle, Hush holds nothing, its Anthills
have accepted all that it sent, and no other instruction waits for its unit: it leaves the core's instructions in flight, and a draining
core that has none left halts. One that has not acted does not complete. -/
def Obligations.InstructionCompletes : Prop :=
  ∀ (i : SiteId) (u : CoreUnit) (s : State) (f : Flight), s.collIdle →
    (s.sites[i].flights.filter (fun g => g.unit == u)).head? = some f →
    (s.hushed = false → (∀ g ∈ s.sites[i].flights, g.unit = u → g.phase = .done) →
      (∀ x ∈ s.noc.inserts, ¬ (x.site = i ∧ x.seq = f.seq)) →
      (u = .mower → ∀ m ∈ s.clusters[clusterOf i].mow, m = (i.val, f.seq)) →
      Completes (.instructionComplete i u) s (fun t =>
        t.sites[i] = { s.sites[i] with
          flights := s.sites[i].flights.erase f, mowed := s.sites[i].mowed.filter (fun m => m.1 != f.seq) } ∧ SameSites i s t ∧
        (s.Ordered → t.Ordered) ∧
        t.reg .CORE_SEQ_PC i 0 = s.reg .CORE_SEQ_PC i 0 ∧
        (s.field F.CORE_SEQ_STATUS.STATE i 0 = 2 → s.sites[i].flights = [f] → s.sites[i].rows = [] →
          t.field F.CORE_SEQ_STATUS.STATE i 0 = 0 ∧ t.field F.CORE_SEQ_STATUS.HALT_CAUSE i 0 = 2) ∧
        (s.field F.CORE_SEQ_STATUS.STATE i 0 ≠ 2 → t.field F.CORE_SEQ_STATUS.STATE i 0 = s.field F.CORE_SEQ_STATUS.STATE i 0) ∧
        t.clusters[clusterOf i] = { s.clusters[clusterOf i] with
          mow := s.clusters[clusterOf i].mow.filter (fun m => !(m.1 == i.val && m.2 == f.seq)) } ∧
        SameBut [.regs, .obs, .freeCtr, .out, .sites, .clusters] s t)) ∧
    ((∃ ws got, f.phase = .remote ws got) ∨ (f.phase = .done ∧ (∃ x ∈ s.noc.inserts, x.site = i ∧ x.seq = f.seq)) →
      exec (.instructionComplete i u) s = .next s)

/-! Instructions of the units (05 R131 to R133). -/

/-- An instruction whose unit has others before it enters the unit's queue with copies of its word, address, step, epoch, tile registers
and descriptors; memory and everything else stay but for what issue writes and the Mower's order and status. Where the unit is full, or
the instruction is held at the accumulator memory, it waits, and nothing changes (04 R119, 05 R131). -/
def Obligations.UnitQueues : Prop :=
  ∀ (c : Instr) (i : SiteId) (w : IWord) (u : CoreUnit) (s : State), unitOf c = some (i, w, u) → s.issues i w = true →
    (s.held i u w = none → s.startsNow i u (s.entryOf i w u) = false → Completes c s (fun t => Queued i u (s.entryOf i w u) s t ∧ (s.Ordered → t.Ordered))) ∧
    (s.held i u w ≠ none → exec c s = .next s)

/-- An instruction that may start at once acts by the body of its opcode, on the copies that it took, in the state that issue leaves; it is
then in flight, its work done. Where it needs granules of another device or of the host it asks for them instead and waits, nothing of it
done. The body of a LOAD or STORE copies each element of SA to the same index of SB (05 R139), here of one-byte elements of equal format
in a granule of the core's own scratchpad; with a descriptor that is none it is a format error (02 R48), and with an extent of zero it is
counted (05 R148): either then reads and writes nothing. -/
def Obligations.UnitActs : Prop :=
  (∀ (c : Instr) (i : SiteId) (w : IWord) (u : CoreUnit) (s : State), WellFormed c = true → unitOf c = some (i, w, u) →
    s.issues i w = true → s.held i u w = none → s.startsNow i u (s.entryOf i w u) = true →
    let f := s.entryOf i w u
    let a := s.acting i w u
    Completes c s (Acted i f a ((bodyOf i f).run a).2)) ∧
  (∀ (i : SiteId) (f : Flight) (a : State), wOpcode f.word = 0x20 ∨ wOpcode f.word = 0x21 →
    let b := ((bodyOf i f).run a).2
    let sa := f.desc 0
    let sb := f.desc 1
    (∀ x y n, a.Safe → 0 < n → sa.code = sb.code → sa.row (windowBase i.val + x) n → sb.row (windowBase i.val + y) n → a.fenced i = false →
      a.noc.seams = [] → a.dmaBytes i x n → a.dmaBytes i y n → CopiesRow i x y n a b) ∧
    (sa.ok = false → FormatErrs i f (wSA f.word) a b) ∧
    (sa.ok = true → sb.ok = false → FormatErrs i f (wSB f.word) a b) ∧
    (sa.ok = true → sb.ok = true → sa.clamped = false → sb.clamped = false → sa.empty = true ∨ sb.empty = true →
      b.field F.CORE_SHAPE_EVENTS.ZERO_SHAPE i 0 =
        min F.CORE_SHAPE_EVENTS.ZERO_SHAPE.top (a.field F.CORE_SHAPE_EVENTS.ZERO_SHAPE i 0 + 1) ∧
      SameRegs (fun k => k == ⟨.CORE_SHAPE_EVENTS, i, 0⟩) a b ∧ SameBut [.regs] a b))

/-- An array instruction that runs alone, with no batch open, acts as its opcode says where its unit is idle and the transfer registers that
it needs are free, and else enters the queue; with a batch open it closes that batch and does the same in the state that leaves. An
MMA or MMA.T that may be batched enters the row queue, where it finds none open as the head; it joins the batch whose head it matches while
it fits, and a batch that is full, has eight MMAs, or has a FILL_TIMEOUT of 0 then closes. One that does not match closes the batch and
heads the next. What the order at the accumulator memory holds, or a full queue, waits, and nothing changes (04 R119, R121, 05 R131). The
body of a PARK moves the tiles it names, where they are active, to their bytes, of tiles of 32-bit accumulators; that of an UNPARK in WIDE
loads the tile it names, of sound granules, and in LONG it does nothing (04 R116). -/
def Obligations.ArrayActs : Prop :=
  (∀ (i : SiteId) (f : Flight) (a : State),
    let b := ((bodyOf i f).run a).2
    let tile := wideTile (wTile f.word)
    (wOpcode f.word = 0x13 → (∀ (k : Fin 4) (c : Active), a.sites[i].arrays[k].act = some c →
      c.tile < 24 ∧ c.cells.length = 1024 ∧ (c.mode = true → c.int = true)) → Parks i f.word a b) ∧
    (wOpcode f.word = 0x14 → a.flag F.CORE_ARRAY_CONFIG.ACC_MODE i 0 = false →
      (∀ (k : Fin 4) (j : Nat), j < 128 → (a.stored (tileAt i k tile + 32 * j)).err = 0) → Unparks i f.word a b) ∧
    (wOpcode f.word = 0x14 → a.flag F.CORE_ARRAY_CONFIG.ACC_MODE i 0 = true →
      b.sites = a.sites ∧ SameRegs (fun q => q == ⟨.CORE_ARRAY_STATUS, i, 0⟩) a b ∧ SameBut [.regs] a b)) ∧
  ∀ (c : Instr) (i : SiteId) (w : IWord) (s : State), s.issues i w = true →
    let f := s.entryOf i w .arrays
    let a := s.acting i w .arrays
    let rows := s.sites[i].rows
    let room := 32 * (arraysOf w).length
    (s.arrayOf c = some (i, w) → WellFormed c = true → rows = [] →
      (s.held i .arrays w = none → s.startsNow i .arrays f = true → Completes c s (Acted i f a ((bodyOf i f).run a).2)) ∧
      (s.held i .arrays w = none → s.startsNow i .arrays f = false → Completes c s (Queued i .arrays f s)) ∧
      (s.held i .arrays w ≠ none → exec c s = .next s)) ∧
    (s.arrayOf c = some (i, w) → WellFormed c = true → rows ≠ [] → s.held i .arrays w = none →
      let b := ((closeBatch i false).run (s.issued i w (s.reg .CORE_SEQ_PC i 0))).2
      let g := b.flightOf i .arrays w (s.reg .CORE_SEQ_PC i 0)
      (b.startsNow i .arrays g = true → Completes c s (Acted i g (b.begins i g) ((bodyOf i g).run (b.begins i g)).2)) ∧
      (b.startsNow i .arrays g = false → Completes c s (fun t =>
        t.sites[i] = { b.sites[i] with flights := b.sites[i].flights ++ [g] } ∧ SameSites i b t ∧ SameBut [.sites] b t))) ∧
    (∀ tr, c = (if tr then .mmaT i w else .mma i w) → s.joinsBatch tr i w = true →
      let frame (t : State) (b : Bool) : Prop := SameSites i s t ∧ (s.Ordered → t.Ordered) ∧ Advances i s t ∧ SameBut (.sites :: issueParts) s t ∧
        SameRegs (fun k => issueReg i k || k == ⟨.CORE_SHAPE_EVENTS, i, 0⟩ || (b && k == ⟨.CORE_ARRAY_EVENTS, i, 0⟩)) s t
      (s.accHeld i .arrays w = true → exec c s = .next s) ∧
      (s.accHeld i .arrays w = false →
        (rows = [] ∨ (∃ h, rows.head? = some h ∧ batchMatches h f = true ∧ rowsOf (rows ++ [f]) ≤ room) →
          let full := rowsOf (rows ++ [f]) = room ∨ rows.length = 7 ∨ s.field F.CORE_ARRAY_CONFIG.FILL_TIMEOUT i 0 = 0
          (¬ full → Completes c s (fun t => t.sites[i] = { s.sites[i] with rows := rows ++ [f] } ∧ frame t false)) ∧
          (full → ∃ u, exec c s = .next ((closeBatch i false).run u).2 ∧ u.sites[i] = { s.sites[i] with rows := rows ++ [f] } ∧
            frame u false)) ∧
        (∀ h, rows.head? = some h → batchMatches h f = false ∨ room < rowsOf (rows ++ [f]) →
          s.field F.CORE_ARRAY_CONFIG.FILL_TIMEOUT i 0 ≠ 0 → s.startsNow i .arrays { h with batch := some h.seq } = false → Completes c s (fun t =>
            t.sites[i] = { s.sites[i] with
              rows := [f], flights := s.sites[i].flights ++ rows.map (fun g => { g with batch := some h.seq }) } ∧ frame t true ∧
            t.field F.CORE_ARRAY_EVENTS.BATCH_SHORT i 0 = min F.CORE_ARRAY_EVENTS.BATCH_SHORT.top
              (s.field F.CORE_ARRAY_EVENTS.BATCH_SHORT i 0 + b2n (rowsOf rows < 32 * (arraysOf h.word).length))))))

/-- A tile transfer ends: an array whose transfer registers are busy holds an unparked tile, or has parked one; then an array instruction
that waited for the registers may act, and where none waits nothing more happens (04 R117). -/
def Obligations.TransferEnds : Prop :=
  ∀ (i : SiteId) (a : Fin 4) (s : State),
    let ended (t : State) : Prop :=
      (s.sites[i].arrays[a].xfer.busy = true → t.sites[i].arrays[a] = { s.sites[i].arrays[a] with
        xfer := { s.sites[i].arrays[a].xfer with busy := false, held := !s.sites[i].arrays[a].xfer.dir } }) ∧
      (s.sites[i].arrays[a].xfer.busy = false → t.sites[i].arrays[a] = s.sites[i].arrays[a]) ∧
      (∀ b : Fin 4, b ≠ a → t.sites[i].arrays[b] = s.sites[i].arrays[b]) ∧ t.sites[i].flights = s.sites[i].flights ∧
      SameSites i s t ∧ SameRegs (fun k => k == ⟨.CORE_ARRAY_STATUS, i, 0⟩) s t ∧ SameBut [.regs, .sites] s t
    (∃ u, exec (.tileTransferDone i a) s = .next ((kickUnit 24 i .arrays).run u).2 ∧ ended u) ∧
    (s.sites[i].unitIdle .arrays = true → Completes (.tileTransferDone i a) s ended)

/-- FILL_TIMEOUT passed with a batch open: it closes, counted, its members in flight. With earlier array instructions still to act, or
a transfer in the registers that it needs, it waits for them; else the arrays run its members, in their order, and all of them have then acted, or, where they need granules of another
device or of the host, await those. With no batch open nothing happens (04 R121, R122). -/
def Obligations.BatchTimeoutRuns : Prop :=
  ∀ (i : SiteId) (s : State),
    (s.sites[i].rows = [] → exec (.batchFillTimeout i) s = .next s) ∧
    (∀ h, s.sites[i].rows.head? = some h →
      let counted (t : State) : Prop := t.field F.CORE_ARRAY_EVENTS.BATCH_TIMEOUT i 0 =
        min F.CORE_ARRAY_EVENTS.BATCH_TIMEOUT.top (s.field F.CORE_ARRAY_EVENTS.BATCH_TIMEOUT i 0 + 1)
      (s.startsNow i .arrays { h with batch := some h.seq } = false → Completes (.batchFillTimeout i) s (fun t =>
        t.sites[i] = { s.sites[i] with
          rows := [], flights := s.sites[i].flights ++ s.sites[i].rows.map (fun f => { f with batch := some h.seq }) } ∧ counted t ∧
        (s.Ordered → t.Ordered) ∧
        SameSites i s t ∧ SameRegs (fun k => k == ⟨.CORE_ARRAY_EVENTS, i, 0⟩) s t ∧ SameBut [.sites, .regs] s t)) ∧
      (s.startsNow i .arrays { h with batch := some h.seq } = true →
        let h' := { h with batch := some h.seq }
        let a := s.batchActing i h
        let b := ((batchBody i h').run a).2
        counted a ∧
        (b.want = [] → Completes (.batchFillTimeout i) s (fun t =>
          t.sites[i] = { b.sites[i] with flights := b.sites[i].flights.map (fun f =>
            if f = h' then { h' with phase := .done, touched := a.writtenIn b }
            else if f.batch = some h.seq ∧ f.phase = .queued then { f with phase := .done } else f) } ∧
          SameSites i b t ∧ SameBut [.sites, .got, .want] b t)) ∧
        (b.want ≠ [] → Completes (.batchFillTimeout i) s (fun t =>
          t.sites[i] = { a.sites[i] with flights := a.sites[i].flights.map (fun f =>
            if f = h' then { h' with
              phase := .remote (h'.asks b.want) []
              unasked := (h'.asks b.want).filter (fun x => a.cutFrom (siteStop i) x && !a.isLocal x) } else f) } ∧ SameSites i a t ∧
          SameBut [.sites, .regs, .links, .fabric, .host, .out, .freeCtr, .want, .got] a t))))

/-- A COLL issues into its core's queue and reaches the engine, last in its order, with its copies, the time, and, as a BARRIER that says
so, the headers deferred (05 R131, R133, 12 R336, R349, R353); then the engine goes on. Where the queue is full, or the order at the
accumulator memory holds it, it waits. A hint held at a site starts as a run of its own, its trees written, while some core waits on a
collective in a wait that began under the policy that says so (12 R370, R371, 20 R497). As the engine goes on, a collective in execution
alone, in its last round, completes once its own work is done, and not before: a tree collective with all its contributions made and its
results landed, an ALL_TO_ALL and a STAGE_CREDIT or COMBINE with their packets accepted, a LOCAL with its sum landed, a BARRIER with its
release, whose word it writes behind its record. Its record, its signal and its counts are then as 12 R340 and R345 say, in LPDDR6 here. -/
def Obligations.CollEnters : Prop :=
  (∀ (r : CollRun) (u : State), u.lone r →
    let t := (collPoll.run u).2
    let p := r.statusPtr
    (r.op ∈ [3, 6, 8, 10] → ¬ u.workDone r → t = u) ∧
    (u.workDone r → r.status < 256 → p % 32 = 0 → u.plainGran p = true → u.plainGran (p + 32) = true → p < 2 ^ 41 →
      ((r.w 5).testBit 29 = true → ∃ i, u.siteOf r.core = some i ∧ u.fenced i = false) → CollCompletes r u t ∧
      (∀ k word dev, r.op = 5 → p ≠ 0 → u.readsClean (p + 32) = true → u.dirtyLine (p + 32) = none →
        u.coll.keys.find? (fun k => r.bkey == some (k.tag, k.seq, k.round)) = some k → k.done = some (word, dev) →
        leAt (t.stored (p + 32)).data 0 8 = word % 2 ^ 64) ∧
      SameMemory (fun b => p ≠ 0 ∧ (b = p / 32 ∨ r.op = 5 ∧ b = p / 32 + 1)) u t ∧ Woken u t ∧ CacheOnly u t ∧
      SameBut [.regs, .mem, .chk, .channels, .clusters, .coll, .obs, .freeCtr] u t)) ∧
  (∀ (c : Instr) (i : SiteId) (w : IWord) (s : State), collOf c = some (i, w) → s.issues i w = true →
    (s.held i .coll w = none → ∃ u, exec c s = .next (collPoll.run u).2 ∧
      u.sites[i] = { s.sites[i] with flights := s.sites[i].flights ++ [{ s.entryOf i w .coll with tag := s.coll.nextId }] } ∧
      SameSites i s u ∧
      u.coll = { s.coll with
        nextId := s.coll.nextId + 1, queue := s.coll.queue ++ [⟨s.coll.nextId, s.now, s.headersFor w⟩]
        nfs := s.coll.nfs.filter (fun h => !(s.headersFor w).contains h) } ∧
      Advances i s u ∧ SameRegs (issueReg i) s u ∧ SameBut (.sites :: .coll :: issueParts) s u) ∧
    (s.held i .coll w ≠ none → ∃ u, exec c s = .next (collPoll.run u).2 ∧
      Waits i w s u)) ∧
  (∀ (i : SiteId) (s : State),
    let may := s.hushed = false ∧ s.deaf i = false ∧
      ∃ j : SiteId, (s.reg .CORE_COLL_WAIT j 0).testBit 63 = true ∧ s.sites[j].policy = 1
    (s.sites[i].hint = none ∨ ¬ may → exec (.prefetchStart i) s = .next s) ∧
    (∀ h, s.sites[i].hint = some h → may →
      ∃ u, exec (.prefetchStart i) s = .next (collPoll.run u).2 ∧ u.sites[i] = { s.sites[i] with hint := none } ∧ SameSites i s u ∧
        u.coll = { s.coll with nextId := s.coll.nextId + 1, runs := s.coll.runs ++ [{ h with id := s.coll.nextId, bg := true }] } ∧
        SameRegs (fun k => [Reg.FAB_TREE, .FAB_TREE_LINKS].contains k.reg) s u ∧ SameBut [.regs, .sites, .coll] s u))

/-! Registers (00 R9 to R12). -/

/-- A write of a register that is no command leaves its bits as 00 R10 says and changes nothing else, where nothing locks it: of a word or
a half, by the host or on the network while it reaches the register; but a new size of the Rake's ring takes HEAD modulo itself (09 R275).
Locked, it does nothing; nor does a write of an offset that holds no register or is not decoded yet, or one that does not reach it: a lost
seam channel stands between, or it is a host's and its accesses do not reach the device (01 R17, 14 R378, R389, 15 R404; that they need
Memory Space Enable is log 64, that nothing at all happens in D3hot or without a link is log 86). That a draining core locks its registers
as a running one does is the model's reading (log 128). One that Hush holds is counted as
denied (19 R493). The operand of a half write is the word with the written half in place. -/
def Obligations.RegisterWrites : Prop :=
  ∀ (off : BitVec 26) (v : Word) (h : Half) (src : RegSource) (s : State),
    let o := off.toNat / 8 * 8
    let host := Instr.registerWrite off v h
    let noc := Instr.nocRegisterAccess off ⟨some v, h, src⟩
    let comes (c : Instr) : Prop := if c = host then s.hostUp = true ∧ s.registerCut o = false else s.accessCut src o false = false
    (∀ c ∈ [host, noc], ¬ comes c ∨ regAt off.toNat = none ∨ s.decodes o = false → exec c s = .next s) ∧
    (∀ c ∈ [host, noc], comes c → regAt off.toNat ≠ none → s.decodes o = true → s.mayWrite o = false → Completes c s (fun t =>
        t.field F.SEC_DBG_STATUS.DENIED 0 0 = min F.SEC_DBG_STATUS.DENIED.top (s.field F.SEC_DBG_STATUS.DENIED 0 0 + 1) ∧
        SameRegs (fun k => k == ⟨.SEC_DBG_STATUS, 0, 0⟩) s t ∧ SameBut [.regs] s t)) ∧
    ∀ (r : Reg) (i j : Nat), s.Safe → regAt off.toNat = some (r, i, j) → r.command = false → s.decodes o = true → s.mayWrite o = true →
    let frame (t : State) : Prop := SameBut [.regs] s t ∧
      (r ≠ .RAKE_RING_SIZE → SameRegs (fun k => k == ⟨r, i, j⟩) s t) ∧
      (r = .RAKE_RING_SIZE → SameRegs (fun k => k == ⟨r, i, j⟩ || k == ⟨.RAKE_RING_PTRS, 0, 0⟩) s t ∧
        t.field F.RAKE_RING_PTRS.HEAD 0 0 = s.field F.RAKE_RING_PTRS.HEAD 0 0 % t.rakeSize ∧
        t.field F.RAKE_RING_PTRS.TAIL 0 0 = s.field F.RAKE_RING_PTRS.TAIL 0 0)
    ∀ c ∈ [host, noc], comes c →
      (s.locked r i = false → Completes c s (fun t => Written r i j v.toNat (halfMask h) s t ∧ frame t)) ∧
      (s.locked r i = true → exec c s = .next s)

/-- A register write of a command is that command: the doorbells, the completion-queue head, the fault-log and trace heads, the scrub
period, a counter swap, a cause cleared. -/
def Obligations.RegisterWriteIsCommand : Prop :=
  ∀ (v : Word) (s : State), s.hostUp = true →
    let w (r : Reg) (i j : Nat) : Host.Outcome State Fault Refusal := exec (.registerWrite (BitVec.ofNat 26 (r.addr i j)) v .full) s
    let lo : BitVec 32 := v.setWidth 32
    (∀ r : RingId, w .HST_RING_PTRS r 0 = exec (.ringDoorbell r lo) s ∧ w .HST_CQ_PTRS r 0 = exec (.cqHeadWrite r lo) s) ∧
    w .RAKE_RING_PTRS 0 0 = exec (.rakeDoorbell lo) s ∧
    w .TOP_FAULT_PTRS 0 0 = exec (.faultLogHeadWrite (v.setWidth 8)) s ∧
    w .TRC_RING_PTRS 0 0 = exec (.traceHeadWrite lo) s ∧
    w .MEM_SCRUB_CTRL 0 0 = exec (.scrubPeriodWrite (v.setWidth 8)) s ∧
    w .HST_IRQ_CAUSE 0 0 = exec (.irqCauseClear (BitVec.ofNat 26 (Reg.addr .HST_IRQ_CAUSE 0 0)) v) s ∧
    (v = 1 → w .CNT_CMD 0 0 = exec .cntSwap s ∧ w .RAKE_CTRL 0 0 = exec .rakeDrain s ∧ w .SEC_ATT_CTRL 0 0 = exec .go s) ∧
    (v = 2 → w .CNT_CMD 0 0 = exec .cntSwapAt s ∧ w .RAKE_CTRL 0 0 = exec .rakeAbort s ∧ w .SEC_DBG_CTRL 0 0 = exec .close s)

/-- A register read answers with the word as the register shows it, within the half that it reads, clears the fields that such a read
clears and changes nothing else; an offset without a register, or not decoded yet, reads as zero, and no word holds a bit that its register
reserves (00 R9, R11, R12). Without the debug right that its register needs it reads as zero and is counted (17 R454). One that does not
reach the register, or whose answer a lost seam channel holds, does nothing (01 R17; that a host's needs Memory Space Enable is log 64).
A word that counts cycles of a stopped core shows the value that it held (01 R43), which, like one that still
counts, is a free value (log 5); a live bank's END_TIME is the present time (log 15). The snapshot window is another statement's. -/
def Obligations.RegisterReads : Prop :=
  ∀ (off : BitVec 26) (h : Half) (src : RegSource) (s : State), s.Safe →
    let read := Instr.nocRegisterAccess off ⟨none, h, src⟩
    let cut := s.accessCut src (off.toNat / 8 * 8) true
    let may (r : Reg) : Prop := ∀ n, readRight r = some n → s.right n = true
    (cut = true → exec read s = .next s) ∧
    (∀ (r : Reg) (i j : Nat), cut = false → regAt off.toNat = some (r, i, j) → s.decodes off.toNat = true → ¬ may r →
      Completes read s (fun t => t.out = s.out ++ [.regValue off.toNat 0] ∧
        t.field F.SEC_DBG_STATUS.DENIED 0 0 = min F.SEC_DBG_STATUS.DENIED.top (s.field F.SEC_DBG_STATUS.DENIED 0 0 + 1) ∧
        SameRegs (fun k => k == ⟨.SEC_DBG_STATUS, 0, 0⟩) s t ∧ SameBut [.regs, .out] s t)) ∧
    (∀ (r : Reg) (i j : Nat), cut = false → regAt off.toNat = some (r, i, j) → s.decodes off.toNat = true → may r → r ≠ .TRC_SNAP_WINDOW →
      let shows (v : Nat) : Prop := Completes read s (fun t =>
        t.out = s.out ++ [.regValue off.toNat (v &&& halfMask h)] ∧
        (∀ b, b < 64 → (t.reg r i j).testBit b = ((s.reg r i j).testBit b && !(rcMask r h).testBit b)) ∧
        SameRegs (fun k => k == ⟨r, i, j⟩) s t ∧ SameBut [.regs, .out] s t)
      (liveWord r j = false → shows (s.viewWord r i j)) ∧
      (∀ v, liveWord r j = true → s.heldWord r i j = some v → shows (v % 2 ^ 64)) ∧
      (liveWord r j = true → s.heldWord r i j = none →
        (j % 32 = 1 → shows (s.now % 2 ^ 64)) ∧
        Completes read s (fun t => (∃ v, t.out = s.out ++ [.regValue off.toNat v]) ∧ SameBut [.regs, .out, .freeCtr] s t))) ∧
    (cut = false → regAt off.toNat = none ∨ s.decodes off.toNat = false → Completes read s (fun t =>
      t.out = s.out ++ [.regValue off.toNat 0] ∧ SameBut [.out] s t)) ∧
    ∀ (r : Reg) (i j : Nat), s.reg r i j &&& r.mask = s.reg r i j

/-! Memory and the network (01 R26 to R34, 10 R278, R284). -/

/-- Reads pass granules on as they are stored, check bytes unchanged: a controller's read, which ends its channel's power-down, and a
read request of `n` granules at its target while neither Hush nor a lost seam channel holds it; held, it does nothing. The home slice may
have written lines back (01 R37). -/
def Obligations.ReadsPassGranules : Prop :=
  ∀ (c : ReqClass) (off : BitVec 41) (n : Fin 9) (s : State),
    let a := off.toNat / 32 * 32
    (s.plainGran a = true → Completes (.memRead off) s (fun t =>
      t.out = s.out ++ [.nocResponse a [burstOf (s.stored a)]] ∧
      (∀ k : ChannelId, t.channels[k] = if k.val = channelOf a then { s.channels[k] with powerDown := false } else s.channels[k]) ∧
      CacheOnly s t ∧ SameBut [.out, .channels, .clusters, .freeCtr] s t)) ∧
    (s.hushed = false → s.remoteCut c off.toNat = false → 0 < n.val → (∀ k, k < n.val → s.plainGran (a + 32 * k) = true) →
      Completes (.nocReadRequest c off n) s (fun t =>
        t.out = s.out ++ [.nocResponse off.toNat ((List.range n.val).map (fun k => burstOf (s.stored (a + 32 * k))))] ∧
        Woken s t ∧ CacheOnly s t ∧ SameBut [.out, .channels, .clusters, .freeCtr] s t)) ∧
    (s.hushed = true ∨ s.remoteCut c off.toNat = true → exec (.nocReadRequest c off n) s = .next s)

/-- A whole granule written at its controller is stored as it is; bytes written to a part of a granule of LPDDR6 that reads clean
replace it in the corrected granule under a new code. Every other byte and code stays; the home slice notes its line. A write that Hush or a lost seam channel holds does
nothing. -/
def Obligations.WritesStoreGranules : Prop :=
  ∀ (c : ReqClass) (off : BitVec 41) (g : BitVec 288) (bytes : List Byte) (s : State), s.Safe →
    let a := off.toNat / 32 * 32
    let x := off.toNat % 32
    let frame (l : List Part) (t : State) : Prop := SameMemory (fun b => b = a / 32) s t ∧ Woken s t ∧ CacheOnly s t ∧
      SameBut (.mem :: .chk :: .channels :: .clusters :: l) s t
    (a < 0x014000000000 → s.flag F.MEM_CH_STATUS.FAILED (channelOf a) 0 = false → Completes (.memWrite off g) s (fun t =>
      t.stored a = granOf g ∧ frame [] t)) ∧
    (s.hushed = false → s.remoteCut c off.toNat = false → s.readsClean a = true → x + bytes.length ≤ 32 →
      Completes (.nocWrite c off bytes) s (fun t =>
        (∀ k, k < 32 → nth (t.stored a).data k 0 =
          if x ≤ k ∧ k < x + bytes.length then nth bytes (k - x) 0 else nth (s.stored a).data k 0) ∧
        (t.stored a).err = 0 ∧ frame [.freeCtr] t)) ∧
    (s.hushed = true ∨ s.remoteCut c off.toNat = true → exec (.nocWrite c off bytes) s = .next s)

/-- A read response adds its granule to what the instruction that waits for it has got, and leaves the rest, while another granule is still
to come; with the last one, Hush not holding the core, the instruction acts as its opcode says, on the granules that it got, and its work
is done, unless they showed it that it needs more; then the next of its unit may start. One that no instruction of the site waits for does nothing. -/
def Obligations.ReadResponseKept : Prop :=
  ∀ (i : SiteId) (addr : Word) (g : BitVec 288) (s : State),
    (∀ (f : Flight) (ws : List Nat) (got : List (Nat × Gran)), f.phase = .remote ws got → f ∈ s.sites[i].flights →
      (∀ h ∈ s.sites[i].flights, h ≠ f → h.phase = .queued ∨ h.phase = .done) → s.sites[i].flights.Nodup →
      ws.Nodup → (got.map (·.1)).Nodup → (∀ b ∈ f.unasked, s.cutFrom (siteStop i) b = true ∨ s.hushed = true) →
      addr.toNat ∈ ws → (∀ e ∈ got, e.1 ≠ addr.toNat) →
      let got' := got ++ [(addr.toNat, granOf g)]
      let put (h' : Flight) (fs : List Flight) : List Flight := fs.map (fun h => if h = f then h' else h)
      (∀ b ∈ ws, b ≠ addr.toNat → (∀ e ∈ got, e.1 ≠ b) → s.inReach i b = false → Completes (.nocReadResponse i addr g) s (fun t =>
        t.sites[i] = { s.sites[i] with flights := put { f with phase := .remote ws got' } s.sites[i].flights } ∧
        SameSites i s t ∧ SameBut [.sites] s t)) ∧
      ((∀ b ∈ ws, ∃ e ∈ got', e.1 = b) → s.hushed = false → f.batch = none →
        let b := ((bodyOf i f).run (Prim.apply (.want []) (Prim.apply (.got got') s))).2
        b.want = [] → ∃ v, exec (.nocReadResponse i addr g) s = .next ((kickUnit 24 i f.unit).run v).2 ∧
          v.sites[i] = { b.sites[i] with flights := put { f with phase := .done, touched := s.writtenIn b } b.sites[i].flights } ∧
          SameSites i b v ∧ SameBut [.sites, .got, .want] b v)) ∧
    ((∀ f ∈ s.sites[i].flights, ∀ ws got, f.phase = .remote ws got → addr.toNat ∉ ws) → exec (.nocReadResponse i addr g) s = .next s)

/-- A multicast writes its granules, codes and all, into the scratchpad of every present core of its mask, and nothing else, but that an
ABORT does not undo it (05 R135); with no present core in its mask it is discarded and counted. That granules past index 65,535 go on at index 0 is the model's choice (log 141). -/
def Obligations.MulticastDelivers : Prop :=
  ∀ (src : SiteId) (p : NocPacket) (s : State), s.Safe → s.collIdle →
    (s.presentOf (nMask p) ≠ [] → s.noc.seams = [] → s.hushed = false →
      (∀ c ∈ s.presentOf (nMask p), ∀ i, s.siteOf c = some i → s.takesGrans i (nGran p) (2 * (nLen p + 1))) →
      Completes (.multicastWrite src p) s (fun t =>
        (∀ c ∈ s.presentOf (nMask p), ∀ i, s.siteOf c = some i → ∀ k, k < 2 * (nLen p + 1) →
          t.stored (scratchGran i (nGran p + k)) = granOf (nth p.grans k 0)) ∧
        SameMemory (fun b => ∃ c ∈ s.presentOf (nMask p), ∃ i, s.siteOf c = some i ∧ ∃ k, k < 2 * (nLen p + 1) ∧
          b = scratchGran i (nGran p + k) / 32) s t ∧ Settled s t ∧ SameBut [.mem, .chk, .sites] s t)) ∧
    (s.presentOf (nMask p) = [] → Completes (.multicastWrite src p) s (fun t =>
      NocDropped F.TOP_NOC_ERROR.MC_EMPTY (siteStop src) s t ∧ SameBut [.regs, .out] s t))

/-- A reduction in mesh order whose mask names one present core is folded nowhere and written at its destination as it was sent; one
that meets other inputs at its stop is held there with the inputs of its tree; one in arrival order at its destination's stop is held with
the number of its contributors until the COUNTs that have come add up to it, or, where other inputs of its stop may bring packets of its key in the same
network cycle, waits for the cycle's end, which of the two being free (01 R28 to R31, R33, log 115). A packet that no stop may combine is
discarded and counted. -/
def Obligations.ReductionTravels : Prop :=
  ∀ (src i : SiteId) (c : Nat) (p : NocPacket) (s : State), s.Safe → s.collIdle → s.noc.seams = [] → s.noc.stalls = [] →
    s.noc.cycle = [] → s.siteOf (nDest p) = some i → s.coreOf src = some c → s.siteOf c = some src →
    let limit := s.field F.TOP_NOC_CONFIG.RED_TIMEOUT 0 0
    let ins := s.stopInputs (nMask p) (siteStop i) (siteStop src)
    let need := (s.presentOf (nMask p)).length
    (nBad p = true → Completes (.reduction src p) s (fun t =>
      NocDropped F.TOP_NOC_ERROR.RED_FORMAT (siteStop src) s t ∧ SameBut [.regs, .out] s t)) ∧
    (nBad p = false → s.noc.holds = [] →
      (nOrd p = true → s.presentOf (nMask p) = [c] → nPoison p = false → s.hushed = false →
        s.takesGrans i (nGran p) (2 * (nLen p + 1)) → Completes (.reduction src p) s (fun t =>
          (∀ k, k < 2 * (nLen p + 1) → t.stored (scratchGran i (nGran p + k)) = granOf (nth p.grans k 0)) ∧
          SameMemory (fun b => ∃ k, k < 2 * (nLen p + 1) ∧ b = scratchGran i (nGran p + k) / 32) s t ∧ Settled s t ∧
          SameBut [.mem, .chk, .sites] s t)) ∧
      (nOrd p = true → 1 < ins.length → (∃ k ∈ ins, k ≠ c) → Completes (.reduction src p) s (fun t =>
        t.noc = { s.noc with holds := [⟨some (siteStop src), [(c, p)], limit, ins, 0⟩] } ∧ SameBut [.noc] s t)) ∧
      (nOrd p = false → siteStop i = siteStop src → need ≠ nCount p →
        let kept : Noc := { s.noc with holds := [⟨none, [(132, p)], limit, [], need⟩] }
        (ins.length ≤ 1 → Completes (.reduction src p) s (fun t => t.noc = kept ∧ SameBut [.noc] s t)) ∧
        (1 < ins.length → Completes (.reduction src p) s (fun t =>
          (t.noc = kept ∨ t.noc = { s.noc with cycle := [⟨siteStop src, c, p⟩] }) ∧ SameBut [.noc, .freeCtr] s t))))

/-- The limit of a wait passes: RED_TIMEOUT and the job error are set; of a wait at a destination, what is held there is dropped from the
waits and its granules are written poison-marked. A limit of 0, or nothing held, times nothing out (01 R33, R44). -/
def Obligations.ReductionTimesOut : Prop :=
  ∀ (stop : Option StopId) (p : NocPacket) (s : State),
    let found := s.noc.holds.find? (fun h => h.stop == stop.map (·.val) && h.parts.any (fun q => nSameBut q.2 p && nFmt q.2 == nFmt p))
    ((∀ h, found = some h → h.limit = 0) → exec (.nocRedTimeout stop p) s = .next s) ∧
    (∀ h, found = some h → h.limit ≠ 0 → s.collIdle → s.field F.TOP_FAULT_CONFIG.JOB_ACTION 0 0 = 0 →
      Completes (.nocRedTimeout stop p) s (fun t =>
        t.flag F.TOP_NOC_ERROR.RED_TIMEOUT 0 0 = true ∧ t.flag F.TOP_FAULT_STATUS.JOB_ERR 0 0 = true ∧
        (∀ i, s.Safe → s.hushed = false → s.flag F.TRC_HUSH_CTRL.ON_UE 0 0 = false → s.noc.stalls = [] → stop = none →
          (∀ q ∈ h.parts, nSameBut q.2 p = true) → s.siteOf (nDest p) = some i → s.takesGrans i (nGran p) (2 * (nLen p + 1)) →
          t.noc = { s.noc with holds := s.noc.holds.erase h } ∧ t.field F.TOP_NOC_ERROR.LAST_STOP 0 0 = siteStop i ∧
          (∀ k, k < 2 * (nLen p + 1) → (t.stored (scratchGran i (nGran p + k))).err = poisonErr) ∧
          SameMemory (fun b => ∃ k, k < 2 * (nLen p + 1) ∧ b = scratchGran i (nGran p + k) / 32) s t)))

/-- A reserved kind at a stop sets BAD_KIND and the stop and counts the discarded packet. A seam channel that loses lock is noted with
SEAM_LOCK, nothing else of the network changing; that LAST_STOP names the stop on its west side is the model's reading (log 29). With lock
back it is noted no more, nothing having waited for it. A
completion packet carries nothing more, acceptance being taken with the write itself, which is the model's choice (log 6). -/
def Obligations.NetworkEvents : Prop :=
  ∀ (stop : StopId) (kind : Fin 8) (row : Fin 4) (plane : Fin 8) (i : SiteId) (u : CoreUnit) (s : State),
    Completes (.nocBadKind stop kind) s (fun t => NocDropped F.TOP_NOC_ERROR.BAD_KIND stop.val s t ∧ SameBut [.regs, .out] s t) ∧
    Completes (.seamLockLoss row plane) s (fun t =>
      t.seamLost row.val plane.val = true ∧ t.flag F.TOP_NOC_ERROR.SEAM_LOCK 0 0 = true ∧
      t.field F.TOP_NOC_ERROR.LAST_STOP 0 0 = 12 * row.val + 5 ∧
      (∀ q, q ≠ (row.val, plane.val) → t.noc.seams.contains q = s.noc.seams.contains q) ∧
      t.noc = { s.noc with seams := t.noc.seams } ∧ SameRegs (eventReg .TOP_NOC_ERROR) s t ∧ SameBut [.regs, .out, .noc] s t) ∧
    (s.collIdle → (∀ w ∈ s.noc.waits, ¬ (w.row = row.val ∧ w.plane = plane.val)) → s.noc.stalls = [] → s.fabric.transit = [] →
      (∀ (j : SiteId) (f : Flight), f ∈ s.sites[j].flights → ∀ ws got, f.phase ≠ .remote ws got) → s.rakeStill →
      (∀ (d : ClusterId) x, s.mowerNext d = some x → x.2.phase ≠ .queued) →
      (∀ r : RingId, s.host.rings[r].late = [] ∧ s.host.rings[r].acted = false) →
      Completes (.seamLockReturn row plane) s (fun t =>
        t.noc = { s.noc with seams := s.noc.seams.filter (· != (row.val, plane.val)) } ∧ SameBut [.noc] s t)) ∧
    exec (.nocCompletion i u) s = .next s

/-- A contribution accepted by its home Anthill: folded into the entry that it matches, into the canonical NaN, with a record, where that
entry's code is not correctable; else it gets an entry of the least way free in its set, or the way of the oldest, whose record is written
at FILL; in order and not the first of its run, or with no way enabled, it is itself written as a record. At the limit the record is lost,
with SPILL_LOST, a count and the job error. Nothing but that Anthill, its status and counts, and the record with what the slices note of its lines changes. A contribution that a
lost seam channel holds, or that an earlier one of its core precedes on its way, waits (01 R17, R22). -/
def Obligations.AnthillFolds : Prop :=
  ∀ (p : Contribution) (c : ClusterId) (s : State), c.val = homeSlice (32 * p.granule.toNat) →
    let sent := s.noc.inserts.find? (fun x => x.pkt == p)
    let held := ∃ x, sent = some x ∧ s.insertHeld x = true
    let left (t : State) : Prop :=
      t.noc = { s.noc with inserts := match sent with | some x => s.noc.inserts.erase x | none => s.noc.inserts }
    let others (t : State) : Prop := (∀ d : ClusterId, d ≠ c → t.clusters[d] = s.clusters[d]) ∧ left t
    let frame (t : State) : Prop := others t ∧ t.flag F.ANT_STATUS.BUSY c 0 = true ∧ SameRegs (fun k => k == ⟨.ANT_STATUS, c, 0⟩) s t ∧
      SameBut [.regs, .clusters, .noc] s t
    let way := antWay s.clusters[c] (antSet p.ctx.val p.granule.toNat)
    let fill := s.field F.ANT_STATUS.FILL c 0
    let room := fill < s.field F.ANT_SPILL_LIMIT.LIMIT c 0
    let folds (e : AntEntry) (d : List Byte) (t : State) : Prop :=
      t.clusters[c] = { s.clusters[c] with ant := s.clusters[c].ant.map (fun q => if q = e then e.take p d else q) }
    let fresh (w : Nat) : AntEntry := (AntEntry.fresh p s.clusters[c].age w).take p (zeroBytes 32)
    let spilt (r : AntRec) (t : State) : Prop :=
      (∀ d : ClusterId, d ≠ c → t.clusters[d] = { s.clusters[d] with llc := t.clusters[d].llc }) ∧ left t ∧ t.field F.ANT_STATUS.FILL c 0 = fill + 1 ∧
      SameMemory (fun b => b = s.spillAt c fill / 32 ∨ b = s.spillAt c fill / 32 + 1) s t ∧
      (s.plainGran (s.spillAt c fill) = true → s.plainGran (s.spillAt c fill + 32) = true →
        t.stored (s.spillAt c fill) = ⟨r.value, r.err⟩ ∧
        t.stored (s.spillAt c fill + 32) = .valid { r with seq := s.clusters[c].seq }.header)
    let lost (t : State) : Prop := others t ∧ t.flag F.ANT_STATUS.SPILL_LOST c 0 = true ∧ t.flag F.TOP_FAULT_STATUS.JOB_ERR 0 0 = true ∧
      t.field F.ANT_EVENTS.LOST c 0 = min F.ANT_EVENTS.LOST.top (s.field F.ANT_EVENTS.LOST c 0 + 1) ∧
      t.field F.ANT_STATUS.FILL c 0 = fill ∧ t.mem = s.mem ∧ t.chk = s.chk
    let alone : AntRec := ((AntEntry.fresh p 0 0).take p (zeroBytes 32)).record
    (held → exec (.anthillInsert p) s = .next s) ∧
    (¬ held →
      (∀ e, antMatch s.clusters[c].ant p = some e →
        ((e.val.decode.1 = .clean ∨ ∃ syms, e.val.decode.1 = .corrected syms) → Completes (.anthillInsert p) s (fun t =>
          folds e e.val.decode.2 t ∧ frame t)) ∧
        (e.val.decode.1 = .uncorr ∨ e.val.decode.1 = .poison → Completes (.anthillInsert p) s (fun t =>
          folds e (nanLanes e.lane) t ∧ others t ∧ SameBut [.regs, .clusters, .noc, .obs, .out, .freeCtr] s t))) ∧
      (antMatch s.clusters[c].ant p = none →
        (∀ w, (p.ord = false ∨ p.runStart = true) → way.1 = some w → Completes (.anthillInsert p) s (fun t =>
          t.clusters[c] = { s.clusters[c] with ant := s.clusters[c].ant ++ [fresh w], age := s.clusters[c].age + 1 } ∧ frame t)) ∧
        ((p.ord = true ∧ p.runStart = false) ∨ way = (none, none) →
          (room → Completes (.anthillInsert p) s (fun t =>
            t.clusters[c] = { s.clusters[c] with seq := s.clusters[c].seq + 1, llc := t.clusters[c].llc } ∧ spilt alone t)) ∧
          (¬ room → s.field F.TOP_FAULT_CONFIG.JOB_ACTION 0 0 = 0 → Completes (.anthillInsert p) s (fun t =>
            t.clusters[c] = s.clusters[c] ∧ lost t))) ∧
        (∀ e, (p.ord = false ∨ p.runStart = true) → way = (none, some e) →
          let ant := s.clusters[c].ant.filter (fun q => q ≠ e) ++ [fresh e.way]
          (room → Completes (.anthillInsert p) s (fun t =>
            t.clusters[c] = { s.clusters[c] with
              seq := s.clusters[c].seq + 1, age := s.clusters[c].age + 1, ant := ant, llc := t.clusters[c].llc } ∧
            spilt e.record t)) ∧
          (¬ room → s.field F.TOP_FAULT_CONFIG.JOB_ACTION 0 0 = 0 → Completes (.anthillInsert p) s (fun t =>
            t.clusters[c] = { s.clusters[c] with age := s.clusters[c].age + 1, ant := ant } ∧ lost t)))))

/-! The Rake (09 R259 to R262, R275). -/

/-- A command of the Rake in execution completes: its status and step show, HEAD moves on, word 7 of its entry says DONE and the status
where the entry reads clean, and a draining Rake is then idle. One that is refused before it writes has the status of its refusal and writes
nothing else. Any other has the status, and leaves the memory, that its operation gives on the shard as the record says: an UPDATE whose
header asks for a skip under policy 0 writes a SKIPPED commit of the state as it stands and nothing else, with status 2; one that goes on
writes its new slot and then, if all that it read was correctable, a commit with the slot's fingerprint, with status 0, else no commit,
with status 8; a VERIFY writes nothing, with status 0 or 7 as the slot's fold agrees with its commit. Hush, a shard being replaced, or
traffic that a lost seam channel holds, hold a command (01 R17, 09 R268, 19 R493). -/
def Obligations.RakeCompletes : Prop :=
  ∀ (c : Instr) (o : Nat) (r : RakeRun) (s : State), s.Safe → rakeOp c = some o → s.rake.run = some r →
    let w0 := (nth r.cmd 0 0).toNat
    let op := fld w0 63 56
    let step := fld w0 31 0
    let e := s.rakeEntry (s.field F.RAKE_RING_PTRS.HEAD 0 0)
    let x := s.rakeShard r
    let entry (b : Nat) : Prop := b = e / 32 + 1
    let status (n : Nat) (t : State) : Prop := t.field F.RAKE_STATUS.LAST_STATUS 0 0 = n
    (if op = 0 ∨ 4 < op then 5 else op) = o →
    (s.hushed = true ∨ s.rakeHeld r = true → exec c s = .next s) ∧
    (s.hushed = false → s.rakeHeld r = false → (op = 1 → s.rake.adopt = []) → Completes c s (fun t =>
      t.field F.RAKE_STATUS.LAST_STEP 0 0 = step ∧ t.field F.RAKE_STATUS.LAST_STATUS 0 0 ≤ 8 ∧
      t.field F.RAKE_RING_PTRS.HEAD 0 0 = (s.field F.RAKE_RING_PTRS.HEAD 0 0 + 1) % s.rakeSize ∧
      t.field F.RAKE_RING_PTRS.TAIL 0 0 = s.field F.RAKE_RING_PTRS.TAIL 0 0 ∧
      (s.rake.draining = true → t.rake = { s.rake with run := none } ∧ t.field F.RAKE_STATUS.BUSY 0 0 = 0) ∧
      (∀ st, s.rakeEarly r = some st → status st t ∧ SameMemory entry s t ∧
        (s.readsClean (e + 32) = true → leAt (t.stored (e + 32)).data 24 8 = 2 ^ 63 + st * 2 ^ 48)) ∧
      (∀ h k, s.rakeEarly r = none → x.1 = some (h, k) →
        let y := (rakeBody op r h k).run x.2
        status y.1 t ∧ SameMemory entry y.2 t ∧
        (∀ m, op = 4 → k = some m →
          let f := ((foldSlot rakeReq h m.dslot (fun _ => true)).run x.2).1
          SameMemory entry s t ∧ status (match f with | none => 8 | some fp => if fp = m.fp then 0 else 7) t) ∧
        (∀ m g u, op = 1 → k = some m → (readHeader h step).run x.2 = (some g, u) → g.ok = true →
          let at' := (h.at' + 64 + 32 * (step % 2)) % 2 ^ 41
          (g.jobNf = true → r.policy = 0 → status 2 t ∧ SameMemory (fun b => b = at' / 32 ∨ entry b) s t ∧
            (s.plainGran at' = true → at' ≠ e + 32 → t.stored at' = .valid (commitBytes h.sid step m.fp m.epoch 1 m.dslot))) ∧
          (∀ f v, (g.jobNf = false ∨ r.policy = 1) →
            let zero := r.policy == 1 && g.nf
            (updateSlot h (Hyper.ofCmd r.cmd) step m.dslot g.fmt zero).run u = (f, v) →
            (f = none → status 8 t ∧ SameMemory entry v t) ∧
            (∀ fp, f = some fp → status 0 t ∧ SameMemory (fun b => b = at' / 32 ∨ entry b) v t ∧
              (v.plainGran at' = true → at' ≠ e + 32 → t.stored at' =
                .valid (commitBytes h.sid step fp (fld (nth r.cmd 6 0).toNat 63 32) (if zero then 2 else 0) (1 - m.dslot)))))))))

/-- The Rake's registers. A doorbell sets TAIL; an idle Rake, neither draining nor held, then takes the entry at HEAD if it is not TAIL,
both modulo the ring's size.
DRAIN takes no further command. ABORT drains and ends the command in execution with status 9, HEAD one on. RESUME ends a drain. -/
def Obligations.RakeControl : Prop :=
  ∀ (tail : BitVec 32) (s : State), s.accepts .RAKE_RING_PTRS 0 0 = true → s.accepts .RAKE_CTRL 0 0 = true →
    let head := s.field F.RAKE_RING_PTRS.HEAD 0 0
    let e := s.rakeEntry head
    let takes := s.rake.run = none ∧ s.rake.draining = false ∧ s.hushed = false ∧ head % s.rakeSize ≠ tail.toNat % s.rakeSize
    (takes → s.readsClean e = true → s.readsClean (e + 32) = true → Completes (.rakeDoorbell tail) s (fun t =>
      t.field F.RAKE_RING_PTRS.TAIL 0 0 = tail.toNat ∧ t.field F.RAKE_RING_PTRS.HEAD 0 0 = head ∧
      t.rake = { s.rake with run := some ⟨(List.range 8).map (fun k =>
        BitVec.ofNat 64 (leAt (s.stored (e + 32 * (k / 4))).data (8 * (k % 4)) 8)), false, s.field F.RAKE_CONFIG.NF_POLICY 0 0⟩ } ∧
      t.field F.RAKE_STATUS.BUSY 0 0 = 1 ∧ t.field F.RAKE_STATUS.UNITS_BUSY 0 0 = 32 ∧
      SameRegs (fun k => [Reg.RAKE_RING_PTRS, .RAKE_STATUS].contains k.reg) s t ∧ Woken s t ∧ CacheOnly s t ∧
      SameBut [.regs, .rake, .channels, .clusters] s t)) ∧
    (¬ takes → Completes (.rakeDoorbell tail) s (fun t =>
      t.field F.RAKE_RING_PTRS.TAIL 0 0 = tail.toNat ∧ t.field F.RAKE_RING_PTRS.HEAD 0 0 = head ∧
      SameRegs (fun k => k == ⟨.RAKE_RING_PTRS, 0, 0⟩) s t ∧ SameBut [.regs] s t)) ∧
    Completes .rakeDrain s (fun t =>
      t.rake = { s.rake with draining := true } ∧ t.flag F.RAKE_STATUS.DRAINING 0 0 = true ∧
      SameRegs (fun k => k == ⟨.RAKE_STATUS, 0, 0⟩) s t ∧ SameBut [.regs, .rake] s t) ∧
    (∀ r, s.rake.run = some r → Completes .rakeAbort s (fun t =>
      t.rake = { s.rake with run := none, draining := true } ∧ t.field F.RAKE_STATUS.LAST_STATUS 0 0 = 9 ∧
      t.field F.RAKE_RING_PTRS.HEAD 0 0 = (head + 1) % s.rakeSize ∧ t.field F.RAKE_STATUS.BUSY 0 0 = 0)) ∧
    (s.rake.run = none → exec .rakeAbort s = exec .rakeDrain s) ∧
    (s.rake.run ≠ none ∨ s.hushed = true ∨ head % s.rakeSize = s.field F.RAKE_RING_PTRS.TAIL 0 0 % s.rakeSize → Completes .rakeResume s (fun t =>
      t.rake = { s.rake with draining := false } ∧ t.flag F.RAKE_STATUS.DRAINING 0 0 = false ∧
      SameRegs (fun k => k == ⟨.RAKE_STATUS, 0, 0⟩) s t ∧ SameBut [.regs, .rake] s t))

/-! Memory upkeep (10 R278, R291, R292, 16 R433). -/

/-- A write of the scrub period starts the pass anew. A scrub read of a usable channel, short of the end of its pass, moves that channel
on, out of power-down; of a line that its slice does not hold newer, a granule that decodes as corrected is written back with a new code, and no other byte or code changes. A readout of a package sets
the refresh of its four channels and, from 95 °C, MEM_HOT. Power-down is noted at its channel. -/
def Obligations.MemoryUpkeep : Prop :=
  ∀ (s : State),
    (∀ period : Byte, s.accepts .MEM_SCRUB_CTRL 0 0 = true → Completes (.scrubPeriodWrite period) s (fun t =>
      t.field F.MEM_SCRUB_CTRL.PERIOD 0 0 = period.toNat ∧ t.field F.MEM_SCRUB_STATUS.PROGRESS 0 0 = 0 ∧
      (∀ k : ChannelId, t.channels[k] = { s.channels[k] with scrub := 0 }) ∧
      SameRegs (fun k => [Reg.MEM_SCRUB_CTRL, .MEM_SCRUB_STATUS].contains k.reg) s t ∧ SameBut [.regs, .channels] s t)) ∧
    (∀ ch : ChannelId, s.Safe → s.field F.MEM_SCRUB_CTRL.PERIOD 0 0 ≠ 0 → s.flag F.MEM_CH_STATUS.USABLE ch.val 0 = true →
      let n := s.channels[ch].scrub
      let off := offsetAt ch.val (n % 2) (n / 2)
      n + 1 < chanGrans → s.erased off = none → s.dirtyLine off = none → Completes (.scrubGranule ch) s (fun t =>
        t.channels[ch] = { s.channels[ch] with scrub := n + 1, powerDown := false } ∧ (∀ k : ChannelId, k ≠ ch → t.channels[k] = s.channels[k]) ∧
        (∀ syms d, (s.stored off).decode = (.corrected syms, d) → t.stored off = .valid d ∧ SameMemory (fun b => b = off / 32) s t) ∧
        ((∀ syms, (s.stored off).decode.1 ≠ .corrected syms) → SameMemory (fun _ => False) s t))) ∧
    (∀ (j : Fin 16) (temp : Byte), Completes (.refreshRateUpdate j temp) s (fun t =>
      (∀ k : ChannelId, t.channels[k] = if k.val / 4 = j.val then { s.channels[k] with refresh := temp.toNat } else s.channels[k]) ∧
      (95 ≤ temp.toNat → t.flag F.PWR_EVENT.MEM_HOT 0 0 = true) ∧
      (temp.toNat < 95 → t.regs = s.regs) ∧ SameBut [.regs, .channels, .pwr, .obs, .out] s t)) ∧
    (∀ ch : ChannelId, Completes (.powerDownEntry ch) s (fun t =>
      t.channels[ch] = { s.channels[ch] with powerDown := true } ∧ (∀ k : ChannelId, k ≠ ch → t.channels[k] = s.channels[k]) ∧
      SameBut [.channels] s t))

/-- GO with no fill running sets LEN; the engine is then busy, or, with no granule to fill, done at once, which is cause 2; while it is
busy a write does nothing. The fill's end leaves every granule of the range, in working channels open to jobs, zero with a valid code,
every other byte and code as it was, the engine idle and cause 2 set. -/
def Obligations.FillActs : Prop :=
  ∀ (v : Word) (s : State), s.Safe →
    let len := s.field F.MEM_FILL_CTRL.LEN 0 0
    let base := 32 * s.field F.MEM_FILL_BASE.BASE 0 0
    let busy := s.flag F.MEM_FILL_CTRL.BUSY 0 0
    (s.accepts .MEM_FILL_CTRL 0 0 = true → busy = false → Completes (.fillGo v) s (fun t =>
      t.field F.MEM_FILL_CTRL.LEN 0 0 = v.toNat % 2 ^ 36 ∧
      t.flag F.MEM_FILL_CTRL.BUSY 0 0 = decide (v.toNat % 2 ^ 36 ≠ 0) ∧
      (v.toNat % 2 ^ 36 = 0 → (t.reg .HST_IRQ_CAUSE 0 0).testBit 2 = true) ∧
      (v.toNat % 2 ^ 36 ≠ 0 → SameRegs (fun k => k == ⟨.MEM_FILL_CTRL, 0, 0⟩) s t ∧ SameBut [.regs] s t) ∧
      SameRegs (eventReg .MEM_FILL_CTRL) s t ∧ SameBut [.regs, .out] s t)) ∧
    (busy = true → exec (.fillGo v) s = .next s ∨ s.accepts .MEM_FILL_CTRL 0 0 = false) ∧
    (busy = true → (∀ k, k < len → s.plainGran (base + 32 * k) = true) → Completes .fillComplete s (fun t =>
      (∀ k, k < len → t.stored (base + 32 * k) = .valid (zeroBytes 32)) ∧
      SameMemory (fun b => base / 32 ≤ b ∧ b < base / 32 + len) s t ∧
      t.flag F.MEM_FILL_CTRL.BUSY 0 0 = false ∧ (t.reg .HST_IRQ_CAUSE 0 0).testBit 2 = true ∧
      SameRegs (eventReg .MEM_FILL_CTRL) s t ∧ Woken s t ∧ CacheOnly s t ∧
      SameBut [.regs, .out, .mem, .chk, .channels, .clusters] s t)) ∧
    (busy = false → exec .fillComplete s = .next s)

/-! The fabric: packets (11 R308, R309, R315 to R328). -/

/-- Requests at their destination, for LPDDR6 open to jobs. A LOAD is answered with the granules as they are stored, their channels
waking; a STORE stores its granules, codes and all, signals, and is answered; an atomic replaces its word, FADD by the sum modulo 2^64, CAS
where the old word is word 3, and answers the old word. No other byte or code changes; an ABORT does not undo what a STORE wrote (05
R135). A request whose way to its granules, or back,
crosses a seam channel without lock is held there (01 R17); one for the window of a core whose clock Hush has stopped waits in that core's
queue (01 R41). -/
def Obligations.RequestsServed : Prop :=
  ∀ (l : Option LinkId) (p q : Packet) (s : State), s.Safe → s.collIdle →
    (∀ c ∈ [Instr.loadPacket l p, .storePacket l p, .fadd l p, .cas l p], ∀ op, fabricCmd c = some (l, p, op) → s.takesPacket l p op q →
      let w : FWait := { input := inputOf l, out := none, packet := q, vc := if l.isSome then s.fabric.rx else none }
      let f : Fabric := if l.isSome then { s.fabric with rx := none } else s.fabric
      (s.serveCut l q = true → Completes c s (fun t => t.fabric = { f with transit := f.transit ++ [w] } ∧ SameBut [.fabric] s t)) ∧
      (s.serveCut l q = false → s.coreStopped q = true → Completes c s (fun t =>
        t.fabric = { f with parked := f.parked ++ [w] } ∧ SameBut [.fabric] s t))) ∧
    (badWord1 p = false → pSpace p = 1 → p.grans.length ≤ 8 → s.serveCut l q = false →
      (s.takesPacket l p 0 q → (∀ k, k < pLen p → s.plainGran (granOff p k) = true) →
        ∃ u, exec (.loadPacket l p) s =
          .next ((forward 64 (responseTo s q 1 0 0 0 ((List.range (pLen p)).map (fun k => burstOf (s.stored (granOff p k)))))).run u).2 ∧
          Woken s u ∧ SameBut [.channels, .freeCtr] s u) ∧
      (s.takesPacket l p 2 q → s.epochDiffers p = false → (∀ k, k < p.grans.length → s.plainGran (granOff p k) = true) →
        s.signalOk p.w2.toNat →
        ∃ u, exec (.storePacket l p) s = .next ((forward 64 (responseTo u q 6 0 1 0 [])).run u).2 ∧
          (∀ k, k < p.grans.length → u.stored (granOff p k) = granOf (nth p.grans k 0)) ∧
          SameMemory (fun b => ∃ k, k < p.grans.length ∧ b = granOff p k / 32) s u ∧
          Signalled p.w2.toNat s u ∧ Woken s u ∧ CacheOnly s u ∧ Settled s u ∧
          SameBut [.regs, .mem, .chk, .channels, .clusters, .sites, .freeCtr] s u) ∧
      (∀ op, op = 3 ∨ op = 4 → s.takesPacket l p op q → s.readsClean (granOff p 0) = true → (granOf (nth p.grans 0 0)).err = 0 →
        let off := granOff p 0
        let j := fld (pOff p) 4 3
        let old := leAt (s.stored off).data (8 * j) 8
        let new := if op = 3 then (old + payloadWord p) % 2 ^ 64 else if old = p.w3.toNat then payloadWord p else old
        ∃ u g, exec (if op = 3 then .fadd l p else .cas l p) s = .next ((forward 64 (responseTo u q 5 0 0 old [g])).run u).2 ∧
          (∀ b, b < 32 → nth (u.stored off).data b 0 =
            if 8 * j ≤ b ∧ b < 8 * j + 8 then BitVec.ofNat 8 (new >>> (8 * (b - 8 * j))) else nth (s.stored off).data b 0) ∧
          (u.stored off).err = 0 ∧ SameMemory (fun b => b = off / 32) s u ∧ Woken s u ∧ CacheOnly s u ∧
          SameBut [.mem, .chk, .freeCtr, .channels, .clusters] s u))

/-- Answers at their source, with nothing held by the order of a stream. A LOAD_RESP of status OK takes its request out of those awaited
and adds its granules to what the instruction that waits has got, each as often as it was asked; an ATOMIC_RESP and a COMPLETE take out what they answer. A status other
than OK shows in FAB_ERROR. -/
def Obligations.ResponsesTaken : Prop :=
  ∀ (l : Option LinkId) (p q : Packet) (s : State), s.collIdle → s.fabric.held = [] →
    (∀ (r : FReq) (i : SiteId) (u : CoreUnit) (pc : Word) (f : Flight) (ws : List Nat) (got : List (Nat × Gran)),
      s.takesPacket l p 1 q → pStatus p = 0 → s.reqOf p (· == 0) = some r → r.origin = .core i u pc →
      s.sites[i].flights.find? (fun f => f.unit == u && f.pc == pc && f.phase != .done && f.phase != .queued) = some f →
      f.phase = .remote ws got →
      let gs := (List.range r.len).map (fun k => ((r.addr / 32 * 32 + 32 * k) % 2 ^ 64, granOf (nth p.grans k 0)))
      let count (l : List Nat) (a : Nat) : Nat := (l.filter (· == a)).length
      let got' := got ++ gs.filter (fun g => decide (count (got.map (·.1)) g.1 < count ws g.1))
      (∀ b ∈ f.unasked, s.cutFrom (siteStop i) b = true ∨ s.hushed = true) → (∃ b ∈ ws, s.inReach i b = false ∧ ∀ e ∈ got', e.1 ≠ b) → Completes (.loadResp l p) s (fun t =>
        t.fabric = { s.fabric with reqs := s.fabric.reqs.erase r } ∧
        t.sites[i] = { s.sites[i] with flights := s.sites[i].flights.map (fun h => if h = f then { f with phase := .remote ws got' } else h) } ∧
        SameSites i s t ∧ SameBut [.fabric, .sites] s t)) ∧
    (∀ (r : FReq) (i : SiteId) (u : CoreUnit) (pc : Word), s.takesPacket l p 5 q → pStatus p = 0 →
      s.reqOf p (fun o => o == 3 || o == 4) = some r → r.origin = .core i u pc → Completes (.atomicResp l p) s (fun t =>
        t.fabric = { s.fabric with reqs := s.fabric.reqs.erase r } ∧ SameBut [.fabric] s t)) ∧
    (s.takesPacket l p 6 q → pStatus p = 0 → (∀ r ∈ s.covered p, ∃ i u pc, r.origin = .core i u pc) →
      Completes (.complete l p) s (fun t =>
        t.fabric = { s.fabric with reqs := (s.covered p).foldl (fun rs r => rs.erase r) s.fabric.reqs } ∧ SameBut [.fabric] s t)) ∧
    (pStatus p ≠ 0 → s.fabric.reqs = [] → ∀ c ∈ [Instr.loadResp l p, .atomicResp l p, .complete l p], ∀ op,
      fabricCmd c = some (l, p, op) → s.takesPacket l p op q → Completes c s (fun t =>
        t.field F.FAB_ERROR.LAST_STATUS 0 0 = pStatus p ∧ t.flag F.FAB_ERROR.REMOTE_STATUS 0 0 = true ∧
        SameRegs (eventReg .FAB_ERROR) s t ∧ SameBut [.regs, .out] s t))

/-- The router. What arrives by a link that is down is no packet; a reserved OP, a LEN outside its OP's range or format 3 is discarded; a
packet whose way leads to a link is sent on it, or held where it crosses the mesh by a seam channel without lock (11 R311); one that has
crossed five links is discarded, and so is one that no link that is up leads on, if it asks nothing. -/
def Obligations.PacketsRouted : Prop :=
  ∀ (c : Instr) (l : Option LinkId) (p : Packet) (op : Nat) (s : State), fabricCmd c = some (l, p, op) →
    (s.inputUp l = false → exec c s = .next s) ∧
    (s.inputUp l = true → pBad p = true → Completes c s (Dropped F.FAB_ERROR.BAD_OP s)) ∧
    (∀ n q, s.inputUp l = true → pBad p = false → pOp p = op → s.route p = (.link n, q) →
      (pHop q < 5 → s.transitCut (inputOf l) n = false → exec c s = .next ((sendFrom (inputOf l) n q).run s).2) ∧
      (pHop q < 5 → s.transitCut (inputOf l) n = true → Completes c s (fun t =>
        t.fabric = { s.fabric with rx := none, transit := s.fabric.transit ++ [
          { input := inputOf l, out := some n, packet := q, vc := s.fabric.rx }] } ∧
        SameBut [.fabric] s t)) ∧
      (5 ≤ pHop q → Completes c s (Dropped F.FAB_ERROR.HOP_LIMIT s))) ∧
    (∀ q, s.inputUp l = true → pBad p = false → pOp p = op → s.route p = (.unreachable, q) → pRequest p = false →
      Completes c s (Dropped F.FAB_ERROR.UNREACHABLE s))

/-- Trees. A REDUCE that its entry serves opens a key and is held while inputs are missing; one that would open a 257th key, or that Hush
keeps from the engine, waits at its input; an MCAST for this device alone writes its granules, codes and all, and signals; with no entry that serves it either is discarded.
The end of a key's wait sets RED_TIMEOUT and the job error, and the key is left; with no limit, no such key, or under Hush, nothing happens (19 R488). -/
def Obligations.TreesServed : Prop :=
  ∀ (l : Option LinkId) (p : Packet) (s : State), s.Safe → s.collIdle →
    (s.takesTree l p 7 → s.treeServes p 0 = true → s.epochDiffers p = false →
      (∀ h ∈ s.fabric.holds, ∀ x ∈ h.parts, sameSpot x.2 p = false) →
      (s.hushed = false → s.fabric.holds.length < 256 → s.treeReady ⟨pTag p, [(l.map (·.val), p)]⟩ = false → Completes (.reduce l p) s (fun t =>
        t.fabric = { s.fabric with holds := s.fabric.holds ++ [⟨pTag p, [(l.map (·.val), p)]⟩] } ∧ SameBut [.fabric] s t)) ∧
      (s.hushed = true ∨ 256 ≤ s.fabric.holds.length → Completes (.reduce l p) s (fun t =>
        t.fabric.stalls = [{ input := inputOf l, out := none, packet := p, vc := if l.isSome then s.fabric.rx else none }] ∧ t.fabric.holds = s.fabric.holds ∧
        SameBut [.fabric] s t))) ∧
    (s.takesTree l p 8 → s.treeServes p 1 = true → s.epochDiffers p = false → s.tree (pTag p) F.FAB_TREE_LINKS.LINKS = 0 →
      s.tree (pTag p) F.FAB_TREE.LOCAL = 1 → p.grans.length ≤ 8 → (∀ k, k < p.grans.length → s.plainGran (granOff p k) = true) →
      s.signalOk p.w2.toNat → Completes (.mcast l p) s (fun t =>
        (∀ k, k < p.grans.length → t.stored (granOff p k) = granOf (nth p.grans k 0)) ∧
        SameMemory (fun b => ∃ k, k < p.grans.length ∧ b = granOff p k / 32) s t ∧
        Signalled p.w2.toNat s t ∧ Woken s t ∧ CacheOnly s t ∧ Settled s t ∧
        SameBut [.regs, .mem, .chk, .channels, .clusters, .sites, .freeCtr] s t)) ∧
    (s.takesTree l p 7 → s.treeServes p 0 = false → Completes (.reduce l p) s (Dropped F.FAB_ERROR.TREE_MISS s)) ∧
    (s.takesTree l p 8 → s.treeServes p 1 = false → Completes (.mcast l p) s (Dropped F.FAB_ERROR.TREE_MISS s)) ∧
    (∀ (tag : BitVec 16) (addr : Word),
      let found := s.fabric.holds.find? (fun h => h.tag == tag.toNat && h.parts.any (fun q => q.2.w1.toNat == addr.toNat))
      (found = none ∨ s.field F.FAB_CONFIG.RED_TIMEOUT 0 0 = 0 ∨ s.hushed = true → exec (.fabRedTimeout tag addr) s = .next s) ∧
      (∀ h, found = some h → s.field F.FAB_CONFIG.RED_TIMEOUT 0 0 ≠ 0 → s.hushed = false → Completes (.fabRedTimeout tag addr) s (fun t =>
        t.flag F.FAB_ERROR.RED_TIMEOUT 0 0 = true ∧ t.flag F.TOP_FAULT_STATUS.JOB_ERR 0 0 = true ∧
        t.fabric.holds = s.fabric.holds.erase h)))

/-- SYNC and time. A heartbeat shows in the peer register of every link to its source, and with COLLECT its granule in the table. A gather
packet of a barrier opens its key, or waits at its input while the engine's 16 keys are taken or Hush holds the engine. A TIME message is noted at its link; on the
link towards the grandmaster the device takes its stratum and leaves holdover, and with an echo the offset is computed and the device
locked, its timebase stepped at its first lock of bring-up alone. A TIME message sent carries the grandmaster, the stratum (63 without a
parent, then in holdover), the present time and the last message received. -/
def Obligations.SyncAndTime : Prop :=
  ∀ (l : LinkId) (i : Option LinkId) (p q : Packet) (s : State), s.Safe → s.collIdle →
    let g := granOf (nth p.grans 0 0)
    let gm := s.field F.FAB_TIME_CONFIG.GM 0 0
    (s.takesPacket i p 10 q → p.grans ≠ [] → fld p.w2.toNat 7 0 = 0 → g.err = 0 → Completes (.syncHeartbeat i p) s (fun t =>
      (∀ n, n < 64 → s.field F.FAB_LINK_STATUS.PEER_DEV n 0 = pSrc p →
        t.field F.PWR_HB_PEER.FLAGS 0 n = leAt g.data 10 1 ∧ t.field F.PWR_HB_PEER.HOT_MAX 0 n = leAt g.data 11 1 ∧
        t.field F.PWR_HB_PEER.CEILING_MHZ 0 n = leAt g.data 12 2 ∧ t.field F.PWR_HB_PEER.SEQ 0 n = leAt g.data 16 4) ∧
      (s.flag F.PWR_HB_CONFIG.COLLECT 0 0 = false →
        SameRegs (fun k => k.reg == .PWR_HB_PEER && s.field F.FAB_LINK_STATUS.PEER_DEV k.idx 0 == pSrc p) s t ∧ SameBut [.regs] s t) ∧
      (let a := (32 * s.field F.PWR_HB_TABLE.BASE 0 0 + 32 * pSrc p) % 2 ^ 41
       s.flag F.PWR_HB_CONFIG.COLLECT 0 0 = true → s.plainGran a = true → t.stored a = g ∧ SameMemory (fun b => b = a / 32) s t ∧
        Woken s t ∧ CacheOnly s t ∧ Settled s t ∧
        SameBut [.regs, .mem, .chk, .channels, .clusters, .sites, .freeCtr] s t))) ∧
    (let y := syncKey g
     s.takesPacket i p 10 q → fld p.w2.toNat 7 0 = 1 → g.err = 0 → s.keyGone y.1 y.2.1 y.2.2 = false →
      (∀ k ∈ s.coll.keys, k.ready = false ∧ k.done = none ∧ (k.tag, k.seq, k.round) ≠ y) →
      (s.hushed = false → s.coll.keys.length < 16 → Completes (.syncCollective i p) s (fun t =>
        t.coll = { s.coll with keys := s.coll.keys ++ [⟨y.1, y.2.1, y.2.2, [(pSrc p, leAt g.data 0 8, leAt g.data 16 8, leAt g.data 24 8)],
          none, 0, 0, false, none⟩] } ∧ SameBut [.coll] s t)) ∧
      (s.hushed = true ∨ 16 ≤ s.coll.keys.length → Completes (.syncCollective i p) s (fun t =>
        t.fabric.stalls = [{ input := inputOf i, out := none, packet := q, vc := if i.isSome then s.fabric.rx else none }] ∧ SameBut [.fabric] s t))) ∧
    (∀ t4 : Nat, s.takesTree (some l) p 9 →
      let twice := ((p.w2.toNat : Int) - p.w3.toNat) - ((t4 : Int) - p.w1.toNat)
      Completes (.time l p t4) s (fun t =>
        t.links[l] = { s.links[l] with rxStamp := t4, echo := p.w1.toNat, peerStratum := fld p.w0.toNat 13 8 } ∧
        (∀ k : LinkId, k ≠ l → t.links[k] = s.links[k]) ∧
        (s.ownId = gm → t.field F.FAB_TIME_STATUS.STRATUM 0 0 = 0 ∧ SameRegs (fun k => k == ⟨.FAB_TIME_STATUS, 0, 0⟩) s t ∧
          SameBut [.regs, .links] s t) ∧
        (s.ownId ≠ gm → s.field F.FAB_ROUTE_DEV.VALID 0 gm = 1 → s.field F.FAB_ROUTE_DEV.LINK 0 gm = l.val →
          t.field F.FAB_TIME_STATUS.STRATUM 0 0 = min 62 (fld p.w0.toNat 13 8 + 1) ∧ t.field F.FAB_TIME_STATUS.PARENT 0 0 = l.val ∧
          t.flag F.FAB_TIME_STATUS.HOLDOVER 0 0 = false ∧
          (p.w3 ≠ 0 → t.field F.FAB_TIME_STATUS.OFFSET 0 0 = wrap 32 (8 * twice) ∧ t.flag F.FAB_TIME_STATUS.LOCKED 0 0 = true ∧
            (let first := !s.flag F.FAB_TIME_STATUS.LOCKED 0 0 && s.field F.RST_PHASE.PHASE 0 0 == 8
             t.now = (if first then ((s.now : Int) + twice / 2).toNat else s.now) ∧
             (first = true → t.flag F.TBS_STATUS.STEPPED 0 0 = true)))))) ∧
    (s.linkIsUp l.val = true → ∃ u, exec (.timeSend l) s = .next ((sendOn l.val {
        w0 := BitVec.ofNat 64 (place 63 60 9 + place 44 30 s.ownId + place 28 14 gm + place 13 8 (u.field F.FAB_TIME_STATUS.STRATUM 0 0))
        w1 := BitVec.ofNat 64 s.now, w2 := BitVec.ofNat 64 s.links[l].rxStamp, w3 := BitVec.ofNat 64 s.links[l].echo
        grans := [] }).run u).2 ∧
      (s.ownId = gm → u.field F.FAB_TIME_STATUS.STRATUM 0 0 = 0) ∧
      (s.ownId ≠ gm → s.timeParent = none → u.field F.FAB_TIME_STATUS.STRATUM 0 0 = 63 ∧ u.flag F.FAB_TIME_STATUS.HOLDOVER 0 0 = true) ∧
      SameRegs (fun k => k == ⟨.FAB_TIME_STATUS, 0, 0⟩) s u ∧ SameBut [.regs] s u) ∧
    (s.linkIsUp l.val = false → exec (.timeSend l) s = .next s)

/-! The fabric: links (11 R302 to R305, R314, R331 to R335). -/

/-- Flits of a link that is up. A data flit that fails its check is counted and, once, answered with a NAK; an accepted one moves the
expected SEQ on. An idle flit frees what it acknowledges and returns credit. A link-management flit shows the peer's identity. With flits
outstanding a time-out counts a replay, of each of them, and sends them again in order, up to the eighth of one SEQ; at the end of a window its TC0 bytes are judged and counted anew.
That a flit counts at most two codewords of each lane as corrected, and one that does not decode at most as many as uncorrectable, is the
model's reading (log 84). -/
def Obligations.LinkTraffic : Prop :=
  ∀ (l : LinkId) (f : BitVec 2048) (fec : Bool) (s : State),
    let up := s.linkIsUp l.val
    let only (t : State) : Prop := ∀ k : LinkId, k ≠ l → t.links[k] = s.links[k]
    let most := if s.field F.FAB_LINK_STATUS.STATE l.val 0 = 2 then 4 else 2
    (up = false → exec (.dataFlit l f fec) s = .next s ∧ exec (.idleFlit l f) s = .next s ∧ exec (.replayTimeout l) s = .next s) ∧
    (up = true → fec = false ∨ flitOk f = false → ∃ u,
      exec (.dataFlit l f fec) s =
        .next (if s.links[l].nakSent then u else ((sendFlit l (idleFlit s.links[l].lastRx true)).run u).2) ∧
      u.field F.FAB_LINK_ERR_COUNT.CRC l.val 0 = min (2 ^ 24 - 1) (s.field F.FAB_LINK_ERR_COUNT.CRC l.val 0 + 1) ∧
      s.field F.FAB_LINK_FEC.CORRECTED l.val 0 ≤ u.field F.FAB_LINK_FEC.CORRECTED l.val 0 ∧
      u.field F.FAB_LINK_FEC.CORRECTED l.val 0 ≤ s.field F.FAB_LINK_FEC.CORRECTED l.val 0 + most ∧
      s.field F.FAB_LINK_FEC.UNCORRECTABLE l.val 0 ≤ u.field F.FAB_LINK_FEC.UNCORRECTABLE l.val 0 ∧
      u.field F.FAB_LINK_FEC.UNCORRECTABLE l.val 0 ≤ s.field F.FAB_LINK_FEC.UNCORRECTABLE l.val 0 + (if fec then 0 else most) ∧
      u.links[l] = { s.links[l] with nakSent := true } ∧ only u ∧
      SameRegs (fun k => k == ⟨.FAB_LINK_ERR_COUNT, l.val, 0⟩ || k == ⟨.FAB_LINK_FEC, l.val, 0⟩) s u ∧
      SameBut [.regs, .links, .freeCtr] s u) ∧
    (∀ r, up = true → fec = true → flitOk f = true → flitFld f 63 60 = 0 → flitFld f 59 48 = s.links[l].expectSeq →
      parseBody s.links[l].partialRx (flitFld f 34 29) (slice (toBytes 256 f.toNat) 8 244) = ([], r) →
      Completes (.dataFlit l f fec) s (fun t => t.links[l].expectSeq = (s.links[l].expectSeq + 1) % 4096 ∧
        t.links[l].lastRx = s.links[l].expectSeq ∧ t.links[l].nakSent = false ∧ t.links[l].partialRx = r)) ∧
    (up = true → flitOk f = true → flitFld f 63 60 = 1 → f.toNat.testBit 35 = false → s.links[l].txq = [] → s.fabric.holds = [] →
      s.fabric.stalls = [] → Completes (.idleFlit l f) s (fun t =>
        t.links[l] = (s.links[l].acked (flitFld f 47 36)).credited (flitFld f 28 23) (32 * flitFld f 22 12) ∧ only t ∧
        SameRegs (fun k => k == ⟨.FAB_LINK_FEC, l.val, 0⟩) s t ∧ SameBut [.links, .regs, .freeCtr] s t)) ∧
    (s.collIdle → s.field F.FAB_LINK_STATUS.STATE l.val 0 ∈ [1, 2, 3] → flitOk f = true → flitFld f 63 60 = 2 →
      Completes (.linkManagementFlit l f) s (fun t =>
        t.field F.FAB_LINK_STATUS.PEER_DEV l.val 0 = flitFld f 78 64 ∧ t.field F.FAB_LINK_STATUS.PEER_LINK l.val 0 = flitFld f 85 80)) ∧
    (up = true → s.links[l].replay ≠ [] → nth s.links[l].replayed 0 0 < 8 → ∃ u,
      exec (.replayTimeout l) s = .next ((Prog.each s.links[l].replay (fun x => sendFlit l x.2)).run u).2 ∧
      u.field F.FAB_LINK_ERR_COUNT.REPLAYS l.val 0 = min (2 ^ 16 - 1) (s.field F.FAB_LINK_ERR_COUNT.REPLAYS l.val 0 + 1) ∧
      u.links[l] = { s.links[l] with replays := s.links[l].replayed } ∧ only u ∧
      SameRegs (fun k => k == ⟨.FAB_LINK_ERR_COUNT, l.val, 0⟩) s u ∧ SameBut [.regs, .links] s u) ∧
    Completes (.tc0WindowEnd l) s (fun t => t.links[l] = { s.links[l] with tc0Bytes := 0 } ∧ only t ∧
      t.flag F.FAB_LINK_STATUS.TC0_OVER l.val 0 = (s.flag F.FAB_LINK_STATUS.TC0_OVER l.val 0 ||
        overTc0 (s.field F.FAB_LINK_STATUS.STATE l.val 0 == 3) s.links[l].tc0Bytes) ∧
      SameRegs (fun k => k == ⟨.FAB_LINK_STATUS, l.val, 0⟩) s t ∧ SameBut [.regs, .links] s t)

/-- States of a link. A retrain, or both lanes losing lock, puts a link that is up into TRAIN, counted, its replay buffer kept. Training
that finds the mapped peer brings it up, HALF with one lane or where either end asks for it; another peer makes it MISWIRED; the fourth
in a row without a lane makes it FAILED, with LINK_LOST and the job error. Disabled it is DOWN; enabled, a mapped link that is DOWN
trains once bring-up has begun. RETRAIN and LANES written are sent in a link-management flit, of LANES by a link that is not up in its first
after training; that a link that is up sends its own at once, slot and command cleared, is the model's choice (log 152). A change agreed is
made at LANE_CHANGE. -/
def Obligations.LinkStates : Prop :=
  ∀ (l : LinkId) (s : State),
    let st (t : State) := t.field F.FAB_LINK_STATUS.STATE l.val 0
    let up := s.linkIsUp l.val
    (let counted (t : State) : Prop := st t = 1 ∧
       t.field F.FAB_LINK_ERR_COUNT.RETRAINS l.val 0 = min 255 (s.field F.FAB_LINK_ERR_COUNT.RETRAINS l.val 0 + 1)
     (up = true → Completes (.laneLockLoss l) s (fun t => counted t ∧ t.links[l] = { s.links[l] with fails := 0 } ∧
       SameBut [.regs, .links, .obs] s t)) ∧
     (s.accepts .FAB_LINK_CTRL l.val 0 = true → up = true → Completes (.retrain l) s (fun t => counted t ∧
       t.links[l] = { s.links[l] with fails := 0, slot := 0, command := 0 } ∧
       t.out = s.out ++ [.flit l.val (mgmtFlit s.links[l].lastRx s.ownId l.val 3)] ∧ SameBut [.regs, .links, .obs, .out] s t))) ∧
    (∀ tr : Training,
      let found := tr.peerDev.toNat = s.mapPeerDev l.val ∧ tr.peerLink.val = s.mapPeerLink l.val
      (st s ≠ 1 → exec (.linkTrainingDone l tr) s = .next s) ∧
      (st s = 1 → tr.lanes ≠ 0 → found → Completes (.linkTrainingDone l tr) s (fun t =>
        st t = (if tr.lanes = 1 ∨ s.wantsHalf l = true then 3 else 2) ∧ t.field F.FAB_LINK_STATUS.PEER_DEV l.val 0 = tr.peerDev.toNat)) ∧
      (st s = 1 → tr.lanes ≠ 0 → ¬ found → Completes (.linkTrainingDone l tr) s (fun t =>
        st t = 5 ∧ t.flag F.FAB_ERROR.MISWIRED 0 0 = true ∧ t.field F.FAB_ERROR.LAST_LINK 0 0 = l.val)) ∧
      (st s = 1 → tr.lanes = 0 → s.links[l].fails < 3 → Completes (.linkTrainingDone l tr) s (fun t =>
        t.links[l] = { s.links[l] with fails := s.links[l].fails + 1 } ∧ SameBut [.links] s t)) ∧
      (st s = 1 → tr.lanes = 0 → 3 ≤ s.links[l].fails → Completes (.linkTrainingDone l tr) s (fun t =>
        st t = 4 ∧ t.flag F.FAB_ERROR.LINK_LOST 0 0 = true ∧ t.field F.FAB_ERROR.LAST_LINK 0 0 = l.val ∧
        t.flag F.TOP_FAULT_STATUS.JOB_ERR 0 0 = true ∧ t.links[l].replay = []))) ∧
    (s.accepts .FAB_LINK_CTRL l.val 0 = true → Completes (.linkDisable l) s (fun t =>
      st t = 0 ∧ t.flag F.FAB_LINK_CTRL.ENABLE l.val 0 = false ∧
      (st s ≠ 0 → t.links[l] = { s.links[l] with replay := [], replays := [], partialRx := [], synced := false } ∧
        t.field F.FAB_LINK_ERR_COUNT.LOST l.val 0 = min 65535 (s.field F.FAB_LINK_ERR_COUNT.LOST l.val 0 + s.links[l].replay.length)))) ∧
    (s.accepts .FAB_LINK_CTRL l.val 0 = true → Completes (.linkEnable l) s (fun t =>
      t.flag F.FAB_LINK_CTRL.ENABLE l.val 0 = true ∧
      st t = if s.mapped l.val = true ∧ st s = 0 ∧ 8 ≤ s.field F.RST_PHASE.PHASE 0 0 then 1 else st s)) ∧
    (∀ half : Bool, s.accepts .FAB_CONFIG 0 0 = true → Completes (.lanesWrite half) s (fun t =>
      t.flag F.FAB_CONFIG.LANES 0 0 = half ∧
      t.out = s.out ++ ((List.finRange 64).filter (fun k => s.linkIsUp k.val)).map (fun k =>
        .flit k.val (mgmtFlit s.links[k].lastRx s.ownId k.val (if half then 1 else 2))) ∧
      (∀ k : LinkId, t.links[k] = if s.linkIsUp k.val then { s.links[k] with
        slot := 0, command := 0
        laneCmd := if (half || s.links[k].peerHalf) && s.field F.FAB_LINK_STATUS.STATE k.val 0 == 2 then 1
          else if !(half || s.links[k].peerHalf) && s.field F.FAB_LINK_STATUS.STATE k.val 0 == 3 then 2 else 0 }
        else { s.links[k] with command := if half then 1 else 2 }) ∧
      SameRegs (fun k => k == ⟨.FAB_CONFIG, 0, 0⟩) s t ∧ SameBut [.regs, .links, .out] s t)) ∧
    (up = true → s.links[l].laneCmd ≠ 0 → Completes (.laneChange l) s (fun t =>
      st t = (if s.links[l].laneCmd = 1 then 3 else 2) ∧ t.links[l].laneCmd = 0)) ∧
    (up = false ∨ s.links[l].laneCmd = 0 → exec (.laneChange l) s = .next s)

/-! The host interface (14 R376 to R393, 15 R404). -/

/-- Ring commands in execution. NOP completes OK, an undefined one with status 3, a copy of length 0 OK at once. COPY_H2D asks the host for
its bytes, in reads of at most 512 and at most the host's read size; COPY_D2H, on its turn, writes its next chunk of at most 4 KiB, of
granules that read clean, to the host, and completes with the last one; that one command moves one chunk is the model's choice (log 160). START sets the pc of every named halted
core whose site is not fenced and starts it; HALT with ABORT halts every named core, and without it completes if all are halted, else waits
for those that drain. SIGNAL writes 32 bytes to its granule and counts its signal. REG_WRITE writes its register. An address that is no
memory, of a copy whose length is not 0, or no register, is status 4. -/
def Obligations.RingCommands : Prop :=
  ∀ (r : RingId) (c : RingCmd) (rest : List RingCmd) (s : State), s.Safe → s.collIdle → s.executes r c rest →
    let done (st d : Nat) := RingDone r c rest st d s
    let ends (st d : Nat) (t : State) := done st d t ∧ RingOnly s t
    let a1 := al32 c.w1
    let a2 := al32 c.w2
    let len := al32 c.w3
    let x := s.host.rings[r]
    (Sys2Proof.Machine.ringOp c = 0 → Completes (.nopCommand r c) s (ends 0 0)) ∧
    (7 ≤ Sys2Proof.Machine.ringOp c → Completes (.commandBadOp r c) s (ends 3 0)) ∧
    (Sys2Proof.Machine.ringOp c = 1 → x.acted = false →
      (len = 0 → Completes (.copyH2D r c) s (ends 0 0)) ∧
      (len ≠ 0 → 2 ≤ fld a2 63 62 → Completes (.copyH2D r c) s (ends 4 a2)) ∧
      (len ≠ 0 → fld a2 63 62 < 2 → Completes (.copyH2D r c) s (fun t =>
        t.host.rings[r] = { x with acted := true } ∧ HostAsked (s.readsOf (.ring r) a1 len a2) s t ∧
        SameBut [.host, .out] s t))) ∧
    (Sys2Proof.Machine.ringOp c = 2 →
      (len = 0 → Completes (.copyD2H r c) s (ends 0 0)) ∧
      (len ≠ 0 → 2 ≤ fld a1 63 62 → Completes (.copyD2H r c) s (ends 4 a1)) ∧
      (let k0 := x.moved
       let n := min 128 (len / 32 - k0)
       k0 < len / 32 → fld a1 63 62 < 2 → s.ringAwaits r = false → s.chunkTurn r = true →
       (∀ k, k < n → s.readsClean (a1 + 32 * (k0 + k)) = true ∧ s.reqHeld hostReq (a1 + 32 * (k0 + k)) = false) →
       Completes (.copyD2H r c) s (fun t =>
        (∀ k, k < n → Out.hostWrite (a2 + 32 * (k0 + k)) (s.stored (a1 + 32 * (k0 + k))).data s.host.relaxed ∈ t.out) ∧
        (k0 + n = len / 32 → done 0 0 t) ∧
        (k0 + n < len / 32 → t.host.rings[r] = { x with acted := true, got := [], moved := k0 + n } ∧
          t.flag F.HST_RING_CTRL.BUSY r 0 = true) ∧
        Woken s t ∧ t.mem = s.mem ∧ t.chk = s.chk))) ∧
    (Sys2Proof.Machine.ringOp c = 3 → Completes (.startCommand r c) s (fun t => done 0 0 t ∧
      (∀ i ∈ s.named r c, s.field F.CORE_SEQ_STATUS.STATE i 0 = 0 → s.deaf i = false →
        t.field F.CORE_SEQ_STATUS.STATE i 0 = 1 ∧ t.field F.CORE_SEQ_PC.ADDR i 0 = fld c.w1.toNat 63 4 ∧ t.sites[i].buffer = []) ∧
      (∀ i : SiteId, i ∉ s.named r c → t.reg .CORE_SEQ_STATUS i 0 = s.reg .CORE_SEQ_STATUS i 0 ∧
        t.reg .CORE_SEQ_PC i 0 = s.reg .CORE_SEQ_PC i 0 ∧ t.sites[i] = s.sites[i]))) ∧
    (Sys2Proof.Machine.ringOp c = 4 → x.acted = false →
      (c.w3.toNat.testBit 0 = true → Completes (.haltCommand r c) s (fun t => done 0 0 t ∧
        ∀ i ∈ s.named r c, t.field F.CORE_SEQ_STATUS.STATE i 0 = 0)) ∧
      (c.w3.toNat.testBit 0 = false → (∀ i ∈ s.named r c, s.field F.CORE_SEQ_STATUS.STATE i 0 = 0) →
        Completes (.haltCommand r c) s (done 0 0)) ∧
      (∀ i ∈ s.named r c, c.w3.toNat.testBit 0 = false → s.running i = true → s.sites[i].rows = [] → s.sites[i].flights ≠ [] →
        Completes (.haltCommand r c) s (fun t => t.field F.CORE_SEQ_STATUS.STATE i 0 = 2 ∧ t.host.rings[r].acted = true ∧
          t.host.rings[r].queue = c :: rest))) ∧
    (Sys2Proof.Machine.ringOp c = 5 → x.acted = false →
      (2 ≤ fld a2 63 62 → Completes (.signal r c) s (ends 4 a2)) ∧
      (∀ i, s.plainGran a2 = true → s.reqHeld hostReq a2 = false → s.siteOf (fld c.w1.toNat 10 4) = some i → s.deaf i = false →
        s.hushed = false → s.ringAwaits r = false → x.late = [] →
        Completes (.signal r c) s (fun t => done 0 0 t ∧
          t.stored a2 = .valid (toBytes 8 c.w4.toNat ++ toBytes 8 c.w5.toNat ++ toBytes 8 c.w6.toNat ++ toBytes 8 c.w7.toNat) ∧
          t.field F.CORE_CC.VALUE i (fld c.w1.toNat 3 0) = (s.field F.CORE_CC.VALUE i (fld c.w1.toNat 3 0) + 1) % 2 ^ 32 ∧
          SameMemory (fun b => b = a2 / 32) s t ∧ Woken s t))) ∧
    (Sys2Proof.Machine.ringOp c = 6 →
      (0x4000000 ≤ c.w1.toNat → Completes (.regWrite r c) s (ends 4 c.w1.toNat)) ∧
      (∀ (q : Reg) (i j : Nat), regAt c.w1.toNat = some (q, i, j) → q.command = false →
        [Reg.HST_RING_BASE, .HST_CQ_BASE, .MSIX_PBA].contains q = false → s.locked q i = false →
        s.registerCut (c.w1.toNat / 8 * 8) = false → s.decodes (c.w1.toNat / 8 * 8) = true → s.mayWrite (c.w1.toNat / 8 * 8) = true →
        Completes (.regWrite r c) s (fun t => done 0 0 t ∧ Written q i j c.w2.toNat (2 ^ 64 - 1) s t ∧ t.mem = s.mem)))

/-- The registers of a ring. A doorbell sets TAIL, and an idle enabled ring asks the host for its next commands, at most eight and not
past the end of the ring, in reads of at most the host's read size; enabling does the same; while a command executes neither does more. A
drain disables a ring once no command executes, an abort at once, its command ending with status 6; that HEAD then goes back over the
commands that were fetched and not started is the model's reading (log 65). A head of the completion queue that makes room lets the waiting record be
written; the timer sends the ring's vector for records not yet signalled. -/
def Obligations.RingControl : Prop :=
  ∀ (r : RingId) (v : BitVec 32) (s : State), s.accepts .HST_RING_PTRS r 0 = true → s.accepts .HST_RING_CTRL r 0 = true →
    s.accepts .HST_CQ_PTRS r 0 = true →
    let x := s.host.rings[r]
    let busy := s.flag F.HST_RING_CTRL.BUSY r 0
    let n := s.ringSize r
    let head := s.field F.HST_RING_PTRS.HEAD r 0 % n
    let fetches (tail : Nat) (t : State) : Prop :=
      let k := min 8 (min ((tail + n - head) % n) (n - head))
      t.host.rings[r] = { x with asked := k, parts := [] } ∧
        HostAsked (s.readsOf (.fetch r) (4096 * s.field F.HST_RING_BASE.BASE r 0 + 64 * head) (64 * k) 0) s t ∧
        SameBut [.regs, .host, .out] s t
    let idle := busy = false ∧ x.queue = [] ∧ x.asked = 0 ∧ x.draining = false ∧ x.record = none
    Completes (.ringDoorbell r v) s (fun t => t.field F.HST_RING_PTRS.TAIL r 0 = v.toNat ∧
      (busy = true ∨ s.flag F.HST_RING_CTRL.ENABLE r 0 = false →
        SameRegs (fun k => k == ⟨.HST_RING_PTRS, r, 0⟩) s t ∧ SameBut [.regs] s t) ∧
      (idle → s.flag F.HST_RING_CTRL.ENABLE r 0 = true → head ≠ v.toNat % n → fetches (v.toNat % n) t)) ∧
    Completes (.ringEnable r) s (fun t => t.flag F.HST_RING_CTRL.ENABLE r 0 = true ∧
      (busy = true → SameRegs (fun k => k == ⟨.HST_RING_CTRL, r, 0⟩) s t ∧ SameBut [.regs] s t) ∧
      (idle → head ≠ s.field F.HST_RING_PTRS.TAIL r 0 % n → fetches (s.field F.HST_RING_PTRS.TAIL r 0 % n) t)) ∧
    (busy = true → Completes (.ringDrain r) s (fun t => t.host.rings[r] = { x with draining := true } ∧ SameBut [.host] s t)) ∧
    (busy = false → ∀ cmd ∈ [Instr.ringDrain r, .ringAbort r], Completes cmd s (fun t =>
      t.flag F.HST_RING_CTRL.ENABLE r 0 = false ∧ t.host.rings[r] = { x with queue := [], asked := 0, parts := [], draining := false } ∧
      t.field F.HST_RING_PTRS.HEAD r 0 = (head + n - x.queue.length % n) % n ∧ t.out = s.out)) ∧
    (busy = true → x.queue ≠ [] → Completes (.ringAbort r) s (fun t =>
      t.field F.HST_RING_CTRL.LAST_STATUS r 0 = 6 ∧ t.flag F.HST_RING_CTRL.BUSY r 0 = false ∧
      t.flag F.HST_RING_CTRL.ENABLE r 0 = false ∧ t.host.rings[r].queue = [] ∧
      (∀ q ∈ t.host.waiting ++ t.host.reads, q.origin ≠ .ring r ∧ q.origin ≠ .fetch r))) ∧
    Completes (.cqHeadWrite r v) s (fun t => t.field F.HST_CQ_PTRS.HEAD r 0 = v.toNat ∧
      (busy = true → x.record = none → SameRegs (fun k => k == ⟨.HST_CQ_PTRS, r, 0⟩) s t ∧ SameBut [.regs] s t) ∧
      (∀ bs, let m := s.cqSize r
        let tail := s.field F.HST_CQ_PTRS.TAIL r 0 % m
        x.record = some bs → (tail + 1) % m ≠ v.toNat % m →
          t.host.rings[r].record = none ∧ t.field F.HST_CQ_PTRS.TAIL r 0 = (tail + 1) % m ∧
          Out.hostWrite (4096 * s.field F.HST_CQ_BASE.BASE r 0 + 32 * tail) (bs.set 6 (if x.phase then 1 else 0)) false ∈ t.out)) ∧
    (x.unsignal ≠ 0 → Completes (.cqTimer r) s (fun t => t.host.rings[r] = { x with unsignal := 0 } ∧ Sent (16 + r.val) s t ∧
      SameRegs (fun k => k.reg == .MSIX_PBA) s t ∧ SameBut [.regs, .host, .out] s t)) ∧
    (x.unsignal = 0 → exec (.cqTimer r) s = .next s)

/-- Interrupts and the states of the function. Clearing a Mask sends the vector that it held; ones written clear causes and no other bit.
In D3hot, or with the link down, vectors are held; with D0, or a link of a width and rate that exist, those held are sent. A lost reference
clock takes a link without spread clocking down. A PTM dialog that is enabled sets the host's time and, within 5 ns, the offset.
Configuration requests are retried until phase 3 has ended; then they set Memory Space Enable, BAR2's size while it is 0, and the device
control settings, which read back, and read and clear AER's errors; that settings beyond the device's sizes are dropped, and where their
bits stand, is taken from the PCIe standard (log 153). Without a link none arrives. -/
def Obligations.HostEvents : Prop :=
  ∀ (s : State), s.Safe →
    (∀ v : Fin 256, s.accepts .MSIX_CTRL 0 v.val = true →
      let held := (s.reg .MSIX_PBA 0 (v.val / 64)).testBit (v.val % 64)
      Completes (.msixUnmask v) s (fun t => t.flag F.MSIX_CTRL.MASK 0 v.val = false ∧
        (held = true → s.host.linkUp = true → s.host.d3 = false →
          t.out = s.out ++ [.msix v.val (s.field F.MSIX_ADDR.ADDR 0 v.val) (s.field F.MSIX_CTRL.DATA 0 v.val)] ∧
          (t.reg .MSIX_PBA 0 (v.val / 64)).testBit (v.val % 64) = false) ∧
        (held = false → SameRegs (fun k => k == ⟨.MSIX_CTRL, 0, v.val⟩) s t) ∧ SameBut [.regs, .out] s t)) ∧
    (∀ (r : Reg) (j : Nat) (v : Word), (r = .HST_IRQ_CAUSE ∧ j = 0 ∨ r = .HST_SITE_CAUSE ∧ j < 3) → s.accepts r 0 j = true →
      Completes (.irqCauseClear (BitVec.ofNat 26 (r.addr 0 j)) v) s (fun t =>
        (∀ b, b < 64 → (t.reg r 0 j).testBit b = ((s.reg r 0 j).testBit b && !v.getLsbD b)) ∧
        SameRegs (fun k => k == ⟨r, 0, j⟩ || k.reg == .MSIX_PBA) s t ∧ SameBut [.regs, .out] s t)) ∧
    Completes .powerStateD3hot s (fun t => t.host = { s.host with d3 := true } ∧ SameBut [.host] s t) ∧
    Completes .powerStateD0 s (fun t => t.host = { s.host with d3 := false } ∧
      (s.host.linkUp = true → ∀ v, v < 256 → s.flag F.MSIX_CTRL.MASK 0 v = false →
        (t.reg .MSIX_PBA 0 (v / 64)).testBit (v % 64) = false) ∧
      SameRegs (fun k => k.reg == .MSIX_PBA) s t ∧ SameBut [.regs, .host, .out] s t) ∧
    Completes .pcieLinkDown s (fun t => t.host = { s.host with linkUp := false } ∧ t.reg .HST_PCIE_STATUS 0 0 = 0 ∧
      SameRegs (fun k => k == ⟨.HST_PCIE_STATUS, 0, 0⟩) s t ∧ SameBut [.regs, .host] s t) ∧
    (s.field F.RST_STRAPS.CLK_MODE 0 0 = 0 → s.rst.perst = false → exec .refclkLoss s = exec .pcieLinkDown s) ∧
    (∀ (width rate : Fin 8) (flit : Bool), width.val ∈ [1, 2, 4] → rate.val ≠ 0 → (flit = true ∨ rate.val ≤ 5) → s.rst.perst = false →
      s.field F.RST_PHASE.PHASE 0 0 ≠ 1 → Completes (.pcieLinkUp width rate flit) s (fun t =>
        t.host = { s.host with linkUp := true } ∧ t.field F.HST_PCIE_STATUS.WIDTH 0 0 = width.val ∧
        t.field F.HST_PCIE_STATUS.RATE 0 0 = rate.val ∧ t.flag F.HST_PCIE_STATUS.FLIT 0 0 = flit ∧
        t.flag F.HST_PCIE_STATUS.DOWNTRAINED 0 0 = decide (width.val ≠ 4 ∨ rate.val ≠ 7))) ∧
    (∀ ht : Word, s.flag F.HST_PTM_CTRL.ENABLE 0 0 = true → s.host.linkUp = true → Completes (.ptmDialog ht) s (fun t =>
      t.reg .HST_PTM_STATUS 0 0 = ht.toNat ∧
      (∃ e : Int, -80 ≤ e ∧ e ≤ 80 ∧ t.reg .HST_PTM_OFFSET 0 0 = wrap 64 (16 * ((ht.toNat : Int) - s.now) + e)) ∧
      SameRegs (fun k => [Reg.HST_PTM_STATUS, .HST_PTM_OFFSET, .FAB_TIME_STATUS].contains k.reg) s t ∧ SameBut [.regs, .freeCtr] s t)) ∧
    (∀ q : ConfigReq, s.host.linkUp = true →
      (s.field F.RST_PHASE.PHASE 0 0 ≤ 3 → Completes (.configurationRequest q) s (fun t =>
        t.out = s.out ++ [.retryStatus] ∧ SameBut [.out] s t)) ∧
      (3 < s.field F.RST_PHASE.PHASE 0 0 → Completes (.configurationRequest q) s (fun t =>
        (∀ on, q = .memSpace on → t.host = { s.host with memEn := on }) ∧
        (∀ n, q = .resize n → s.host.memEn = false → 30 ≤ n.val → n.val ≤ 41 → t.host = { s.host with bar2Log2 := n.val }) ∧
        (q = .read → ∃ d, t.out = s.out ++ [.configData d]) ∧
        (∀ p rd ro, q = .control p rd ro → t.host = { s.host with
          payload := if p.val ≤ 2 then p.val else s.host.payload, request := if rd.val ≤ 5 then rd.val else s.host.request, relaxed := ro }) ∧
        (q = .readControl → t.out = s.out ++
          [.configData (place 14 12 s.host.request + place 7 5 s.host.payload + place 4 4 (b2n s.host.relaxed))]) ∧
        (q = .readErrors → t.out = s.out ++ [.configData s.host.aer]) ∧
        (∀ m, q = .clearErrors m → t.host = { s.host with aer := s.host.aer - (s.host.aer &&& m.toNat) }) ∧
        (q = .readCorrectable → t.out = s.out ++ [.configData s.host.aerCor]) ∧
        (∀ m, q = .clearCorrectable m → t.host = { s.host with aerCor := s.host.aerCor - (s.host.aerCor &&& m.toNat) }) ∧
        (t.host = s.host ∨ t.out = s.out) ∧ SameBut [.host, .out, .freeCtr] s t))) ∧
    (∀ q : ConfigReq, s.host.linkUp = false → exec (.configurationRequest q) s = .next s)

/-- Host accesses of device memory through BAR2, and completions of device reads of host memory. A read of one granule that reads clean
completes with its bytes; bytes written replace those of a granule that reads clean. An access that BAR2 does not take does nothing, that it
needs Memory Space Enable and D0 being from outside the spec (logs 64, 86), nor does one that a lost seam channel or a stopped core holds
(log 140). A completion, or a time-out, of a read ends it: the
granules of a COPY_H2D are stored, fetched commands enter the ring behind its head, a failed read sets HOST_ERR; AER notes a time-out, a
poisoned completion and one that nothing waits for (14 R376, their bits those of the PCIe standard, log 153). -/
def Obligations.HostMemory : Prop :=
  ∀ (off : BitVec 41) (n : Fin 4097) (bytes : List Byte) (s : State), s.Safe →
    let a := off.toNat / 32 * 32
    let x := off.toNat % 32
    (s.bar2Open off.toNat n.val = true → s.bar2Held off.toNat n.val = false → 0 < n.val → x + n.val ≤ 32 → s.readsClean a = true → Completes (.bar2Read off n) s (fun t =>
      t.out = s.out ++ [.completion (slice (s.stored a).data x n.val) false] ∧ Woken s t ∧ SameBut [.out, .channels, .freeCtr] s t)) ∧
    (s.bar2Open off.toNat n.val = false ∨ s.bar2Held off.toNat n.val = true → exec (.bar2Read off n) s = .next s) ∧
    (s.bar2Open off.toNat bytes.length = false ∨ s.bar2Held off.toNat bytes.length = true → exec (.bar2Write off bytes) s = .next s) ∧
    (s.bar2Open off.toNat bytes.length = true → s.bar2Held off.toNat bytes.length = false → x + bytes.length ≤ 32 → s.readsClean a = true → Completes (.bar2Write off bytes) s (fun t =>
      (∀ k, k < 32 → nth (t.stored a).data k 0 =
        if x ≤ k ∧ k < x + bytes.length then nth bytes (k - x) 0 else nth (s.stored a).data k 0) ∧
      (t.stored a).err = 0 ∧ SameMemory (fun b => b = a / 32) s t ∧ Woken s t ∧ CacheOnly s t ∧
      SameBut [.mem, .chk, .channels, .clusters, .freeCtr] s t)) ∧
    (∀ (tag : Nat) (q : HRead), s.collIdle → s.host.reads.find? (fun q => q.tag == tag) = some q →
      (∀ r, q.origin = .ring r → s.host.linkUp = true → q.len = bytes.length → q.len % 32 = 0 → q.dest % 32 = 0 → q.len ≤ 512 →
        (∀ k, k < q.len / 32 → s.plainGran (q.dest + 32 * k) = true ∧ s.reqHeld hostReq (q.dest + 32 * k) = false) →
        s.host.rings[r].late = [] → s.flag F.HST_RING_CTRL.BUSY r 0 = false → s.host.waiting = [] →
        Completes (.hostReadCompletion tag (.data bytes)) s (fun t =>
          (∀ k, k < q.len / 32 → t.stored (q.dest + 32 * k) = .valid (slice bytes (32 * k) 32)) ∧
          SameMemory (fun b => ∃ k, k < q.len / 32 ∧ b = (q.dest + 32 * k) / 32) s t ∧
          t.host = { s.host with reads := s.host.reads.erase q } ∧ Woken s t ∧ CacheOnly s t ∧
          SameBut [.mem, .chk, .host, .channels, .clusters, .freeCtr] s t)) ∧
      (∀ r, q.origin = .fetch r → s.host.linkUp = true → q.dest = 0 → bytes.length = 64 → s.host.rings[r].parts = [] →
        (∀ p ∈ s.host.waiting ++ s.host.reads.erase q, p.origin ≠ .fetch r) →
        Completes (.hostReadCompletion tag (.data bytes)) s (fun t =>
          t.field F.HST_RING_PTRS.HEAD r 0 = (s.field F.HST_RING_PTRS.HEAD r 0 + 1) % s.ringSize r ∧
          t.host.rings[r].queue = s.host.rings[r].queue ++ [ringCmdAt bytes 0])) ∧
      (∀ r c bit, q.origin = .fetch r → s.host.waiting = [] → (∀ p ∈ s.host.reads.erase q, p.origin ≠ .fetch r) →
        (c = .completionTimeout tag ∧ bit = 14 ∨ (c = .hostReadCompletion tag .poison ∧ bit = 12 ∧ s.host.linkUp = true)) →
        Completes c s (fun t => t.flag F.HST_ERROR.HOST_ERR 0 0 = true ∧ t.field F.HST_ERROR.LAST_RING 0 0 = r.val ∧
          t.host.rings[r] = { s.host.rings[r] with asked := 0, parts := [] } ∧ t.host.reads = s.host.reads.erase q ∧
          t.host.aer = s.host.aer ||| 1 <<< bit))) ∧
    (∀ tag, (∀ q ∈ s.host.reads, q.tag ≠ tag) → exec (.completionTimeout tag) s = .next s ∧
      (s.host.linkUp = true → ∀ d, Completes (.hostReadCompletion tag d) s (fun t =>
        t.host = { s.host with aer := s.host.aer ||| 1 <<< 16, aerCor := s.host.aerCor ||| 1 <<< 13 } ∧ SameBut [.host] s t)))

/-! Resets and start-up (15 R399 to R419). -/

/-- A reset of the device (a requested cold or warm one, the watchdog, PERST#, a brown-out, an overvoltage, a thermal trip) in effect, where
none of the same cycle prevails over it: RST_CAUSE says its source, its kind, the phase that it found and whether lines were lost; every
register but those it keeps or shows is at its reset value, every unit clear, every request gone. A cold
one loses LPDDR6 and starts time anew; a warm one, which only a ready device can have, keeps both, with the channels' training results and
what sites have aged, but for the dirty lines lost and, where anything was under way, what it tore. Start-up then stands in phase 1 where it
begins there or the input, a rail or a sensor holds it, in phase 2 while PERST# is asserted, else in phase 3; found in phase 4 and not to
begin at phase 1, option load starts again. A brown-out, an overvoltage and a trip show in the management port's alerts. A device without
power takes none. Choices of the model in this: what holds phase 1 (log 18), phase 3 right after the straps (log 40), MGT_ALERT kept with
its enables cleared (log 71), requests dropped (log 155), one cycle being what lies between two ticks (log 22). -/
def Obligations.ResetsTake : Prop :=
  ∀ (c : Instr) (source : Nat) (warm0 one : Bool) (straps : BitVec 4) (lost : List (BitVec 34)) (s : State),
    resetOf s c = some (source, warm0, one, straps, lost) →
    let ph := s.phaseMet
    let warm := warm0 && ph == 9
    let dirty (l : BitVec 34) : Bool := (s.dirtyLine (128 * l.toNat)).isSome
    let gone := warm && lost.any dirty
    let loses := s.outranked (b2n warm) source
    (s.rst.dark = true → Completes c s (fun t => t.rst = { s.rst with perst := t.rst.perst } ∧ SameBut [.rst] s t)) ∧
    (s.rst.dark = false → loses = true → Completes c s (fun t =>
      t.rst = { s.rst with perst := t.rst.perst, inputUp := t.rst.inputUp } ∧
      SameRegs (fun k => [Reg.MGT_ALERT, .MGT_STATE].contains k.reg) s t ∧ SameBut [.rst, .regs, .out] s t)) ∧
    (s.rst.dark = false → loses = false → ph ≠ 4 ∨ one = true → Completes c s (fun t =>
      t.reg .RST_CAUSE 0 0 = place 31 28 source + place 25 24 (b2n warm) + place 11 8 ph + place 1 1 (b2n gone) ∧
      (∀ k, afterReset warm k.reg = false → AtReset k t) ∧ UnitsClear t ∧
      (∀ k : ChannelId, t.channels[k] = if warm then { trained := s.channels[k].trained } else {}) ∧
      t.host = { nextTag := s.host.nextTag } ∧ t.rst.requests = [] ∧ t.rst.warm = warm ∧ t.rst.fuses = s.rst.fuses ∧
      t.phase = (if one ∨ (ph = 1 ∧ s.railsReady = false) then 1 else if s.rst.perst = true ∨ source = 3 then 2 else 3) ∧
      (warm = false → t.now = 0 ∧ t.lost = s.lost + 1 ∧ ∀ a, a < 0x014000000000 → Mem.get a t.mem = none) ∧
      (warm = true → t.now = s.now ∧ t.lost = s.lost ∧ t.reg .MEM_TRAIN_STATUS 0 0 = s.reg .MEM_TRAIN_STATUS 0 0 ∧
        (∀ i : SiteId, t.agedMax i = s.agedMax i ∧
          t.field F.CORE_PWR_STATUS.GUARD_MV i 0 = s.field F.CORE_PWR_STATUS.GUARD_MV i 0) ∧
        ((∀ i : SiteId, s.sites[i].flights = []) → s.rake.run = none → s.flag F.MEM_FILL_CTRL.BUSY 0 0 = false →
          SameMemory (fun b => ∃ line ∈ lost, dirty line = true ∧ b / 4 = line.toNat) s t)))) ∧
    (s.rst.dark = false → loses = false → ph = 4 → one = false → Completes c s (fun t => t.phase = 4 ∧ UnitsClear t ∧
      t.reg .RST_CAUSE 0 0 = place 31 28 source + place 11 8 4 + 1 ∧ t.flag F.SEC_STATUS.OWNER_SET 0 0 = s.rst.fuses.owned ∧
      t.lost = s.lost + 1)) ∧
    (s.rst.dark = false → loses = false → Completes c s (fun t =>
      (∀ rail, c = .brownOut rail → t.flag F.MGT_ALERT.BROWN_OUT 0 0 = true ∧ (rail = none → t.rst.inputUp = false) ∧
        ∀ n, rail = some n → t.field F.MGT_STATE.RAIL 0 0 = n.val ∧ t.flag F.MGT_ALERT.RAIL_FAIL 0 0 = true) ∧
      (c = .inputOvervoltage → t.flag F.MGT_ALERT.BROWN_OUT 0 0 = true ∧ t.field F.MGT_STATE.RAIL 0 0 = 0x19) ∧
      (∀ k temp, c = .thermalTrip k temp → t.flag F.MGT_ALERT.TRIP 0 0 = true ∧ t.rst.hot = List.range 20) ∧
      (∀ ls, c = .perstAssert ls → t.rst.perst = true)))

/-- RST_CMD with its key requests a reset, which waits; a write without it sets BAD_KEY. A requested core reset, beside no cold or warm reset
of its cycle, puts the core block at its reset values, sweeps its memory to zero and fences it if the sweep found a fault; with nothing of
the core in flight it changes no other site and no other memory. Of an absent core, or beside one that prevails, it only ends the request.
That it acts on its core alone also before the device is ready is the model's reading (log 19). What is not requested does nothing. -/
def Obligations.ResetsRequested : Prop :=
  ∀ (s : State),
    (s.accepts .RST_CMD 0 0 = true → ∀ (c : Instr) (n : Nat),
      c = .hostColdReset ∧ n = 0 ∨ c = .hostWarmReset ∧ n = 1 ∨ (∃ k : Fin 128, c = .hostCoreReset k ∧ n = 2 + k.val) →
      Completes c s (fun t => t.rst = { s.rst with
        requests := if s.rst.requests.contains n then s.rst.requests else s.rst.requests ++ [n] } ∧ SameBut [.rst] s t)) ∧
    (∀ (v : Word) (h : Half), s.accepts .RST_CMD 0 0 = true →
      (badCmd v.toNat h = true → Completes (.badKey v h) s (fun t => t.flag F.HST_ERROR.BAD_KEY 0 0 = true ∧
        SameRegs (eventReg .HST_ERROR) s t ∧ SameBut [.regs, .out] s t)) ∧
      (badCmd v.toNat h = false → exec (.badKey v h) s = .next s)) ∧
    (∀ (core : Fin 128) (faults : List SweepFault),
      let c := Instr.coreReset core faults
      let left := s.rst.requests.filter (· != 2 + core.val)
      let prevails := ∃ r, s.resetSeen = some r ∧ r.kind < 2
      (s.rst.requests.contains (2 + core.val) = false → exec c s = .next s) ∧
      (s.rst.requests.contains (2 + core.val) = true → s.siteOf core.val = none ∨ prevails → Completes c s (fun t =>
        t.rst = { s.rst with requests := left } ∧ SameBut [.rst] s t)) ∧
      (∀ i : SiteId, s.rst.requests.contains (2 + core.val) = true → ¬ prevails → s.collIdle → s.siteOf core.val = some i →
        let found := ∃ f ∈ faults, faultSite f = some i
        let still := s.sites[i].flights = [] ∧ s.sites[i].rows = [] ∧ s.sites[i].hint = none ∧
          (∀ m ∈ s.clusters[clusterOf i].mow, m.1 ≠ i.val) ∧ ∀ x, s.mowerNext (clusterOf i) = some x → x.2.phase ≠ .queued
        Completes c s (fun t => Swept i t ∧
          t.rst = { s.rst with requests := left, cycle := some ⟨2, 4, s.phase, s.phase⟩ } ∧
          t.reg .RST_CAUSE 0 0 = place 31 28 4 + place 25 24 2 + place 22 16 core.val + place 11 8 s.phase ∧
          (∀ r j, r.place.insts = 144 → r ≠ .CORE_PWR_STATUS → AtReset ⟨r, i.val, j⟩ t) ∧
          (t.fenced i = true ↔ s.fenced i = true ∨ found) ∧
          (¬ found → t.sites[i] = {} ∧ (still → SameSites i s t)) ∧
          (still → ∀ a, a < windowBase i.val ∨ windowBase i.val + 0x280000 ≤ a → Mem.get a t.mem = Mem.get a s.mem)))) ∧
    (s.rst.requests.contains 0 = false → ∀ st, exec (.coldReset st) s = .next s) ∧
    (s.rst.requests.contains 1 = false → ∀ st ls, exec (.warmReset st ls) s = .next s) ∧
    (s.rst.perst = true → ∀ ls, exec (.perstAssert ls) s = .next s) ∧
    (∀ n (temp : BitVec 16), temp.toInt < 480 → exec (.thermalTrip n temp) s = .next s)

/-- The phases of start-up: each command ends the phase that it is named for, and in any other does nothing. A rail that fails in phase 1
is named by the management port, with no reset (15 R403, log 168). Choices of the model in this: POWER_ON sets the input alone (log 21),
phase 3 follows right after the straps (log 40), a channel that the training's list leaves out is trained with every line (log 44). After a
warm reset the training keeps every result (10 R294, R295). -/
def Obligations.StartUp : Prop :=
  ∀ (straps : BitVec 4) (ok : Bool) (s : State), s.Safe →
    let img := slice s.rst.image 0 1024
    let boot := s.field F.RST_STRAPS.BOOT_SRC 0 0
    let straps' (t : State) : Prop := t.field F.RST_STRAPS.BOOT_SRC 0 0 = fld straps.toNat 1 0 ∧
      t.field F.RST_STRAPS.CLK_MODE 0 0 = fld straps.toNat 3 2
    Completes .powerOn s (fun t => t.rst = { s.rst with inputUp := true, dark := false } ∧ SameBut [.rst] s t) ∧
    (∀ n, s.rst.dark = false → s.phaseMet = 1 → Completes (.brownOut (some n)) s (fun t => t.field F.MGT_STATE.RAIL 0 0 = n.val ∧
      t.flag F.MGT_ALERT.RAIL_FAIL 0 0 = true ∧ t.phase = s.phase ∧ t.railsReady = false ∧
      SameRegs (fun k => [Reg.MGT_ALERT, .MGT_STATE].contains k.reg) s t ∧ SameBut [.regs, .out] s t)) ∧
    Completes (.perstDeassert straps) s (fun t => t.rst = { s.rst with perst := false } ∧ (s.phase = 2 → t.phase = 3 ∧ straps' t) ∧
      (s.phase ≠ 2 → t.regs = s.regs) ∧ SameBut [.regs, .rst] s t) ∧
    (let ends := s.phase = 1 ∧ s.rst.inputUp = true ∧ s.rst.hot = []
     (ends → Completes (.railsDone straps) s (fun t => t.field F.MGT_STATE.RAIL 0 0 = 0xFF ∧
        (s.rst.perst = true → t.phase = 2) ∧ (s.rst.perst = false → t.phase = 3 ∧ straps' t) ∧ t.rst = { s.rst with tripped := false } ∧
        SameBut [.regs, .rst] s t)) ∧
     (¬ ends → exec (.railsDone straps) s = .next s)) ∧
    (let ends := s.phase = 3 ∧ s.field F.RST_PHASE.FAIL 0 0 = 0
     (ends → ok = true → Completes (.fuseLoadDone ok) s (fun t => t.phase = 4 ∧ t.flag F.SEC_STATUS.OWNER_SET 0 0 = s.rst.fuses.owned ∧
        t.sec = { s.sec with next := logNext s.sec.log } ∧
        t.flag F.SEC_STATUS.KEY_LOW 0 0 = decide (2 ^ 20 - logNext s.sec.log < 65536) ∧
        (∀ i : SiteId, t.field F.CORE_PWR_STATUS.FMAX_MHZ i 0 = nth s.rst.fuses.fmax i.val 1700 % (F.CORE_PWR_STATUS.FMAX_MHZ.top + 1)) ∧
        SameBut [.regs, .sec] s t)) ∧
     (ends → ok = false → Completes (.fuseLoadDone ok) s (fun t => t.phase = 3 ∧ t.field F.RST_PHASE.FAIL 0 0 = 1 ∧
        SameRegs (fun k => k == ⟨.RST_PHASE, 0, 0⟩) s t ∧ SameBut [.regs] s t)) ∧
     (¬ ends → exec (.fuseLoadDone ok) s = .next s)) ∧
    (let ends := s.phase = 4 ∧ s.rst.perst = false
     let good := ok && imageOk img
     (ends → Completes (.optionLoadDone ok) s (fun t => t.phase = 5 ∧
        t.field F.MGT_ID.DEVICE_ID 0 0 = (if good then leAt img 4 2 % 2 ^ 15 else 0x7FFF) ∧
        t.field F.PWR_CAP_LIMIT.WATTS 0 0 = (if good then min 750 (max 300 (leAt img 8 2)) else 350) ∧
        (good = false → t.flag F.OPT_STATUS.DEFAULTED 0 0 = true) ∧ (∀ i : SiteId, s.rst.fuses.defective.contains i.val → t.fenced i = true) ∧
        (strapValue boot = 1 → t.flag F.RST_PHASE.WAIT_HOST 0 0 = true) ∧ (strapValue boot = 2 → t.flag F.RST_PHASE.HELD 0 0 = true) ∧
        t.mem = s.mem)) ∧
     (¬ ends → exec (.optionLoadDone ok) s = .next s)) ∧
    (let ends := s.phase = 5 ∧ boot = 0 ∧ s.flag F.RST_PHASE.HELD 0 0 = false
     let code := if ok then s.fwCheck s.sec.flash else 1
     (ends → ok = false ∨ s.sec.torn = false → Completes (.firmwareVerifyDone ok) s (fun t =>
        (code = 0 → t.phase = 6 ∧ t.field F.SEC_FW_INFO.FW_VERSION 0 0 = leAt s.sec.flash 12 4 ∧ t.flag F.SEC_STATUS.FW_LOCK 0 0 = true ∧
          t.sec.running = slice s.sec.flash 0 (64 + leAt s.sec.flash 8 4)) ∧
        (code ≠ 0 → t.phase = 5 ∧ t.flag F.RST_PHASE.HELD 0 0 = true ∧ t.field F.RST_PHASE.FAIL 0 0 = if code = 1 then 3 else 2) ∧
        SameBut [.regs, .sec] s t)) ∧
     (¬ ends → exec (.firmwareVerifyDone ok) s = .next s)) ∧
    (∀ r : List (ChannelId × ChannelTraining),
      (s.phase = 6 → Completes (.lpddr6TrainingDone r) s (fun t => t.phase = 7 ∧ (∀ c : ChannelId,
        let res := if s.rst.warm then none else (r.find? (fun e => e.1 == c)).map (·.2)
        let is (code : Nat) (failed : Bool) : Prop := t.field F.MEM_CH_STATUS.TRAIN_CODE c 0 = code ∧
          t.flag F.MEM_CH_STATUS.FAILED c 0 = failed ∧ t.flag F.MEM_CH_STATUS.USABLE c 0 = !failed ∧
          (t.reg .MEM_TRAIN_STATUS 0 0).testBit c.val = failed
        t.flag F.MEM_CH_STATUS.SELF_REFRESH c 0 = false ∧
        (res = some .trained ∨ (res = none ∧ s.rst.warm = false) → is 1 false) ∧
        (∀ p0 p1, res = some (.erased p0 p1) → p0 ≠ none ∨ p1 ≠ none → is 2 false ∧
          (∀ p, p0 = some p → t.flag F.MEM_CH_CONFIG.ERASE_EN0 c 0 = true ∧ t.field F.MEM_CH_CONFIG.ERASE_PIN0 c 0 = p.val) ∧
          (∀ p, p1 = some p → t.flag F.MEM_CH_CONFIG.ERASE_EN1 c 0 = true ∧ t.field F.MEM_CH_CONFIG.ERASE_PIN1 c 0 = p.val)) ∧
        (res = none → s.rst.warm = true → (∀ p, s.channels[c].trained.1 = some p → t.flag F.MEM_CH_CONFIG.ERASE_EN0 c 0 = true ∧
            t.field F.MEM_CH_CONFIG.ERASE_PIN0 c 0 = p.val) ∧
          (∀ p, s.channels[c].trained.2 = some p → t.flag F.MEM_CH_CONFIG.ERASE_EN1 c 0 = true ∧
            t.field F.MEM_CH_CONFIG.ERASE_PIN1 c 0 = p.val) ∧
          t.field F.MEM_CH_STATUS.TRAIN_CODE c 0 = s.field F.MEM_CH_STATUS.TRAIN_CODE c 0 ∧
          t.flag F.MEM_CH_STATUS.FAILED c 0 = s.flag F.MEM_CH_STATUS.FAILED c 0 ∧
          t.flag F.MEM_CH_STATUS.USABLE c 0 = s.flag F.MEM_CH_STATUS.USABLE c 0) ∧
        (res = some .failedBus → is 3 true) ∧ (res = some .failedLines → is 4 true) ∧ (res = some .failedSilent → is 5 true)) ∧
        t.mem = s.mem)) ∧
      (s.phase ≠ 6 → exec (.lpddr6TrainingDone r) s = .next s)) ∧
    (∀ faults : List SweepFault,
      (s.phase = 7 → Completes (.sweepDone faults) s (fun t => t.phase = 8 ∧ (∀ i, Swept i t) ∧
        (∀ a, a < 0x01C000000000 → Mem.get a t.mem = Mem.get a s.mem) ∧
        (∀ i : SiteId, (∃ f ∈ faults, faultSite f = some i) → t.fenced i = true) ∧
        (∀ i j, AtReset ⟨.CORE_BANK_OWNER, i, j⟩ t))) ∧
      (s.phase ≠ 7 → exec (.sweepDone faults) s = .next s)) ∧
    (let ends := s.phase = 8 ∧ ∀ l, l < 64 → s.field F.FAB_LINK_STATUS.STATE l 0 ≠ 1
     (ends → Completes .fabricBringupDone s (fun t => t.phase = 9 ∧ t.flag F.MGT_ALERT.READY 0 0 = true ∧ SameBut [.regs, .out] s t)) ∧
     (¬ ends → exec .fabricBringupDone s = .next s))

/-! Power and temperature (16 R420 to R436). -/

/-- The control loop and what it measures. PWR_FREQ_CTRL as it stands at a tick acts from then on (16 R425). A tick lowers F_dev by 25 MHz,
not below 400, where the estimate is over the cap, raises it by as
much, not above its top, where it is under 98 % of the cap, and puts it at 400 while the last window found an envelope event; it lowers
clocks at once, sets every duty, and shows whether the device throttles. A raise acts when its cluster's voltage is there. A window's report
shows its input, judges the envelope, and counts windows that agree or differ by more than 12 %: a hundred in a row that differ start
MEASURED, a thousand that agree end it; a hundred windows with no report set TELEMETRY_LOST. A sample moves its sensor's ceiling and the
hottest reading; at 120 °C the device trips. A short timing margin lowers a site's maximum, then raises its guard, then sets AGE_LIMIT. A
droop stretches the clock of a site whose clock runs until it ends, for no fewer cycles than HOLD_CYCLES as the droop found it. A heartbeat
goes to the peer of every link that is up, and to the collector. Which throttle event is set and when (log 55), and a heartbeat's SEQ (logs
57, 156), are the model's reading. -/
def Obligations.PowerControl : Prop :=
  ∀ (s : State), s.Safe →
    let running (i : SiteId) : Prop := s.fenced i = false ∧ s.hushed = false
    let clocked (t : State) : Prop := ∀ i : SiteId, s.fenced i = false →
      t.field F.CORE_PWR_STATUS.FREQ_MHZ i 0 = min (s.field F.CORE_PWR_STATUS.FREQ_MHZ i 0) (t.siteClock i) ∧
      t.field F.CORE_PWR_STATUS.DUTY i 0 = t.siteDuty i
    (∀ est : BitVec 16, Completes (.controlTick est) s (fun t =>
      let a := (takeFreq.run s).2
      let f := max 400 (min s.pwr.fdev a.topMhz)
      t.pwr.boost = s.flag F.PWR_FREQ_CTRL.MODE 0 0 ∧ t.pwr.limit = s.field F.PWR_FREQ_CTRL.LIMIT_MHZ 0 0 ∧
      t.pwr.fixed = s.field F.PWR_FREQ_CTRL.FIXED_MHZ 0 0 ∧ t.pwr.envelope = s.pwr.envelope ∧
      (s.pwr.envelope = true → t.pwr.fdev = 400 ∧ t.flag F.PWR_EVENT.OVER_ENVELOPE 0 0 = true) ∧
      (s.pwr.envelope = false → s.flag F.PWR_STATUS.MEASURED 0 0 = false → t.pwr.fdev =
        if s.capTenths < est.toNat then max 400 (f - 25)
        else if est.toNat * 100 < 98 * s.capTenths ∧ f < a.topMhz then min (max 400 a.topMhz) (f + 25) else f) ∧
      t.field F.PWR_STATUS.CEILING_MHZ 0 0 = t.pwr.fdev ∧ t.pwr.ceilings = s.pwr.ceilings ∧ clocked t ∧
      (t.pwr.byCap, t.pwr.byHeat) = t.throttles ∧ t.flag F.PWR_STATUS.THROTTLED 0 0 = (t.pwr.byCap || t.pwr.byHeat) ∧
      (s.pwr.byCap = false → s.pwr.byHeat = false → (t.pwr.byCap = true → t.flag F.PWR_EVENT.THROTTLE_CAP 0 0 = true) ∧
        (t.pwr.byHeat = true → t.flag F.PWR_EVENT.THROTTLE_THERMAL 0 0 = true)) ∧
      SameBut [.regs, .pwr, .obs, .out, .freeCtr] s t)) ∧
    (∀ c : ClusterId, Completes (.vcoreSlewDone c) s (fun t => ∀ i : SiteId, t.field F.CORE_PWR_STATUS.FREQ_MHZ i 0 =
      (if clusterOf i = c ∧ s.fenced i = false then s.siteClock i else s.field F.CORE_PWR_STATUS.FREQ_MHZ i 0) ∧
      SameRegs (fun k => k.reg == .CORE_PWR_STATUS) s t ∧ SameBut [.regs] s t)) ∧
    (∀ r : PowerReport, Completes (.telemetryReport (some r)) s (fun t =>
      let n := max 1 s.pwr.ticks
      let differs := 12 * n * r.pin.toNat < 100 * ((s.pwr.sum : Int) - n * r.pin.toNat).natAbs
      t.field F.MGT_INPUT.VIN 0 0 = r.vin.toNat ∧ t.field F.MGT_INPUT.IIN 0 0 = r.iin.toNat ∧ t.field F.MGT_INPUT.PIN 0 0 = r.pin.toNat ∧
      (t.pwr.envelope = true ↔ 7500 < r.pin.toNat ∨
        ∃ g, g < 5 ∧ nth [4300, 700, 900, 900, 150] g 0 < nth r.groups g 0) ∧
      (3800 ≤ r.vin.toNat → r.vin.toNat ≤ 4100 → t.flag F.PWR_EVENT.INPUT_LOW 0 0 = true ∧ t.flag F.MGT_ALERT.INPUT_LOW 0 0 = true) ∧
      (differs → t.pwr.disagree = s.pwr.disagree + 1 ∧ t.pwr.agree = 0) ∧ (¬ differs → t.pwr.agree = s.pwr.agree + 1 ∧ t.pwr.disagree = 0) ∧
      (s.flag F.PWR_STATUS.MEASURED 0 0 = false → t.flag F.PWR_STATUS.MEASURED 0 0 = decide (100 ≤ t.pwr.disagree) ∧
        (100 ≤ t.pwr.disagree → t.flag F.PWR_EVENT.ESTIMATE_MISMATCH 0 0 = true)) ∧
      (s.flag F.PWR_STATUS.MEASURED 0 0 = true → t.flag F.PWR_STATUS.MEASURED 0 0 = decide (t.pwr.agree < 1000)) ∧
      t.pwr.silent = 0 ∧ t.pwr.sum = 0 ∧ t.pwr.ticks = 0 ∧ SameBut [.regs, .pwr, .obs, .out, .freeCtr] s t)) ∧
    Completes (.telemetryReport none) s (fun t =>
      t.pwr = { s.pwr with envelope := false, silent := s.pwr.silent + 1, sum := 0, ticks := 0 } ∧
      (s.pwr.silent = 99 → t.flag F.PWR_EVENT.TELEMETRY_LOST 0 0 = true) ∧ SameBut [.regs, .pwr, .obs, .out] s t) ∧
    (∀ (k : Fin 20) (temp : BitVec 16), Completes (.sensorSample k temp) s (fun t =>
      let q := temp.toInt
      let top := if s.boost then 1950 else s.fixedMhz
      let old := min top (nth s.pwr.ceilings k.val 1950)
      let new := if 420 ≤ q then max 400 (old - 100) else if 412 ≤ q then old else min top (old + 25)
      (480 ≤ q → s.rst.dark = false → s.outranked 0 6 = false → t.phase = 1 ∧ t.field F.RST_CAUSE.SOURCE 0 0 = 6 ∧
        t.flag F.MGT_ALERT.TRIP 0 0 = true ∧ t.rst.hot = List.range 20) ∧
      (q < 480 → t.field F.PWR_SENSOR.TEMP 0 k = temp.toNat ∧
        sext 16 (t.field F.PWR_SENSOR.PEAK 0 k) = max (sext 16 (s.field F.PWR_SENSOR.PEAK 0 k)) q ∧
        (let h := t.field F.MGT_THERMAL.HOT_SENSOR 0 0
         h < 20 ∧ (∀ j, j < 20 → t.reading j ≤ t.reading h) ∧ sext 16 (t.field F.MGT_THERMAL.HOT 0 0) = t.reading h) ∧
        t.pwr = { s.pwr with ceilings := s.pwr.ceilings.set k.val new, byCap := t.throttles.1, byHeat := t.throttles.2 } ∧ clocked t ∧
        t.flag F.PWR_STATUS.THROTTLED 0 0 = (t.throttles.1 || t.throttles.2) ∧
        (420 ≤ q → old = top → 400 < top → t.flag F.PWR_EVENT.THROTTLE_THERMAL 0 0 = true) ∧
        t.rst = { s.rst with hot := if s.rst.tripped = true ∧ 420 ≤ q then addAsc k.val s.rst.hot else s.rst.hot.filter (· != k.val) } ∧
        SameBut [.regs, .pwr, .rst, .obs, .out, .freeCtr] s t))) ∧
    (∀ short : List SiteId, Completes (.ageingCheck short) s (fun t =>
      (∀ i : SiteId,
        let a := s.agedMax i
        let guard := s.field F.CORE_PWR_STATUS.GUARD_MV i 0
        let acts := i ∈ short ∧ s.fenced i = false ∧ 4 ≤ s.phase
        t.agedMax i = (if acts ∧ 1700 < a then a - 25 else a) ∧
        t.field F.CORE_PWR_STATUS.GUARD_MV i 0 = (if acts ∧ a ≤ 1700 ∧ guard < 25 then min 25 (guard + 5) else guard) ∧
        (acts → a ≤ 1700 → 25 ≤ guard → t.flag F.CORE_PWR_STATUS.AGE_LIMIT i 0 = true ∧ t.flag F.PWR_EVENT.AGE_LIMIT 0 0 = true)) ∧
      SameBut [.regs, .pwr, .obs, .out] s t)) ∧
    (∀ (i : SiteId) (cycles : BitVec 32),
      (running i → Completes (.droop i) s (fun t =>
        t.field F.CORE_DROOP_EVENTS.DROOPS i 0 = min F.CORE_DROOP_EVENTS.DROOPS.top (s.field F.CORE_DROOP_EVENTS.DROOPS i 0 + 1) ∧
        t.flag F.CORE_PWR_STATUS.STRETCHED i 0 = true ∧
        t.sites[i] = { s.sites[i] with stretched := true, hold := s.field F.PWR_DROOP_CONFIG.HOLD_CYCLES 0 0 } ∧ SameSites i s t ∧
        SameRegs (fun k => k == ⟨.CORE_DROOP_EVENTS, i, 0⟩ || k == ⟨.CORE_PWR_STATUS, i, 0⟩) s t ∧ SameBut [.regs, .sites] s t)) ∧
      (running i → s.sites[i].stretched = true → Completes (.droopEnd i cycles) s (fun t =>
        t.field F.CORE_DROOP_EVENTS.STRETCH_CYCLES i 0 = min F.CORE_DROOP_EVENTS.STRETCH_CYCLES.top
          (s.field F.CORE_DROOP_EVENTS.STRETCH_CYCLES i 0 + max cycles.toNat (max 1 s.sites[i].hold)) ∧
        t.flag F.CORE_PWR_STATUS.STRETCHED i 0 = false ∧ t.sites[i] = { s.sites[i] with stretched := false } ∧ SameSites i s t ∧
        SameRegs (fun k => k == ⟨.CORE_DROOP_EVENTS, i, 0⟩ || k == ⟨.CORE_PWR_STATUS, i, 0⟩) s t ∧ SameBut [.regs, .sites] s t)) ∧
      (¬ running i → exec (.droop i) s = .next s) ∧
      (¬ running i ∨ s.sites[i].stretched = false → exec (.droopEnd i cycles) s = .next s)) ∧
    (let g := s.hbGranule
     let sends := s.flag F.PWR_HB_CONFIG.ENABLE 0 0 = true ∧ s.phase = 9
     let peers := ((List.range 64).filter s.linkIsUp).map (fun n => s.field F.FAB_LINK_STATUS.PEER_DEV n 0) ++
       (if s.flag F.PWR_HB_CONFIG.COLLECTOR_V 0 0 then [s.field F.PWR_HB_CONFIG.COLLECTOR 0 0] else [])
     let u := peers.foldl (fun u d => ((sendPacket (s.hbPacket d)).run u).2) s
     leAt g 0 8 = s.now % 2 ^ 64 ∧ leAt g 8 2 = s.ownId ∧ leAt g 11 1 = s.field F.PWR_STATUS.HOT_MAX 0 0 ∧
       leAt g 14 2 = s.field F.PWR_STATUS.INPUT_W 0 0 ∧ leAt g 16 4 = s.pwr.seq % 2 ^ 32 ∧ leAt g 20 4 = s.pwr.throttledUs % 2 ^ 32 ∧
     (sends → exec .heartbeatSend s = .next (Prim.apply (.pwr { u.pwr with seq := (u.pwr.seq + 1) % 2 ^ 32, flags := 0 }) u)) ∧
     (¬ sends → exec .heartbeatSend s = .next s))

/-! Security and the option image (15 R412, 17 R443 to R456). -/

/-- The security engine and the option image. Each command given to an idle engine makes it busy, with what it met before its work: 3 in
a state that does not allow it, 6 with no leaf left; a LOAD or FLASH that may go on asks the host for its image, a GO takes the nonce and
one leaf; a busy engine drops it. CLOSE ends the rights at once. A command's end shows its result and an idle engine, with the effects of
result 0 alone. A commit of an image that checks stages it, its flash region erased until the write ends; one that does not check is
refused. Choices of the model in this: HELD after a LOAD that fails (log 50), NEXT after a log record that reads back wrong (log 51), token
and key read as the command completes and NEXT shown as GO is accepted (log 52). The signature is XMSS's of the fused secret, its bytes as log
20 says. -/
def Obligations.SecurityEngine : Prop :=
  ∀ (len : BitVec 24) (flashOk : Bool) (s : State), s.Safe → (∀ r ∈ [Reg.SEC_FW_CTRL, .SEC_ATT_CTRL, .SEC_DBG_CTRL, .SEC_OWNER_CTRL,
      .OPT_CTRL], s.accepts r 0 0 = true) →
    let boot := s.field F.RST_STRAPS.BOOT_SRC 0 0
    let busy := s.flag F.SEC_ENGINE.BUSY 0 0
    let starts (last : Nat) (c : SecCmd) (early : Option Nat) (t : State) : Prop :=
      t.flag F.SEC_ENGINE.BUSY 0 0 = true ∧ t.field F.SEC_ENGINE.LAST 0 0 = last ∧
        { t.sec with next := s.sec.next, log := s.sec.log } =
          { s.sec with command := some c, early := early, loaded := [], hostErr := false }
    let kept (t : State) : Prop := t.sec.next = s.sec.next ∧ t.sec.log = s.sec.log
    let reads (early : Option Nat) (t : State) : Prop :=
      HostAsked (if early = none then s.readsOf .firmware (4096 * s.field F.SEC_FW_HOST.BASE 0 0) len.toNat 0 else []) s t ∧
      kept t ∧ SameRegs (fun k => k == ⟨.SEC_ENGINE, 0, 0⟩) s t ∧ SameBut [.regs, .sec, .host, .out] s t
    (busy = true → ∀ c ∈ [Instr.loadFirmware len, .flash len, .go, .verifyToken, .fuse], exec c s = .next s) ∧
    (busy = false →
      (let early := if boot = 1 ∧ (s.flag F.RST_PHASE.WAIT_HOST 0 0 = true ∨ s.flag F.RST_PHASE.HELD 0 0 = true) then none else some 3
       Completes (.loadFirmware len) s (fun t => starts 0 (.load len.toNat) early t ∧ reads early t)) ∧
      (let early := if 2 ≤ boot then none else some 3
       Completes (.flash len) s (fun t => starts 0 (.flash len.toNat) early t ∧ reads early t)) ∧
      (let left := decide (s.sec.next < 2 ^ 20)
       Completes .go s (fun t => starts 1 (.attest s.sec.next (s.wordBytes .SEC_ATT_NONCE 32)) (if left then none else some 6) t ∧
         (left = false → kept t ∧ t.out = s.out) ∧
         (left = true → t.sec.next = s.sec.next + 1 ∧ t.sec.log = logWrite s.sec.log (s.sec.next + 1) ∧
           t.out = s.out ++ [.flashWrite 2 (logRecord (s.sec.next + 1))] ∧
           t.field F.SEC_STATUS.SIG_REMAINING 0 0 = 2 ^ 20 - (s.sec.next + 1)) ∧ SameBut [.regs, .sec, .out] s t)) ∧
      Completes .verifyToken s (fun t => starts 2 .verify (if s.flag F.SEC_STATUS.OWNER_SET 0 0 then none else some 3) t ∧
        kept t ∧ SameRegs (fun k => k == ⟨.SEC_ENGINE, 0, 0⟩) s t ∧ SameBut [.regs, .sec] s t) ∧
      Completes .fuse s (fun t => starts 3 .fuse (if s.flag F.SEC_STATUS.OWNER_SET 0 0 then some 3 else none) t ∧
        kept t ∧ SameRegs (fun k => k == ⟨.SEC_ENGINE, 0, 0⟩) s t ∧ SameBut [.regs, .sec] s t)) ∧
    Completes .close s (fun t => t.field F.SEC_DBG_STATUS.RIGHTS 0 0 = 0 ∧ t.sec = { s.sec with token := [] } ∧
      SameRegs (fun k => k == ⟨.SEC_DBG_STATUS, 0, 0⟩) s t ∧ SameBut [.regs, .sec] s t) ∧
    (s.sec.command = none ∨ (∃ q ∈ s.host.waiting ++ s.host.reads, q.origin = .firmware) → exec (.secCommandDone flashOk) s = .next s) ∧
    (∀ c, s.sec.command = some c → (∀ q ∈ s.host.waiting ++ s.host.reads, q.origin ≠ .firmware) →
      let result (r : Nat) (x : Sec) (t : State) : Prop := t.field F.SEC_ENGINE.RESULT 0 0 = r ∧ t.flag F.SEC_ENGINE.BUSY 0 0 = false ∧
        t.sec = { x with command := none, early := none, loaded := [], hostErr := false }
      let only (t : State) : Prop := SameRegs (fun k => k == ⟨.SEC_ENGINE, 0, 0⟩) s t ∧ SameBut [.regs, .sec] s t
      (∀ r, s.sec.early = some r → r < 256 → Completes (.secCommandDone flashOk) s (fun t => result r s.sec t ∧ only t)) ∧
      (s.sec.early = none →
        (∀ n, c = .load n →
          (s.sec.hostErr = true → Completes (.secCommandDone flashOk) s (fun t => result 4 s.sec t ∧ only t)) ∧
          (s.sec.hostErr = false → s.imageCheck n = 0 → Completes (.secCommandDone flashOk) s (fun t =>
            result 0 { s.sec with running := slice (s.sec.image n) 0 (64 + leAt (s.sec.image n) 8 4) } t ∧ t.phase = 6 ∧
            t.flag F.SEC_STATUS.FW_LOCK 0 0 = true ∧ SameBut [.regs, .sec] s t)) ∧
          (s.sec.hostErr = false → s.imageCheck n ≠ 0 → Completes (.secCommandDone flashOk) s (fun t =>
            result (s.imageCheck n) s.sec t ∧ t.phase = s.phase ∧ t.flag F.RST_PHASE.HELD 0 0 = true ∧ SameBut [.regs, .sec] s t))) ∧
        (∀ n, c = .flash n →
          (s.sec.hostErr = true → Completes (.secCommandDone flashOk) s (fun t => result 4 s.sec t ∧ only t)) ∧
          (s.sec.hostErr = false → s.imageCheck n = 0 → Completes (.secCommandDone flashOk) s (fun t =>
            result (if flashOk then 0 else 5) { s.sec with
              flash := if flashOk then s.sec.image n else s.sec.flash
              torn := !flashOk } t ∧
            t.out = s.out ++ [.flashWrite 0 (s.sec.image n)] ∧ SameBut [.regs, .sec, .out] s t)) ∧
          (s.sec.hostErr = false → s.imageCheck n ≠ 0 →
            Completes (.secCommandDone flashOk) s (fun t => result (s.imageCheck n) s.sec t ∧ only t))) ∧
        (∀ leaf nonce, c = .attest leaf nonce →
          let body := s.reportBody leaf nonce
          (flashOk = true → leaf < 2 ^ 20 → Completes (.secCommandDone flashOk) s (fun t => result 0 s.sec t ∧
            t.wordBytes .SEC_REPORT 3076 = body ++ slice (s.signature leaf body) 0 2820 ∧
            t.field F.SEC_ATT_STATUS.INDEX 0 0 = leaf ∧ SameBut [.regs, .sec] s t)) ∧
          (flashOk = false → Completes (.secCommandDone flashOk) s (fun t => t.field F.SEC_ENGINE.RESULT 0 0 = 5 ∧
            (t.sec.next = leaf ∨ t.sec.next = leaf + 1) ∧ SameBut [.regs, .sec, .freeCtr] s t))) ∧
        (c = .verify →
          let tok := s.wordBytes .SEC_TOKEN 2884
          let r := s.tokenResult tok
          Completes (.secCommandDone flashOk) s (fun t =>
            result r (if r = 0 then { s.sec with token := tok } else s.sec) t ∧
            t.field F.SEC_DBG_STATUS.RIGHTS 0 0 = (if r = 0 then leAt tok 4 4 % 8 else s.field F.SEC_DBG_STATUS.RIGHTS 0 0) ∧
            SameRegs (fun k => k == ⟨.SEC_ENGINE, 0, 0⟩ || k == ⟨.SEC_DBG_STATUS, 0, 0⟩) s t ∧ SameBut [.regs, .sec] s t)) ∧
        (c = .fuse →
          let key := s.wordBytes .SEC_OWNER_KEY 68
          s.rst.fuses.bytes.length = 1024 → Completes (.secCommandDone flashOk) s (fun t => result 0 s.sec t ∧
            t.out = s.out ++ [.fuseWrite key] ∧ t.rst.fuses.owner = key ∧ t.rst.fuses.owned = true ∧
            (∀ a, a < 200 ∨ 268 ≤ a → nth t.rst.fuses.bytes a 0 = nth s.rst.fuses.bytes a 0) ∧
            t.flag F.SEC_STATUS.OWNER_SET 0 0 = true ∧ SameBut [.regs, .sec, .rst, .out] s t)))) ∧
    (let img := s.wordBytes .OPT_STAGE 1024
     let stage (n : Nat) (t : State) : Prop := t.field F.OPT_STATUS.STAGE 0 0 = n ∧ SameRegs (fun k => k == ⟨.OPT_STATUS, 0, 0⟩) s t
     let at1 := s.field F.OPT_STATUS.STAGE 0 0 = 1
     (at1 → exec .optCommit s = .next s) ∧
     (¬ at1 → imageOk img = true → Completes .optCommit s (fun t => stage 1 t ∧
       t.rst = { s.rst with image := [], staged := img } ∧ SameBut [.regs, .rst] s t)) ∧
     (¬ at1 → imageOk img = false → Completes .optCommit s (fun t => stage 3 t ∧ SameBut [.regs] s t)) ∧
     (at1 → Completes .optCommitDone s (fun t => stage 2 t ∧ t.rst = { s.rst with image := s.rst.staged, staged := [] } ∧
       t.out = s.out ++ [.flashWrite 1 s.rst.staged] ∧ SameBut [.regs, .rst, .out] s t)) ∧
     (¬ at1 → exec .optCommitDone s = .next s))

/-! Faults and fences (18 R457 to R468). -/

/-- TOP_FENCE_CMD with its key fences a site that has nothing in flight: its core moves to the best spare, of the same cluster, else of the
same half, else of the other, lowest number first, halted there with its core block at reset values, or is absent where
there is none; a record says so. No byte of memory changes, the spare being swept by no one (log 137). Anything else written does nothing.
A HEAD past the outstanding records of the fault log acts as TAIL. A drain past its limit ends at once, as its immediate variant does,
with a record, unless the limit is 0; of a core, what was being written stands in part and no other byte changes. Which function and which
instance a command names, and that it does nothing where none drains, is the model's choice (log 63). -/
def Obligations.FaultsAndFences : Prop :=
  ∀ (s : State), s.Safe →
    let head := s.field F.TOP_FAULT_PTRS.HEAD 0 0
    let tail := s.field F.TOP_FAULT_PTRS.TAIL 0 0
    let recorded (w0 : Nat) (t : State) : Prop := (tail + 1) % 256 ≠ head → t.reg .TOP_FAULT_LOG 0 (4 * tail) = w0
    let atSite (i : SiteId) : Nat := place 47 45 4 + place 44 44 (halfOf i) + place 43 39 (clusterOf i).val + place 38 31 i.val + s.ownId
    (∀ (v : Word) (h : Half), s.accepts .TOP_FENCE_CMD 0 0 = true →
      (∀ i : SiteId, i.val = fld v.toNat 7 0 → h = .full → fld v.toNat 63 48 = 0xF3A1 → s.fenced i = false → s.collIdle →
        s.sites[i].flights = [] → s.sites[i].rows = [] → s.alone i → Completes (.fenceSite v h) s (fun t =>
          let free (j : SiteId) : Prop := s.fenced j = false ∧ s.coreOf j = none ∧ j ≠ i
          let rank (j : SiteId) : Nat := if clusterOf j = clusterOf i then 0 else if halfOf j = halfOf i then 1 else 2
          (∀ j, t.fenced j = (s.fenced j || j == i)) ∧
          (∀ c, s.coreOf i = some c →
            ((∃ j, free j) → ∃ j, free j ∧ t.siteOf c = some j ∧ (∀ k, free k → rank j < rank k ∨ rank j = rank k ∧ j ≤ k) ∧
              t.field F.CORE_SEQ_STATUS.STATE j 0 = 0 ∧ t.field F.CORE_SEQ_STATUS.HALT_CAUSE j 0 = 0 ∧
              t.reg .CORE_SEQ_PC j 0 = 0) ∧
            ((∀ j, ¬ free j) → t.siteOf c = none)) ∧
          (∀ c, s.coreOf i ≠ some c → t.siteOf c = s.siteOf c) ∧ t.field F.CORE_SEQ_STATUS.STATE i 0 = 0 ∧
          recorded (place 63 56 4 + place 55 48 3 + atSite i) t ∧ t.mem = s.mem ∧ t.chk = s.chk)) ∧
      ((∀ i : SiteId, i.val = fld v.toNat 7 0 → h ≠ .full ∨ fld v.toNat 63 48 ≠ 0xF3A1 ∨ s.fenced i = true) →
        exec (.fenceSite v h) s = .next s)) ∧
    (∀ b : Byte, s.accepts .TOP_FAULT_PTRS 0 0 = true → Completes (.faultLogHeadWrite b) s (fun t =>
      t.field F.TOP_FAULT_PTRS.HEAD 0 0 = (if (b.toNat + 256 - head) % 256 ≤ (tail + 256 - head) % 256 then b.toNat else tail) ∧
      t.field F.TOP_FAULT_PTRS.TAIL 0 0 = tail ∧ SameRegs (fun k => k == ⟨.TOP_FAULT_PTRS, 0, 0⟩) s t ∧ SameBut [.regs] s t)) ∧
    (s.field F.TOP_FAULT_CONFIG.DRAIN_LIMIT 0 0 = 0 → ∀ f n, exec (.drainEscalate f n) s = .next s) ∧
    (∀ f n, (f.val = 0 → ∀ i : SiteId, i.val = n.val → s.field F.CORE_SEQ_STATUS.STATE i 0 ≠ 2) →
      (f.val = 1 → s.rake.run = none ∨ s.rake.draining = false) →
      (f.val = 2 → ∀ r : RingId, r.val = n.val → s.host.rings[r].draining = false ∨ s.flag F.HST_RING_CTRL.BUSY r 0 = false) →
      s.collIdle → exec (.drainEscalate f n) s = .next s) ∧
    (s.field F.TOP_FAULT_CONFIG.DRAIN_LIMIT 0 0 ≠ 0 → s.collIdle →
      (∀ (i : SiteId) (n : Fin 256), n.val = i.val → s.field F.CORE_SEQ_STATUS.STATE i 0 = 2 →
        (∀ f ∈ s.sites[i].flights ++ s.sites[i].rows, f.unit ≠ .coll) → s.alone i → Completes (.drainEscalate 0 n) s (fun t =>
          t.field F.CORE_SEQ_STATUS.STATE i 0 = 0 ∧ t.sites[i].flights = [] ∧ t.sites[i].rows = [] ∧
          (∀ f ∈ s.sites[i].flights ++ s.sites[i].rows, (∀ g ∈ s.sites[i].flights ++ s.sites[i].rows, f = g ∨ f.seq < g.seq) →
            t.field F.CORE_SEQ_PC.ADDR i 0 = f.pc.toNat / 16) ∧
          recorded (place 63 56 0xB + place 55 48 1 + atSite i) t ∧
          SameMemory (fun b => ∃ f ∈ s.sites[i].flights ++ s.sites[i].rows, b ∈ f.touched.map (·.1)) s t)) ∧
      (∀ r n, s.rake.run = some r → s.rake.draining = true → Completes (.drainEscalate 1 n) s (fun t =>
        t.rake = { s.rake with run := none } ∧ t.field F.RAKE_STATUS.LAST_STATUS 0 0 = 9 ∧ t.field F.RAKE_STATUS.BUSY 0 0 = 0)) ∧
      (∀ (r : RingId) (n : Fin 256), n.val = r.val → s.host.rings[r].draining = true → s.flag F.HST_RING_CTRL.BUSY r 0 = true →
        s.host.rings[r].queue ≠ [] → Completes (.drainEscalate 2 n) s (fun t => t.field F.HST_RING_CTRL.LAST_STATUS r 0 = 6 ∧
          t.flag F.HST_RING_CTRL.BUSY r 0 = false ∧ t.flag F.HST_RING_CTRL.ENABLE r 0 = false ∧ t.host.rings[r].queue = [] ∧
          recorded (place 63 56 0xB + place 55 48 3 + place 47 45 7 + place 38 31 0xFF + s.ownId) t)))

/-! Counters, the trace and Hush (19 R473 to R495). -/

/-- Swaps of counters, and the trace. A swap is aimed 100 ns ahead, or at the time that AT names where that is no nearer; it replaces one
that is pending, and one whose time has passed stays owed by every instance that has not swapped yet (log 156). An instance that owes a
swap, or is due one, its time come, swaps each of its sets: FROZEN keeps when the bank began and its last tags, with the time of the swap as its end, and LIVE
begins then with the next bank number; of a core, the peer table too, with what its present wait has taken so far. A core whose clock is
stopped does not swap. The merger writes the first event of the source that is next to the ring, of LPDDR6 open to jobs,
and TAIL moves on; disabled, held by Hush or at the seam, awaiting an acceptance or full under STOP it does nothing. A write of HEAD is
taken as it is; where the entries not read thereby reach the watermark from below, vector 3 is raised. -/
def Obligations.CountersAndTrace : Prop :=
  ∀ (s : State), s.Safe →
    (s.accepts .CNT_CMD 0 0 = true →
      let at' := s.field F.CNT_SWAP_AT.TIME 0 0
      let near := at' < s.now + 100
      let swaps (target : Nat) (past : Bool) (t : State) : Prop :=
        (∃ owed, t.obs = { s.obs with target := target, atPast := past, due := swapInsts, owed := owed } ∧
          (s.now < s.obs.target → owed = s.obs.owed) ∧
          (s.obs.target ≤ s.now → s.obs.owed = [] → owed = s.obs.due.map (fun i => (i, s.obs.target, s.obs.atPast)))) ∧
          t.field F.CNT_STATUS.SWAP_SEQ 0 0 = (s.field F.CNT_STATUS.SWAP_SEQ 0 0 + 1) % 2 ^ 32 ∧
          t.flag F.CNT_STATUS.AT_PAST 0 0 = (past || s.flag F.CNT_STATUS.AT_PAST 0 0) ∧
          SameRegs (fun k => k == ⟨.CNT_STATUS, 0, 0⟩) s t ∧ SameBut [.regs, .obs] s t
      Completes .cntSwap s (swaps (s.now + 100) false) ∧
      (near → Completes .cntSwapAt s (swaps (s.now + 100) true)) ∧ (¬ near → Completes .cntSwapAt s (swaps at' false))) ∧
    (∀ i : SwapInst,
      let stopped := ∃ c, i = .core c ∧ (s.hushed = true ∨ s.fenced c = true)
      let owes := ∃ o ∈ s.obs.owed, o.1 = i
      let due := (owes ∨ i ∈ s.obs.due ∧ s.obs.target ≤ s.now) ∧ ¬ stopped
      let swapped (live frozen : Reg) (inst base : Nat) (t : State) : Prop :=
        t.reg frozen inst base = s.reg live inst base ∧ t.reg frozen inst (base + 1) = s.now % 2 ^ 64 ∧
        t.reg frozen inst (base + 3) = s.reg live inst (base + 3) ∧ t.reg live inst base = s.now % 2 ^ 64 ∧
        t.reg live inst (base + 3) = (fld (s.reg live inst (base + 3)) 31 0 + 1) % 2 ^ 32
      (¬ due → exec (.counterSwap i) s = .next s) ∧
      (due → Completes (.counterSwap i) s (fun t => t.obs.owed = s.obs.owed.filter (·.1 != i) ∧ (¬ owes → t.obs.due = s.obs.due.filter (· != i)) ∧
        (∀ c, i = .core c → (∀ n, n < 5 → swapped .CNT_CORE_LIVE .CNT_CORE_FROZEN c (32 * n) t) ∧
          let wait := s.reg .CORE_COLL_WAIT c 0
          ∀ k, k < 9 → t.reg .CNT_PEER_LIVE c k = 0 ∧
            (wait.testBit 63 = false ∨ k ≠ peerEntry s c wait → t.reg .CNT_PEER_FROZEN c k = s.reg .CNT_PEER_LIVE c k)) ∧
        (∀ c, i = .cluster c → swapped .CNT_CLUS_LIVE .CNT_CLUS_FROZEN c 0 t ∧ swapped .CNT_CLUS_LIVE .CNT_CLUS_FROZEN c 32 t) ∧
        (∀ u, i = .rake u → swapped .CNT_RAKE_LIVE .CNT_RAKE_FROZEN u 0 t) ∧
        (i = .coll → swapped .CNT_COLL_LIVE .CNT_COLL_FROZEN 0 0 t) ∧
        (∀ l, i = .link l → swapped .CNT_LINK_LIVE .CNT_LINK_FROZEN l 0 t) ∧ SameBut [.regs, .obs, .freeCtr] s t))) ∧
    (let n := s.trcSize
     let tail := s.field F.TRC_RING_PTRS.TAIL 0 0
     let full := s.trcUsed + 1 = n
     let a := 32 * s.field F.TRC_RING_BASE.BASE 0 0 + 32 * (tail % n)
     let may := s.flag F.TRC_RING_CTRL.ENABLE 0 0 = true ∧ s.hushed = false ∧ s.obs.writing = false ∧ s.cutFrom hubEast a = false ∧
       (full → s.flag F.TRC_RING_CTRL.MODE 0 0 = true)
     (¬ may ∨ s.nextSource = none → exec .traceMerge s = .next s) ∧
     (∀ f ev rest, may → s.nextSource = some f → f.events = ev :: rest → f.lost = 0 → ev.length = 4 → s.plainGran a = true →
       Completes .traceMerge s (fun t =>
         t.stored a = .valid (ev.flatMap (fun w => toBytes 8 w.toNat)) ∧ SameMemory (fun b => b = a / 32) s t ∧
         t.field F.TRC_RING_PTRS.TAIL 0 0 = (tail + 1) % n ∧ t.obs.writing = false ∧ t.obs.lastSrc = (f.kind, f.num) ∧
         (s.obs.fifos.filter (fun g => g.kind == f.kind && g.num == f.num) = [f] →
           t.obs.fifos = s.obs.fifos.map (fun g => if g = f then { f with events := rest } else g)) ∧
         t.field F.TRC_RING_PTRS.HEAD 0 0 = (if full then (s.field F.TRC_RING_PTRS.HEAD 0 0 + 1) % n
           else s.field F.TRC_RING_PTRS.HEAD 0 0) ∧ Woken s t ∧ CacheOnly s t ∧
         SameBut [.regs, .mem, .chk, .clusters, .channels, .obs, .out, .freeCtr] s t))) ∧
    (∀ head : BitVec 32, s.accepts .TRC_RING_PTRS 0 0 = true → Completes (.traceHeadWrite head) s (fun t =>
      let mark := s.field F.TRC_RING_CTRL.WATERMARK 0 0 * s.trcSize
      let reached := mark ≠ 0 ∧ 16 * s.trcUsed < mark ∧ mark ≤ 16 * t.trcUsed
      t.field F.TRC_RING_PTRS.HEAD 0 0 = head.toNat ∧ t.field F.TRC_RING_PTRS.TAIL 0 0 = s.field F.TRC_RING_PTRS.TAIL 0 0 ∧
      (reached → (t.reg .HST_IRQ_CAUSE 0 0).testBit 3 = true ∧ SameRegs (eventReg .TRC_RING_PTRS) s t ∧ SameBut [.regs, .out] s t) ∧
      (¬ reached → SameRegs (fun k => k == ⟨.TRC_RING_PTRS, 0, 0⟩) s t ∧ SameBut [.regs] s t)))

/-- Hush. A TRIGGER with the HUSH right stops a running device, its cause and time shown; without the right it is counted as denied, and
outside RUNNING it does nothing. Once all has stopped the scan begins; at its end the snapshot's header stands at the start of its range,
no byte outside the range has changed, and vector 4 is raised. A shipped snapshot ends once the last of it is accepted. RESUME, with the
right, sets a held device running: the requests that waited at stopped cores arrive. -/
def Obligations.HushStages : Prop :=
  ∀ (s : State), s.Safe → s.accepts .TRC_HUSH_CTRL 0 0 = true →
    let state (t : State) := t.field F.TRC_HUSH_STATUS.STATE 0 0
    let only (t : State) : Prop := SameRegs (fun k => k == ⟨.TRC_HUSH_STATUS, 0, 0⟩) s t ∧ SameBut [.regs] s t
    (s.right 0 = false → ∀ c ∈ [Instr.trigger, .resume], Completes c s (fun t =>
      t.field F.SEC_DBG_STATUS.DENIED 0 0 = min F.SEC_DBG_STATUS.DENIED.top (s.field F.SEC_DBG_STATUS.DENIED 0 0 + 1) ∧
      SameRegs (fun k => k == ⟨.SEC_DBG_STATUS, 0, 0⟩) s t ∧ SameBut [.regs] s t)) ∧
    (s.right 0 = true → state s ≠ 0 → exec .trigger s = .next s) ∧
    (s.right 0 = true → state s = 0 → Completes .trigger s (fun t => state t = 1 ∧ t.field F.TRC_HUSH_STATUS.CAUSE 0 0 = 1 ∧
      t.reg .TRC_HUSH_TIME 0 0 = s.now % 2 ^ 64 ∧
      SameRegs (fun k => k == ⟨.TRC_HUSH_STATUS, 0, 0⟩ || k == ⟨.TRC_HUSH_TIME, 0, 0⟩) s t ∧ SameBut [.regs, .obs, .freeCtr] s t)) ∧
    (state s = 1 → Completes .hushStopped s (fun t => state t = 2 ∧ t.field F.TRC_HUSH_STATUS.SCANNED 0 0 = 0 ∧ only t)) ∧
    (state s ≠ 1 → exec .hushStopped s = .next s) ∧
    (state s = 2 → s.field F.TRC_HUSH_SHIP.ADDR 0 0 = 0 → Completes .hushScanDone s (fun t =>
      state t = 3 ∧ t.field F.TRC_HUSH_STATUS.SCANNED 0 0 = 1447 ∧ (t.reg .HST_IRQ_CAUSE 0 0).testBit 4 = true ∧
      (s.flag F.MEM_CH_STATUS.FAILED (channelOf snapBase) 0 = false →
        let h := (t.stored snapBase).data
        (t.stored snapBase).err = 0 ∧ leAt h 0 4 = 0x48535548 ∧ leAt h 4 2 = 1 ∧ leAt h 6 2 = s.ownId ∧
          leAt h 8 1 = s.field F.TRC_HUSH_STATUS.CAUSE 0 0 ∧ leAt h 16 8 = s.reg .TRC_HUSH_TIME 0 0 ∧ leAt h 24 8 = s.now % 2 ^ 64) ∧
      SameMemory (fun b => snapBase / 32 ≤ b ∧ b < (snapBase + 0x5C40000) / 32) s t ∧
      SameRegs (eventReg .TRC_HUSH_STATUS) s t ∧ Woken s t ∧ SameBut [.regs, .mem, .chk, .channels, .out, .freeCtr] s t)) ∧
    (state s ≠ 2 → exec .hushScanDone s = .next s) ∧
    (let shipped := state s = 4 ∧ (∀ q ∈ s.fabric.reqs, q.origin ≠ .hush) ∧ (∀ h ∈ s.fabric.held, h.req.origin ≠ .hush)
     (shipped → Completes .hushShipDone s (fun t => state t = 5 ∧ only t)) ∧ (¬ shipped → exec .hushShipDone s = .next s)) ∧
    (s.right 0 = true →
      (state s ≠ 3 → state s ≠ 5 → exec .resume s = .next s) ∧
      (state s = 3 ∨ state s = 5 → s.collIdle → (∀ i : SiteId, s.sites[i].flights = []) → s.noc.cores = [] →
        (∀ w ∈ s.fabric.parked, w.vc = none) → (∀ r : RingId, s.host.rings[r].acted = false ∧ s.host.rings[r].late = []) →
        (s.rake.run ≠ none ∨ s.rake.draining = true ∨
          s.field F.RAKE_RING_PTRS.HEAD 0 0 % s.rakeSize = s.field F.RAKE_RING_PTRS.TAIL 0 0 % s.rakeSize) →
        Completes .resume s (fun t => state t = 0 ∧ t.obs.resumed = s.now ∧ t.fabric = { s.fabric with parked := [] } ∧
          t.out = s.out ++ s.fabric.parked.map (fun w => .loop w.packet) ∧
          SameRegs (fun k => k == ⟨.TRC_HUSH_STATUS, 0, 0⟩) s t ∧ SameBut [.regs, .obs, .fabric, .out] s t)))

/-! The management port (21 R512 to R517). -/

/-- The management port. A write with 8 data bytes or more sets the index and writes that register with the first 8: ones clear alerts,
ENABLE takes its bits; one with the index alone sets it, one with 1 to 7 data bytes is dropped, and so is one without a byte. A read answers
registers from the index on, 8 bytes each, zero where none is, and moves the index on; it answers at the dynamic address, or at 0x4C while
there is none. An address is taken, in any state of the port, and acknowledged; ENTDAA first answers the provisioned ID. Choices of the
model in this: what a write of more than 8 data bytes or of none does (log 69), that an address is always taken (log 70), the order of bytes
of the provisioned ID (log 157), FIXED before the option load (log 169). The auxiliary supply starts the port; without power nothing of it
answers, and a loss of power leaves no register, no unit and no byte of LPDDR6 as it was. -/
def Obligations.ManagementPort : Prop :=
  ∀ (k : Byte) (data : List Byte) (n : Fin 257) (a : BitVec 7) (s : State),
    (s.mgmt.on = false → ∀ c ∈ [Instr.mgmtWrite (k :: data), .mgmtRead n, .setdasa a, .entdaa a], exec c s = .next s) ∧
    exec (.mgmtWrite []) s = .next s ∧
    (s.mgmt.on = true →
      (0 < data.length → data.length < 8 → exec (.mgmtWrite (k :: data)) s = .next s) ∧
      (data = [] → Completes (.mgmtWrite (k :: data)) s (fun t =>
        t.mgmt = { s.mgmt with index := k.toNat } ∧ SameBut [.mgmt] s t)) ∧
      (8 ≤ data.length → Completes (.mgmtWrite (k :: data)) s (fun t => t.mgmt = { s.mgmt with index := k.toNat } ∧
        (∀ b, b < 7 → (t.reg .MGT_ALERT 0 0).testBit b =
          ((s.reg .MGT_ALERT 0 0).testBit b && !(k.toNat == 5 && (ofBytes (data.take 8)).testBit b))) ∧
        (∀ b, b < 7 → (t.reg .MGT_ALERT_ENABLE 0 0).testBit b =
          if k.toNat = 6 then (ofBytes (data.take 8)).testBit b else (s.reg .MGT_ALERT_ENABLE 0 0).testBit b) ∧
        SameRegs (fun q => q == ⟨.MGT_ALERT, 0, 0⟩ || q == ⟨.MGT_ALERT_ENABLE, 0, 0⟩) s t ∧ SameBut [.mgmt, .regs] s t)) ∧
      Completes (.mgmtRead n) s (fun t => t.mgmt = { s.mgmt with index := (s.mgmt.index + n.val) % 256 } ∧
        (∃ bs, t.out = s.out ++ [.mgmtData (s.mgmt.addr.getD 0x4C) bs] ∧ bs.length = 8 * n.val ∧ ∀ j, j < n.val →
          let i := (s.mgmt.index + j) % 256
          let w := leAt bs (8 * j) 8
          (i = 0 → w = s.reg .MGT_ID 0 0) ∧
          (i = 1 → fld w 63 32 = s.reg .RST_CAUSE 0 0 % 2 ^ 32 ∧ fld w 31 24 = s.field F.MGT_STATE.RAIL 0 0 ∧
            fld w 15 8 = s.field F.RST_PHASE.FAIL 0 0 ∧ fld w 7 0 = s.phase) ∧
          (i = 2 → w = s.reg .MGT_INPUT 0 0) ∧
          (i = 3 → fld w 63 56 = (if s.phase ≤ 6 then 0 else s.pwr.memTemp.foldl max 0) % 256 ∧ fld w 47 32 = s.field F.MGT_THERMAL.LID 0 0 ∧ fld w 20 16 = s.field F.MGT_THERMAL.HOT_SENSOR 0 0 ∧ fld w 15 0 = s.field F.MGT_THERMAL.HOT 0 0) ∧
          (i = 4 → fld w 63 48 = s.field F.PWR_STATUS.CEILING_MHZ 0 0 ∧ fld w 41 32 = s.field F.PWR_CAP_LIMIT.WATTS 0 0 ∧
            fld w 1 1 = (if 5 ≤ s.phase ∧ s.field F.PWR_FREQ_CTRL.MODE 0 0 = 0 then 1 else 0) ∧ fld w 0 0 = s.field F.PWR_STATUS.THROTTLED 0 0) ∧
          (i = 5 → w = s.reg .MGT_ALERT 0 0) ∧ (i = 6 → w = s.reg .MGT_ALERT_ENABLE 0 0) ∧ (7 ≤ i → w = 0)) ∧
        SameBut [.mgmt, .out] s t) ∧
      Completes (.setdasa a) s (fun t => t.mgmt = { s.mgmt with addr := some a.toNat } ∧ t.out = s.out ++ [.mgmtAck a.toNat] ∧
        SameBut [.mgmt, .out] s t) ∧
      Completes (.entdaa a) s (fun t => t.mgmt = { s.mgmt with addr := some a.toNat } ∧
        t.out = s.out ++
        [.mgmtData (s.mgmt.addr.getD 0x4C) (toBytes 6 (place 47 33 (ofBytes serial / 2 ^ 32) + place 32 32 1 + ofBytes serial % 2 ^ 32)).reverse,
          .mgmtAck a.toNat] ∧ SameBut [.mgmt, .out] s t)) ∧
    Completes .auxPowerOn s (fun t => t.mgmt = (if s.mgmt.on then s.mgmt else { index := 0, addr := none, on := true }) ∧
      SameBut [.mgmt] s t) ∧
    Completes .powerLoss s (fun t => (∀ q, q.reg ≠ .SEC_DBG_CHALLENGE → AtReset q t) ∧ UnitsClear t ∧
      (∀ c : ChannelId, t.channels[c] = {}) ∧ t.rst.dark = true ∧ t.rst.inputUp = false ∧ t.rst.requests = [] ∧ t.rst.fuses = s.rst.fuses ∧ t.mgmt = { index := 0, addr := none, on := false } ∧
      t.now = 0 ∧ ∀ b, b < 0x014000000000 → Mem.get b t.mem = none)

/-! Address maps and codes (01 R36, 02 R66, R70, 09 R266, R267, 10 R280 to R287). -/

/-- Offsets of LPDDR6 and their granules correspond one to one: channel, sub-channel and position name one granule, of a channel below 64;
over the lines of an aligned group of 64 every channel occurs once; the bytes of a line share their channel and their home slice, which is
below 18; its four granules lie two on each sub-channel. The window of a site holds its scratchpad, and blank space from 0x280000. -/
def Obligations.AddressMaps : Prop :=
  (∀ p, p < 2 ^ 41 →
    let a := fld p 40 7
    channelOf p = fld a 5 0 ^^^ fld a 11 6 ^^^ fld a 17 12 ^^^ fld a 23 18 ^^^ fld a 29 24 ^^^ fld a 33 30 ∧
      subChannelOf p = fld p 5 5 ∧ granulePos p = 2 * fld a 33 6 + fld p 6 6 ∧
      ∀ k, k < 4 → channelOf (128 * a + 32 * k) = channelOf p ∧ subChannelOf (128 * a + 32 * k) = k % 2) ∧
  (∀ p, p < 0x014000000000 → p % 32 = 0 → channelOf p < 64 ∧ offsetAt (channelOf p) (subChannelOf p) (granulePos p) = p) ∧
  (∀ h c, h < 2 ^ 28 → c < 64 → ∃ lo, lo < 64 ∧ channelOf ((64 * h + lo) * 128) = c ∧
    ∀ m, m < 64 → channelOf ((64 * h + m) * 128) = c → m = lo) ∧
  (∀ p k, k < 128 → channelOf (p / 128 * 128 + k) = channelOf p ∧ homeSlice (p / 128 * 128 + k) = homeSlice p ∧ homeSlice p < 18) ∧
  channelOf 0x12345680 = 0 ∧ homeSlice 0x12345680 = 14 ∧ granulePos 0x12345680 = 0x12344 ∧
  (∀ (i : SiteId) (x : Nat), (x < 0x200000 → localTarget (windowBase i.val + x) = .scratch i x) ∧
    (0x280000 ≤ x → x < 0x400000 → localTarget (windowBase i.val + x) = .blank i))

/-- The granule code: its vectors; it is linear; a granule received as it was sent is clean, one with its check bytes inverted is POISON,
and one with any single byte of its 36 changed is corrected, and named by that byte. With them the vectors of the stochastic rounding
generator and of the fingerprint. -/
def Obligations.CodeCorrects : Prop :=
  let z (n : Nat) : List Byte := zeroBytes n
  (checkBytes (z 32) = [0, 0, 0, 0] ∧ checkBytes (z 31 ++ [1]) = [0x0F, 0x36, 0x78, 0x40] ∧
    checkBytes (z 30 ++ [1, 0]) = [0x63, 0x57, 0xD2, 0xE7] ∧ checkBytes (z 30 ++ [1, 1]) = [0x6C, 0x61, 0xAA, 0xA7] ∧
    (Gran.poisoned (z 31 ++ [1])).check = [0xF0, 0xC9, 0x87, 0xBF]) ∧
  (let st (seed n : Nat) := (List.range n).foldl (srRound seed) (0, 0, 0)
   [st 0 1, st 0 2, st 0 3, st 0 4] = [(0x9E3779B9, 0xBBCDCCF1, 0x678DDE6E), (0xF9C2086D, 0x7E24E210, 0x03F72D96),
     (0xFD81A25E, 0x2A02741D, 0x0D996FCD), (0xE7CF6C63, 0x68C3F66E, 0x31DBB2EB)] ∧ srBits 0 0 0 0 = 0xBED728 ∧
   [st 0x100000000 1, st 0x100000000 2, st 0x100000000 3, st 0x100000000 4] = [(0x9E3779B9, 0xBBCDCCF1, 0x678DDE6E),
     (0xF9C2086E, 0x7E24FA10, 0xC3F72D96), (0x3D81AA5F, 0x2A827A1D, 0x3D9F73CD), (0x17516265, 0x98C3C1EE, 0xADDEB319)] ∧
   srBits 0x100000000 0 0 0 = 0x224C10 ∧
   0xE7CF6C63 ^^^ 0x68C3F66E ^^^ 0x31DBB2EB = 0xBED728E6 ∧ 0x17516265 ^^^ 0x98C3C1EE ^^^ 0xADDEB319 = 0x224C1092) ∧
  (fpTerms 0 0 (toBytes 8 1 ++ z 24) = 0x9E3779B97F4A7C15 ∧ fpTerms 0 0 (toBytes 8 1 ++ toBytes 8 1 ++ z 16) = 0x78DDE6E5FD29F054 ∧
    fpTerms 1 0 (toBytes 8 2 ++ z 24) = 0x665F4772FE94F82A ∧ ∀ a q, fpTerms a q (z 32) = 0) ∧
  ∀ d : List Byte, d.length = 32 →
    let bs := d ++ checkBytes d
    (∀ e : List Byte, e.length = 32 →
      checkBytes (List.zipWith (· ^^^ ·) d e) = List.zipWith (· ^^^ ·) (checkBytes d) (checkBytes e)) ∧
    (Gran.ofBurst bs).decode = (.clean, d) ∧
    (Gran.ofBurst (d ++ (checkBytes d).map (· ^^^ 0xFF))).decode = (.poison, d) ∧
    (∀ (b : Nat) (e : Byte), b < 36 → e ≠ 0 → (Gran.ofBurst (bs.set b (nth bs b 0 ^^^ e))).decode = (.corrected [b], d))
end

