-- ==== Sys2Proof/Laws/Bits.lean ====
section
/-!
SUPPORT. Bit fields: reading a field that was just set, reading another one, and fields of masked and truncated words.
-/
namespace Sys2Proof.Machine

theorem testBit_fld (w hi lo i : Nat) : (fld w hi lo).testBit i = (decide (i < hi + 1 - lo) && w.testBit (lo + i)) := by
  simp [fld, Nat.testBit_mod_two_pow, Nat.testBit_shiftRight]

theorem fld_lt (w hi lo : Nat) : fld w hi lo < 2 ^ (hi + 1 - lo) := Nat.mod_lt _ (Nat.two_pow_pos _)

/-- A word split at a field: what lies above, the field, what lies below. -/
theorem split_at (w hi lo : Nat) (h : lo ≤ hi) :
    w = 2 ^ lo * (2 ^ (hi + 1 - lo) * (w >>> (hi + 1)) + fld w hi lo) + w % 2 ^ lo := by
  have h1 : w >>> (hi + 1) = (w >>> lo) / 2 ^ (hi + 1 - lo) := by
    rw [Nat.shiftRight_eq_div_pow, Nat.shiftRight_eq_div_pow, Nat.div_div_eq_div_mul, ← Nat.pow_add]
    congr 2
    omega
  rw [h1, fld, Nat.div_add_mod, Nat.shiftRight_eq_div_pow, Nat.div_add_mod]

theorem setFld_split (w hi lo v : Nat) (h : lo ≤ hi) :
    setFld w hi lo v = 2 ^ lo * (2 ^ (hi + 1 - lo) * (w >>> (hi + 1)) + v % 2 ^ (hi + 1 - lo)) + w % 2 ^ lo := by
  have hs := split_at w hi lo h
  simp only [setFld, place, Nat.shiftLeft_eq]
  generalize fld w hi lo = F at hs ⊢
  generalize w >>> (hi + 1) = H at hs ⊢
  generalize v % 2 ^ (hi + 1 - lo) = V
  generalize w % 2 ^ lo = L at hs ⊢
  generalize 2 ^ (hi + 1 - lo) = N at hs ⊢
  generalize 2 ^ lo = M at hs ⊢
  rw [hs]
  have e1 : M * (N * H + F) + L = M * (N * H) + L + F * M := by
    rw [Nat.mul_add, Nat.mul_comm F M]; omega
  rw [e1, Nat.add_sub_cancel, Nat.mul_add, Nat.mul_comm V M]
  omega

theorem testBit_setFld (w hi lo v i : Nat) (h : lo ≤ hi) :
    (setFld w hi lo v).testBit i = if lo ≤ i ∧ i ≤ hi then v.testBit (i - lo) else w.testBit i := by
  have hL : w % 2 ^ lo < 2 ^ lo := Nat.mod_lt _ (Nat.two_pow_pos _)
  have hV : v % 2 ^ (hi + 1 - lo) < 2 ^ (hi + 1 - lo) := Nat.mod_lt _ (Nat.two_pow_pos _)
  rw [setFld_split w hi lo v h, Nat.testBit_two_pow_mul_add _ hL]
  by_cases h1 : i < lo
  · have h2 : ¬ (lo ≤ i ∧ i ≤ hi) := by omega
    simp [h1, h2, Nat.testBit_mod_two_pow]
  · rw [if_neg h1, Nat.testBit_two_pow_mul_add _ hV]
    by_cases h2 : i ≤ hi
    · have h3 : i - lo < hi + 1 - lo := by omega
      have h4 : lo ≤ i ∧ i ≤ hi := by omega
      rw [if_pos h3, if_pos h4, Nat.testBit_mod_two_pow]
      simp [h3]
    · have h3 : ¬ (i - lo < hi + 1 - lo) := by omega
      have h4 : ¬ (lo ≤ i ∧ i ≤ hi) := by omega
      rw [if_neg h3, if_neg h4, Nat.testBit_shiftRight]
      congr 1
      omega

theorem fld_setFld_same (w hi lo v : Nat) (h : lo ≤ hi) : fld (setFld w hi lo v) hi lo = v % 2 ^ (hi + 1 - lo) := by
  apply Nat.eq_of_testBit_eq
  intro i
  rw [testBit_fld, testBit_setFld _ _ _ _ _ h, Nat.testBit_mod_two_pow]
  by_cases hi' : i < hi + 1 - lo
  · have : lo ≤ lo + i ∧ lo + i ≤ hi := by omega
    simp [hi', this]
  · simp [hi']

theorem fld_setFld_other (w hi lo v hi' lo' : Nat) (h : lo ≤ hi) (hd : hi < lo' ∨ hi' < lo) :
    fld (setFld w hi lo v) hi' lo' = fld w hi' lo' := by
  apply Nat.eq_of_testBit_eq
  intro i
  rw [testBit_fld, testBit_fld, testBit_setFld _ _ _ _ _ h]
  by_cases hi1 : i < hi' + 1 - lo'
  · have : ¬ (lo ≤ lo' + i ∧ lo' + i ≤ hi) := by omega
    simp [this]
  · simp [hi1]

theorem fld_mod64 (w hi lo : Nat) (h : hi < 64) : fld (w % 2 ^ 64) hi lo = fld w hi lo := by
  apply Nat.eq_of_testBit_eq
  intro i
  rw [testBit_fld, testBit_fld, Nat.testBit_mod_two_pow]
  by_cases h1 : i < hi + 1 - lo
  · have : lo + i < 64 := by omega
    simp [this]
  · simp [h1]

theorem fld_and (w m hi lo : Nat) (h : fld m hi lo = 2 ^ (hi + 1 - lo) - 1) : fld (w &&& m) hi lo = fld w hi lo := by
  apply Nat.eq_of_testBit_eq
  intro i
  have hm : (fld m hi lo).testBit i = decide (i < hi + 1 - lo) := by rw [h, Nat.testBit_two_pow_sub_one]
  rw [testBit_fld] at hm
  rw [testBit_fld, testBit_fld, Nat.testBit_and]
  by_cases h1 : i < hi + 1 - lo
  · simp only [h1, decide_true, Bool.true_and] at hm ⊢
    simp [hm]
  · simp [h1]

end Sys2Proof.Machine
end

