-- ==== Sys2Proof/Laws/State.lean ====
section
/-!
SUPPORT. What each primitive update does to each field of State: one equation per update for the field that it writes, and one lemma per
field for all the updates that leave it.
-/
namespace Sys2Proof.Machine

@[simp] theorem Prim.apply_reg_regs (r : Reg) (i j : Nat) (v : Word) (s : State) : (Prim.apply (.reg r i j v) s).regs = RegFile.put ⟨r, i, j⟩ (v &&& BitVec.ofNat 64 r.mask) s.regs := rfl
@[simp] theorem Prim.apply_site_sites (i : SiteId) (x : Site) (s : State) : (Prim.apply (.site i x) s).sites = s.sites.set i x := rfl
@[simp] theorem Prim.apply_cluster_clusters (i : ClusterId) (x : Cluster) (s : State) : (Prim.apply (.cluster i x) s).clusters = s.clusters.set i x := rfl
@[simp] theorem Prim.apply_channel_channels (i : ChannelId) (x : Channel) (s : State) : (Prim.apply (.channel i x) s).channels = s.channels.set i x := rfl
@[simp] theorem Prim.apply_link_links (i : LinkId) (x : Link) (s : State) : (Prim.apply (.link i x) s).links = s.links.set i x := rfl
@[simp] theorem Prim.apply_byte_mem (a : Nat) (v : Byte) (s : State) : (Prim.apply (.byte a v) s).mem = Mem.put a v s.mem := rfl
@[simp] theorem Prim.apply_code_chk (g : Nat) (e : BitVec 32) (s : State) : (Prim.apply (.code g e) s).chk = Chk.put g e s.chk := rfl
@[simp] theorem Prim.apply_noc_noc (x : Noc) (s : State) : (Prim.apply (.noc x) s).noc = x := rfl
@[simp] theorem Prim.apply_fabric_fabric (x : Fabric) (s : State) : (Prim.apply (.fabric x) s).fabric = x := rfl
@[simp] theorem Prim.apply_coll_coll (x : Coll) (s : State) : (Prim.apply (.coll x) s).coll = x := rfl
@[simp] theorem Prim.apply_rake_rake (x : Rake) (s : State) : (Prim.apply (.rake x) s).rake = x := rfl
@[simp] theorem Prim.apply_host_host (x : HostIf) (s : State) : (Prim.apply (.host x) s).host = x := rfl
@[simp] theorem Prim.apply_rst_rst (x : Rst) (s : State) : (Prim.apply (.rst x) s).rst = x := rfl
@[simp] theorem Prim.apply_pwr_pwr (x : Pwr) (s : State) : (Prim.apply (.pwr x) s).pwr = x := rfl
@[simp] theorem Prim.apply_sec_sec (x : Sec) (s : State) : (Prim.apply (.sec x) s).sec = x := rfl
@[simp] theorem Prim.apply_obs_obs (x : Obs) (s : State) : (Prim.apply (.obs x) s).obs = x := rfl
@[simp] theorem Prim.apply_mgmt_mgmt (x : Mgmt) (s : State) : (Prim.apply (.mgmt x) s).mgmt = x := rfl
@[simp] theorem Prim.apply_now_now (t : Nat) (s : State) : (Prim.apply (.now t) s).now = t := rfl
@[simp] theorem Prim.apply_out_out (o : Out) (s : State) : (Prim.apply (.out o) s).out = s.out ++ [o] := rfl
@[simp] theorem Prim.apply_lost_lost  (s : State) : (Prim.apply (.lost) s).lost = s.lost + 1 := rfl
@[simp] theorem Prim.apply_free_freeCtr  (s : State) : (Prim.apply (.free) s).freeCtr = s.freeCtr + 1 := rfl
@[simp] theorem Prim.apply_want_want (l : List Nat) (s : State) : (Prim.apply (.want l) s).want = l := rfl
@[simp] theorem Prim.apply_got_got (l : List (Nat × Gran)) (s : State) : (Prim.apply (.got l) s).got = l := rfl

/-- The part that an update writes; `forget` writes both memory and check patterns. -/
def Prim.part : Prim → Part
  | .byte .. => .mem | .code .. => .chk | .reg .. => .regs | .resetRegs .. => .regs | .forget .. => .memory | .site .. => .sites
  | .cluster .. => .clusters | .noc _ => .noc | .channel .. => .channels | .link .. => .links | .fabric _ => .fabric | .coll _ => .coll
  | .rake _ => .rake | .host _ => .host | .rst _ => .rst | .pwr _ => .pwr | .sec _ => .sec | .obs _ => .obs | .mgmt _ => .mgmt
  | .now _ => .now | .out _ => .out | .lost => .lost | .free => .freeCtr | .want _ => .want | .got _ => .got

/-- No update touches the queue of waiting commands. -/
@[simp] theorem Prim.apply_pending (p : Prim) (s : State) : (p.apply s).pending = s.pending := by cases p <;> rfl

theorem Prim.keeps_regs (p : Prim) (s : State) (h : p.part ≠ .regs) : (p.apply s).regs = s.regs := by
  cases p <;> first | rfl | (simp [Prim.part] at h)
theorem Prim.keeps_mem (p : Prim) (s : State) (h : p.part ≠ .mem ∧ p.part ≠ .memory) : (p.apply s).mem = s.mem := by
  cases p <;> first | rfl | (simp [Prim.part] at h)
theorem Prim.keeps_chk (p : Prim) (s : State) (h : p.part ≠ .chk ∧ p.part ≠ .memory) : (p.apply s).chk = s.chk := by
  cases p <;> first | rfl | (simp [Prim.part] at h)
theorem Prim.keeps_sites (p : Prim) (s : State) (h : p.part ≠ .sites) : (p.apply s).sites = s.sites := by
  cases p <;> first | rfl | (simp [Prim.part] at h)
theorem Prim.keeps_clusters (p : Prim) (s : State) (h : p.part ≠ .clusters) : (p.apply s).clusters = s.clusters := by
  cases p <;> first | rfl | (simp [Prim.part] at h)
theorem Prim.keeps_noc (p : Prim) (s : State) (h : p.part ≠ .noc) : (p.apply s).noc = s.noc := by
  cases p <;> first | rfl | (simp [Prim.part] at h)
theorem Prim.keeps_channels (p : Prim) (s : State) (h : p.part ≠ .channels) : (p.apply s).channels = s.channels := by
  cases p <;> first | rfl | (simp [Prim.part] at h)
theorem Prim.keeps_links (p : Prim) (s : State) (h : p.part ≠ .links) : (p.apply s).links = s.links := by
  cases p <;> first | rfl | (simp [Prim.part] at h)
theorem Prim.keeps_fabric (p : Prim) (s : State) (h : p.part ≠ .fabric) : (p.apply s).fabric = s.fabric := by
  cases p <;> first | rfl | (simp [Prim.part] at h)
theorem Prim.keeps_coll (p : Prim) (s : State) (h : p.part ≠ .coll) : (p.apply s).coll = s.coll := by
  cases p <;> first | rfl | (simp [Prim.part] at h)
theorem Prim.keeps_rake (p : Prim) (s : State) (h : p.part ≠ .rake) : (p.apply s).rake = s.rake := by
  cases p <;> first | rfl | (simp [Prim.part] at h)
theorem Prim.keeps_host (p : Prim) (s : State) (h : p.part ≠ .host) : (p.apply s).host = s.host := by
  cases p <;> first | rfl | (simp [Prim.part] at h)
theorem Prim.keeps_rst (p : Prim) (s : State) (h : p.part ≠ .rst) : (p.apply s).rst = s.rst := by
  cases p <;> first | rfl | (simp [Prim.part] at h)
theorem Prim.keeps_pwr (p : Prim) (s : State) (h : p.part ≠ .pwr) : (p.apply s).pwr = s.pwr := by
  cases p <;> first | rfl | (simp [Prim.part] at h)
theorem Prim.keeps_sec (p : Prim) (s : State) (h : p.part ≠ .sec) : (p.apply s).sec = s.sec := by
  cases p <;> first | rfl | (simp [Prim.part] at h)
theorem Prim.keeps_obs (p : Prim) (s : State) (h : p.part ≠ .obs) : (p.apply s).obs = s.obs := by
  cases p <;> first | rfl | (simp [Prim.part] at h)
theorem Prim.keeps_mgmt (p : Prim) (s : State) (h : p.part ≠ .mgmt) : (p.apply s).mgmt = s.mgmt := by
  cases p <;> first | rfl | (simp [Prim.part] at h)
theorem Prim.keeps_now (p : Prim) (s : State) (h : p.part ≠ .now) : (p.apply s).now = s.now := by
  cases p <;> first | rfl | (simp [Prim.part] at h)
theorem Prim.keeps_out (p : Prim) (s : State) (h : p.part ≠ .out) : (p.apply s).out = s.out := by
  cases p <;> first | rfl | (simp [Prim.part] at h)
theorem Prim.keeps_lost (p : Prim) (s : State) (h : p.part ≠ .lost) : (p.apply s).lost = s.lost := by
  cases p <;> first | rfl | (simp [Prim.part] at h)
theorem Prim.keeps_freeCtr (p : Prim) (s : State) (h : p.part ≠ .freeCtr) : (p.apply s).freeCtr = s.freeCtr := by
  cases p <;> first | rfl | (simp [Prim.part] at h)
theorem Prim.keeps_want (p : Prim) (s : State) (h : p.part ≠ .want) : (p.apply s).want = s.want := by
  cases p <;> first | rfl | (simp [Prim.part] at h)
theorem Prim.keeps_got (p : Prim) (s : State) (h : p.part ≠ .got) : (p.apply s).got = s.got := by
  cases p <;> first | rfl | (simp [Prim.part] at h)

end Sys2Proof.Machine
end

