-- ==== Sys2Proof/Laws/Prog.lean ====
section
/-!
SUPPORT. Programs: how they run, and what follows for a run from what each primitive update keeps.
-/
namespace Sys2Proof.Machine
namespace Prog

/-! Running. -/

@[simp] theorem run_pure {α : Type} (a : α) (s : State) : (Prog.pure a).run s = (a, s) := rfl
@[simp] theorem run_get {α : Type} (k : State → Prog α) (s : State) : (Prog.get k).run s = (k s).run s := rfl
@[simp] theorem run_op {α : Type} (p : Prim) (k : Prog α) (s : State) : (Prog.op p k).run s = k.run (p.apply s) := rfl
@[simp] theorem run_act (p : Prim) (s : State) : (act p).run s = ((), p.apply s) := rfl
@[simp] theorem run_ask {α : Type} (f : State → α) (s : State) : (ask f).run s = (f s, s) := rfl
@[simp] theorem run_skip (s : State) : skip.run s = ((), s) := rfl

@[simp] theorem run_bind {α β : Type} (m : Prog α) (f : α → Prog β) (s : State) :
    (m.bind f).run s = (f (m.run s).1).run (m.run s).2 := by
  induction m generalizing s with
  | pure a => rfl
  | get k ih => exact ih s s
  | op p k ih => exact ih _

@[simp] theorem run_when (b : Bool) (p : Prog Unit) (s : State) :
    ((when b p).run s).2 = if b then (p.run s).2 else s := by
  cases b <;> rfl

@[simp] theorem run_each_nil {α : Type} (f : α → Prog Unit) (s : State) : ((each [] f).run s).2 = s := rfl
@[simp] theorem run_each_cons {α : Type} (x : α) (xs : List α) (f : α → Prog Unit) (s : State) :
    ((each (x :: xs) f).run s).2 = ((each xs f).run ((f x).run s).2).2 := by
  simp only [each, run_bind]

/-! Inductions over a run. -/

/-- What every update keeps, a run keeps. -/
theorem run_keeps {α : Type} (I : State → Prop) (h : ∀ p s, I s → I (Prim.apply p s)) (m : Prog α) (s : State) (hs : I s) :
    I (m.run s).2 := by
  induction m generalizing s with
  | pure a => exact hs
  | get k ih => exact ih s s hs
  | op p k ih => exact ih _ (h p s hs)

/-- A run leaves the queue of waiting commands alone. -/
@[simp] theorem run_pending {α : Type} (m : Prog α) (s : State) : (m.run s).2.pending = s.pending :=
  run_keeps (fun t => t.pending = s.pending) (fun p t h => (Prim.apply_pending p t).trans h) m s rfl

/-- The updates of a program satisfy a condition, whatever states it meets. -/
def Only {α : Type} (K : Prim → Prop) : Prog α → Prop
  | .pure _ => True
  | .get k => ∀ s, Only K (k s)
  | .op p k => K p ∧ Only K k

theorem only_pure {α : Type} (K : Prim → Prop) (a : α) : Only K (Prog.pure a) := trivial
theorem only_skip (K : Prim → Prop) : Only K skip := trivial
theorem only_act (K : Prim → Prop) (p : Prim) (h : K p) : Only K (act p) := ⟨h, trivial⟩
theorem only_ask {α : Type} (K : Prim → Prop) (f : State → α) : Only K (ask f) := fun _ => trivial
theorem only_get {α : Type} (K : Prim → Prop) (k : State → Prog α) (h : ∀ s, Only K (k s)) : Only K (.get k) := h

theorem only_bind {α β : Type} (K : Prim → Prop) (m : Prog α) (f : α → Prog β) (hm : Only K m) (hf : ∀ a, Only K (f a)) :
    Only K (m.bind f) := by
  induction m with
  | pure a => exact hf a
  | get k ih => exact fun s => ih s (hm s)
  | op p k ih => exact ⟨hm.1, ih hm.2⟩

theorem only_when (K : Prim → Prop) (b : Bool) (p : Prog Unit) (h : b = true → Only K p) : Only K (when b p) := by
  cases b with
  | true => exact h rfl
  | false => exact trivial

theorem only_each {α : Type} (K : Prim → Prop) (l : List α) (f : α → Prog Unit) (h : ∀ x, Only K (f x)) : Only K (each l f) := by
  induction l with
  | nil => exact trivial
  | cons x xs ih => exact only_bind K _ _ (h x) (fun _ => ih)

theorem only_collect {α β : Type} (K : Prim → Prop) (l : List α) (f : α → Prog β) (h : ∀ x, Only K (f x)) :
    Only K (collect l f) := by
  induction l with
  | nil => exact trivial
  | cons x xs ih => exact only_bind K _ _ (h x) (fun _ => only_bind K _ _ ih (fun _ => trivial))

theorem only_mono {α : Type} {K L : Prim → Prop} (hKL : ∀ p, K p → L p) (m : Prog α) (h : Only K m) : Only L m := by
  induction m with
  | pure a => exact trivial
  | get k ih => exact fun s => ih s (h s)
  | op p k ih => exact ⟨hKL p h.1, ih h.2⟩

/-- A run keeps what the updates of its program keep. -/
theorem only_run {α β : Type} (K : Prim → Prop) (g : State → β) (hK : ∀ p s, K p → g (p.apply s) = g s) (m : Prog α)
    (h : Only K m) (s : State) : g (m.run s).2 = g s := by
  induction m generalizing s with
  | pure a => rfl
  | get k ih => exact ih s (h s) s
  | op p k ih => exact (ih h.2 _).trans (hK p s h.1)

end Prog
end Sys2Proof.Machine
end

