-- ==== Sys2Proof/Laws/Memory.lean ====
section
/-!
SUPPORT. The three lists of State in their canonical forms: reads after writes, and that every update keeps the forms.
-/
namespace Sys2Proof.Machine

/-! Data bytes. -/

theorem Mem.get_put_same (a : Nat) (v : Byte) (l : List Host.Cell) (h : Mem.wf l = true) : Mem.get a (Mem.put a v l) = some v := by
  induction l with
  | nil =>
    by_cases hr : Mem.rest a = some v
    · simp [Mem.put, hr, Mem.get]
    · simp [Mem.put, hr, Mem.get]
  | cons c t ih =>
    obtain ⟨b, x⟩ := c
    simp only [Mem.wf, Bool.and_eq_true] at h
    by_cases h1 : a < b
    · by_cases hr : Mem.rest a = some v
      · have hne : a ≠ b := Nat.ne_of_lt h1
        have key : ∀ (t : List Host.Cell) (b : Nat), a < b →
            (match t with | [] => true | (c, _) :: _ => decide (b < c)) = true → Mem.wf t = true → Mem.get a t = Mem.rest a := by
          intro t
          induction t with
          | nil => intro b _ _ _; rfl
          | cons d u ihu =>
            intro b hb hd hw
            obtain ⟨c, y⟩ := d
            simp only [decide_eq_true_eq] at hd
            simp only [Mem.wf, Bool.and_eq_true] at hw
            have hc : a < c := Nat.lt_trans hb hd
            have hn : a ≠ c := Nat.ne_of_lt hc
            simp only [Mem.get, hn, if_false]
            exact ihu c hc hw.1.2 hw.2
        simp only [Mem.put, h1, if_true, hr, Mem.get, hne, if_false]
        rw [key t b h1 h.1.2 h.2, hr]
      · simp [Mem.put, h1, hr, Mem.get]
    · by_cases h2 : a = b
      · subst h2
        by_cases hr : Mem.rest a = some v
        · have key : ∀ (t : List Host.Cell) (b : Nat), a ≤ b →
              (match t with | [] => true | (c, _) :: _ => decide (b < c)) = true → Mem.wf t = true → Mem.get a t = Mem.rest a := by
            intro t
            induction t with
            | nil => intro b _ _ _; rfl
            | cons d u ihu =>
              intro b hb hd hw
              obtain ⟨c, y⟩ := d
              simp only [decide_eq_true_eq] at hd
              simp only [Mem.wf, Bool.and_eq_true] at hw
              have hc : a < c := Nat.lt_of_le_of_lt hb hd
              have hn : a ≠ c := Nat.ne_of_lt hc
              simp only [Mem.get, hn, if_false]
              exact ihu c (Nat.le_of_lt hc) hw.1.2 hw.2
          simp only [Mem.put, Nat.lt_irrefl, if_false, hr, if_true]
          rw [key t a (Nat.le_refl a) h.1.2 h.2, hr]
        · simp [Mem.put, hr, Mem.get]
      · simp only [Mem.put, h1, h2, if_false, Mem.get]
        exact ih h.2

theorem Mem.get_put_other (a b : Nat) (v : Byte) (l : List Host.Cell) (h : b ≠ a) : Mem.get b (Mem.put a v l) = Mem.get b l := by
  induction l with
  | nil =>
    by_cases hr : Mem.rest a = some v
    · simp [Mem.put, hr]
    · simp [Mem.put, hr, Mem.get, h]
  | cons c t ih =>
    obtain ⟨d, x⟩ := c
    simp only [Mem.put]
    split
    · split
      · rfl
      · simp [Mem.get, h]
    · split
      · rename_i h1 h2
        subst h2
        split
        · simp [Mem.get, h]
        · simp [Mem.get, h]
      · simp only [Mem.get]
        rw [ih]

/-- The first entry of a byte list after a write: the old first entry or the written offset. -/
theorem Mem.head_put (b a : Nat) (v : Byte) (t : List Host.Cell) (h : b < a)
    (ht : (match t with | [] => true | (c, _) :: _ => decide (b < c)) = true) (hw : Mem.wf t = true) :
    (match Mem.put a v t with | [] => true | (c, _) :: _ => decide (b < c)) = true := by
  cases t with
  | nil =>
    by_cases hr : Mem.rest a = some v
    · simp [Mem.put, hr]
    · simp [Mem.put, hr, h]
  | cons c u =>
    obtain ⟨c, y⟩ := c
    simp only [decide_eq_true_eq] at ht
    by_cases h1 : a < c
    · by_cases hr : Mem.rest a = some v
      · simpa only [Mem.put, h1, hr, if_true, decide_eq_true_eq] using ht
      · simpa only [Mem.put, h1, hr, if_true, if_false, decide_eq_true_eq] using h
    · by_cases h2 : a = c
      · by_cases hr : Mem.rest a = some v
        · subst h2
          simp only [Mem.put, Nat.lt_irrefl, if_false, hr, if_true]
          cases u with
          | nil => rfl
          | cons d w =>
            obtain ⟨d, z⟩ := d
            simp only [Mem.wf, Bool.and_eq_true, decide_eq_true_eq] at hw
            simp only [decide_eq_true_eq]
            exact Nat.lt_trans ht hw.1.2
        · subst h2
          simpa only [Mem.put, Nat.lt_irrefl, if_false, hr, if_true, decide_eq_true_eq] using ht
      · simpa only [Mem.put, h1, h2, if_false, decide_eq_true_eq] using ht

theorem Mem.put_wf (a : Nat) (v : Byte) (l : List Host.Cell) (h : Mem.wf l = true) : Mem.wf (Mem.put a v l) = true := by
  induction l with
  | nil =>
    by_cases hr : Mem.rest a = some v
    · simp [Mem.put, hr, Mem.wf]
    · simp [Mem.put, hr, Mem.wf]
  | cons c t ih =>
    obtain ⟨b, x⟩ := c
    have h' := h
    simp only [Mem.wf, Bool.and_eq_true] at h
    simp only [Mem.put]
    split
    · rename_i hlt
      split
      · exact h'
      · rename_i hr
        simp only [Mem.wf, Bool.and_eq_true, decide_eq_true_eq]
        exact ⟨⟨hr, hlt⟩, ⟨by simpa using h.1.1, h.1.2⟩, h.2⟩
    · rename_i hnl
      split
      · rename_i he
        subst he
        split
        · exact h.2
        · rename_i hr
          simp only [Mem.wf, Bool.and_eq_true, decide_eq_true_eq]
          exact ⟨⟨hr, h.1.2⟩, h.2⟩
      · rename_i hne
        have hlt : b < a := by omega
        simp only [Mem.wf, Bool.and_eq_true]
        exact ⟨⟨h.1.1, Mem.head_put b a v t hlt h.1.2 h.2⟩, ih h.2⟩

/-- Every entry of a canonical list lies above a bound of its first one. -/
theorem Mem.all_above (b : Nat) (l : List Host.Cell) (h : (match l with | [] => true | (c, _) :: _ => decide (b < c)) = true)
    (hw : Mem.wf l = true) : ∀ e ∈ l, b < e.1 := by
  induction l generalizing b with
  | nil => intro e he; cases he
  | cons c t ih =>
    obtain ⟨c, y⟩ := c
    simp only [decide_eq_true_eq] at h
    simp only [Mem.wf, Bool.and_eq_true] at hw
    intro e he
    cases he with
    | head => exact h
    | tail _ he => exact Nat.lt_trans h (ih c hw.1.2 hw.2 e he)

theorem Mem.filter_wf (f : Host.Cell → Bool) (l : List Host.Cell) (h : Mem.wf l = true) : Mem.wf (l.filter f) = true := by
  induction l with
  | nil => rfl
  | cons c t ih =>
    obtain ⟨b, x⟩ := c
    simp only [Mem.wf, Bool.and_eq_true] at h
    by_cases hf : f (b, x) = true
    · rw [List.filter_cons_of_pos hf]
      simp only [Mem.wf, Bool.and_eq_true]
      refine ⟨⟨h.1.1, ?_⟩, ih h.2⟩
      have hall := Mem.all_above b t h.1.2 h.2
      cases hs : t.filter f with
      | nil => rfl
      | cons d u =>
        have hd : d ∈ t := by
          have hm : d ∈ t.filter f := by rw [hs]; exact List.mem_cons_self ..
          exact (List.mem_filter.mp hm).1
        simpa using hall d hd
    · rw [List.filter_cons_of_neg hf]
      exact ih h.2

/-! Check patterns. -/

theorem Chk.get_put_other (a b : Nat) (e : BitVec 32) (l : List (Nat × BitVec 32)) (h : b ≠ a) :
    Chk.get b (Chk.put a e l) = Chk.get b l := by
  induction l with
  | nil =>
    by_cases hr : e = 0
    · simp only [Chk.put, hr, if_true]
    · simp only [Chk.put, hr, if_false, Chk.get, h]
  | cons c t ih =>
    obtain ⟨d, x⟩ := c
    simp only [Chk.put]
    split
    · split
      · rfl
      · simp [Chk.get, h]
    · split
      · rename_i h1 h2
        subst h2
        split <;> simp [Chk.get, h]
      · simp only [Chk.get]
        rw [ih]

theorem Chk.put_wf (a : Nat) (e : BitVec 32) (l : List (Nat × BitVec 32)) (h : Chk.wf l = true) : Chk.wf (Chk.put a e l) = true := by
  have head : ∀ (t : List (Nat × BitVec 32)) (b : Nat), b < a →
      (match t with | [] => true | (c, _) :: _ => decide (b < c)) = true → Chk.wf t = true →
      (match Chk.put a e t with | [] => true | (c, _) :: _ => decide (b < c)) = true := by
    intro t b hb ht hw
    cases t with
    | nil =>
      by_cases hr : e = 0
      · simp only [Chk.put, hr, if_true]
      · simpa only [Chk.put, hr, if_false, decide_eq_true_eq] using hb
    | cons c u =>
      obtain ⟨c, y⟩ := c
      simp only [decide_eq_true_eq] at ht
      by_cases h1 : a < c
      · by_cases hr : e = 0
        · simpa only [Chk.put, h1, hr, if_true, decide_eq_true_eq] using ht
        · simpa only [Chk.put, h1, hr, if_true, if_false, decide_eq_true_eq] using hb
      · by_cases h2 : a = c
        · by_cases hr : e = 0
          · subst h2
            simp only [Chk.put, Nat.lt_irrefl, hr, if_true, if_false]
            cases u with
            | nil => rfl
            | cons d w =>
              obtain ⟨d, z⟩ := d
              simp only [Chk.wf, Bool.and_eq_true, decide_eq_true_eq] at hw
              simp only [decide_eq_true_eq]
              exact Nat.lt_trans ht hw.1.2
          · subst h2
            simpa only [Chk.put, Nat.lt_irrefl, hr, if_true, if_false, decide_eq_true_eq] using ht
        · simpa only [Chk.put, h1, h2, if_false, decide_eq_true_eq] using ht
  induction l with
  | nil =>
    by_cases hr : e = 0
    · simp only [Chk.put, hr, if_true, Chk.wf]
    · simp only [Chk.put, hr, if_false, Chk.wf, ne_eq, not_false_eq_true, decide_true, Bool.and_self]
  | cons c t ih =>
    obtain ⟨b, x⟩ := c
    have h' := h
    simp only [Chk.wf, Bool.and_eq_true] at h
    simp only [Chk.put]
    split
    · rename_i hlt
      split
      · exact h'
      · rename_i hr
        simp only [Chk.wf, Bool.and_eq_true, decide_eq_true_eq]
        exact ⟨⟨hr, hlt⟩, ⟨by simpa using h.1.1, h.1.2⟩, h.2⟩
    · split
      · rename_i he
        subst he
        split
        · exact h.2
        · rename_i hr
          simp only [Chk.wf, Bool.and_eq_true, decide_eq_true_eq]
          exact ⟨⟨hr, h.1.2⟩, h.2⟩
      · have hlt : b < a := by omega
        simp only [Chk.wf, Bool.and_eq_true]
        exact ⟨⟨h.1.1, head t b hlt h.1.2 h.2⟩, ih h.2⟩

theorem Chk.filter_wf (f : Nat × BitVec 32 → Bool) (l : List (Nat × BitVec 32)) (h : Chk.wf l = true) :
    Chk.wf (l.filter f) = true := by
  have above : ∀ (l : List (Nat × BitVec 32)) (b : Nat), (match l with | [] => true | (c, _) :: _ => decide (b < c)) = true →
      Chk.wf l = true → ∀ e ∈ l, b < e.1 := by
    intro l
    induction l with
    | nil => intro b _ _ e he; cases he
    | cons c t ih =>
      obtain ⟨c, y⟩ := c
      intro b hb hw e he
      simp only [decide_eq_true_eq] at hb
      simp only [Chk.wf, Bool.and_eq_true] at hw
      cases he with
      | head => exact hb
      | tail _ he => exact Nat.lt_trans hb (ih c hw.1.2 hw.2 e he)
  induction l with
  | nil => rfl
  | cons c t ih =>
    obtain ⟨b, x⟩ := c
    simp only [Chk.wf, Bool.and_eq_true] at h
    by_cases hf : f (b, x) = true
    · rw [List.filter_cons_of_pos hf]
      simp only [Chk.wf, Bool.and_eq_true]
      refine ⟨⟨h.1.1, ?_⟩, ih h.2⟩
      cases hs : t.filter f with
      | nil => rfl
      | cons d u =>
        have hm : d ∈ t.filter f := by rw [hs]; exact List.mem_cons_self ..
        simpa using above t b h.1.2 h.2 d (List.mem_filter.mp hm).1
    · rw [List.filter_cons_of_neg hf]
      exact ih h.2

/-! Register words. -/

@[simp] theorem RegFile.get_put_same (k : RegKey) (v : Word) (l : List (RegKey × Word)) : RegFile.get k (RegFile.put k v l) = v := by
  induction l with
  | nil => simp [RegFile.put, RegFile.get]
  | cons c t ih =>
    obtain ⟨b, x⟩ := c
    simp only [RegFile.put]
    split
    · simp [RegFile.get]
    · split
      · simp [RegFile.get]
      · rename_i h1 _
        simp [RegFile.get, h1, ih]

theorem RegFile.get_put_other (k m : RegKey) (v : Word) (l : List (RegKey × Word)) (h : m ≠ k) :
    RegFile.get m (RegFile.put k v l) = RegFile.get m l := by
  induction l with
  | nil => simp [RegFile.put, RegFile.get, h]
  | cons c t ih =>
    obtain ⟨b, x⟩ := c
    simp only [RegFile.put]
    split
    · rename_i h1
      subst h1
      simp [RegFile.get, h]
    · split
      · simp [RegFile.get, h]
      · simp only [RegFile.get]
        rw [ih]

theorem RegFile.put_wf (k : RegKey) (v : Word) (l : List (RegKey × Word)) (h : RegFile.wf l = true) :
    RegFile.wf (RegFile.put k (v &&& BitVec.ofNat 64 k.reg.mask) l) = true := by
  have hk : ((v &&& BitVec.ofNat 64 k.reg.mask) &&& BitVec.ofNat 64 k.reg.mask == v &&& BitVec.ofNat 64 k.reg.mask) = true := by
    simp [BitVec.and_assoc]
  simp only [RegFile.wf] at h ⊢
  induction l with
  | nil => simp only [RegFile.put, List.all_cons, List.all_nil, Bool.and_true]; exact hk
  | cons c t ih =>
    obtain ⟨b, x⟩ := c
    simp only [List.all_cons, Bool.and_eq_true] at h
    simp only [RegFile.put]
    split
    · simp only [List.all_cons, Bool.and_eq_true]; exact ⟨hk, h.2⟩
    · split
      · simp only [List.all_cons, Bool.and_eq_true]; exact ⟨hk, h⟩
      · simp only [List.all_cons, Bool.and_eq_true]; exact ⟨h.1, ih h.2⟩

/-! Every update keeps a safe state safe. -/

theorem Prim.apply_safe (p : Prim) (s : State) (h : s.Safe) : (p.apply s).Safe := by
  obtain ⟨hm, hc, hr⟩ := h
  cases p with
  | byte a v => exact ⟨Mem.put_wf a v s.mem hm, hc, hr⟩
  | code g e => exact ⟨hm, Chk.put_wf g e s.chk hc, hr⟩
  | reg r i j v => exact ⟨hm, hc, RegFile.put_wf ⟨r, i, j⟩ v s.regs hr⟩
  | resetRegs l n =>
    refine ⟨hm, hc, ?_⟩
    simp only [RegFile.wf, List.all_eq_true] at hr ⊢
    intro e he
    exact hr e (List.mem_filter.mp he).1
  | forget lo hi => exact ⟨Mem.filter_wf _ s.mem hm, Chk.filter_wf _ s.chk hc, hr⟩
  | _ => exact ⟨hm, hc, hr⟩

theorem Prog.run_safe {α : Type} (m : Prog α) (s : State) (h : s.Safe) : (m.run s).2.Safe :=
  Prog.run_keeps State.Safe Prim.apply_safe m s h

end Sys2Proof.Machine
end

