-- ==== Sys2Proof/Laws/Ops.lean ====
section
/-!
SUPPORT. The shared operations over registers and events: what each reads back as, and which parts of State each can write.
-/
namespace Sys2Proof.Machine
open Prog hiding pure bind get op run monad

/-! Register words. -/

/-- An update of another part leaves every register word. -/
theorem Prim.keeps_reg (p : Prim) (s : State) (h : p.part ≠ .regs) (r : Reg) (i j : Nat) : (p.apply s).reg r i j = s.reg r i j := by
  simp only [State.reg, Prim.keeps_regs p s h]

theorem reg_apply_same (r : Reg) (i j : Nat) (v : Word) (s : State) :
    (Prim.apply (.reg r i j v) s).reg r i j = v.toNat &&& (r.mask % 2 ^ 64) := by
  simp [State.reg]

theorem reg_apply_other (r q : Reg) (i j k l : Nat) (v : Word) (s : State) (h : (⟨q, k, l⟩ : RegKey) ≠ ⟨r, i, j⟩) :
    (Prim.apply (.reg r i j v) s).reg q k l = s.reg q k l := by
  simp [State.reg, RegFile.get_put_other _ _ _ _ h]

@[simp] theorem run_setR (r : Reg) (i j v : Nat) (s : State) :
    ((setR r i j v).run s).2 = Prim.apply (.reg r i j (BitVec.ofNat 64 v)) s := rfl

@[simp] theorem run_setF (f : Field) (i j v : Nat) (s : State) :
    ((setF f i j v).run s).2 = Prim.apply (.reg f.reg i j (BitVec.ofNat 64 (setFld (s.reg f.reg i j) f.hi f.lo v))) s := rfl

/-- A field that lies in its register's word and that the register implements. -/
def Field.ok (f : Field) : Bool := decide (f.lo ≤ f.hi) && decide (f.hi < 64) && (fld f.reg.mask f.hi f.lo == 2 ^ (f.hi + 1 - f.lo) - 1)

/-- A field reads back as what was set, modulo its width. -/
theorem field_setF_same (f : Field) (i j v : Nat) (s : State) (h : f.ok = true) :
    ((setF f i j v).run s).2.field f i j = v % 2 ^ (f.hi + 1 - f.lo) := by
  simp only [Field.ok, Bool.and_eq_true, decide_eq_true_eq, beq_iff_eq] at h
  obtain ⟨⟨h1, h2⟩, h3⟩ := h
  rw [run_setF, State.field, reg_apply_same, BitVec.toNat_ofNat]
  rw [fld_and _ _ _ _ ((fld_mod64 _ _ _ h2).trans h3), fld_mod64 _ _ _ h2, fld_setFld_same _ _ _ _ h1]

/-- Fields of one word that do not meet. -/
def Field.apart (f g : Field) : Bool := f.reg != g.reg || decide (f.hi < g.lo) || decide (g.hi < f.lo)

/-- A field reads as before after another one was set: another word, or apart in the same word. -/
theorem field_setF_other (f g : Field) (i j k l v : Nat) (s : State) (hf : f.ok = true) (hg : g.ok = true)
    (h : (⟨g.reg, k, l⟩ : RegKey) ≠ ⟨f.reg, i, j⟩ ∨ (f.reg = g.reg ∧ f.apart g = true)) :
    ((setF f i j v).run s).2.field g k l = s.field g k l := by
  by_cases hk : (⟨g.reg, k, l⟩ : RegKey) = ⟨f.reg, i, j⟩
  · have hk' := hk
    injection hk with e1 e2 e3
    rcases h with h | h
    · exact absurd hk' h
    · simp only [Field.ok, Bool.and_eq_true, decide_eq_true_eq, beq_iff_eq] at hf hg
      obtain ⟨_, ha⟩ := h
      simp only [Field.apart, Bool.or_eq_true, decide_eq_true_eq, bne_iff_ne] at ha
      have hd : f.hi < g.lo ∨ g.hi < f.lo := by
        rcases ha with (ha | ha) | ha
        · exact absurd e1.symm ha
        · exact Or.inl ha
        · exact Or.inr ha
      subst e2 e3
      rw [run_setF, State.field, State.field, e1, reg_apply_same, BitVec.toNat_ofNat]
      rw [fld_and _ _ _ _ ((fld_mod64 _ _ _ hg.1.2).trans (e1 ▸ hg.2)), fld_mod64 _ _ _ hg.1.2,
        fld_setFld_other _ _ _ _ _ _ hf.1.1 hd]
  · rw [run_setF, State.field, State.field, reg_apply_other _ _ _ _ _ _ _ _ hk]

/-! Which parts an operation can write. -/

/-- The updates of a program write only parts of a list. -/
abbrev Writes {α : Type} (l : List Part) (m : Prog α) : Prop := Only (fun p => p.part ∈ l) m

theorem Writes.mono {α : Type} {l k : List Part} (h : ∀ x ∈ l, x ∈ k) {m : Prog α} (hm : Writes l m) : Writes k m :=
  only_mono (fun p hp => h p.part hp) m hm

theorem writes_setR (l : List Part) (r : Reg) (i j v : Nat) (h : Part.regs ∈ l) : Writes l (setR r i j v) := ⟨h, trivial⟩
theorem writes_setF (l : List Part) (f : Field) (i j v : Nat) (h : Part.regs ∈ l) : Writes l (setF f i j v) := fun _ => ⟨h, trivial⟩
theorem writes_incF (l : List Part) (f : Field) (i j n : Nat) (h : Part.regs ∈ l) : Writes l (incF f i j n) := fun _ _ => ⟨h, trivial⟩
theorem writes_addF (l : List Part) (f : Field) (i j n : Nat) (h : Part.regs ∈ l) : Writes l (addF f i j n) := fun _ _ => ⟨h, trivial⟩
theorem writes_emit (l : List Part) (o : Out) (h : Part.out ∈ l) : Writes l (emit o) := ⟨h, trivial⟩
theorem writes_fresh (l : List Part) (n : Nat) (h : Part.freeCtr ∈ l) : Writes l (fresh n) := fun _ => ⟨h, trivial⟩
theorem writes_modSite (l : List Part) (i : SiteId) (f : Site → Site) (h : Part.sites ∈ l) : Writes l (modSite i f) := fun _ => ⟨h, trivial⟩
theorem writes_modObs (l : List Part) (f : Obs → Obs) (h : Part.obs ∈ l) : Writes l (modObs f) := fun _ => ⟨h, trivial⟩

theorem writes_sendVector (l : List Part) (v : Nat) (h : Part.regs ∈ l) (h' : Part.out ∈ l) : Writes l (sendVector v) := by
  intro s
  dsimp only
  split
  · exact ⟨h, trivial⟩
  · exact ⟨h', trivial⟩

theorem writes_raise (l : List Part) (v : Nat) (h : Part.regs ∈ l) (h' : Part.out ∈ l) : Writes l (raise v) := fun _ =>
  only_bind _ _ _ (writes_setR l _ _ _ _ h) (fun _ => only_when _ _ _ (fun _ => writes_sendVector l v h h'))

theorem writes_raiseSite (l : List Part) (i : SiteId) (h : Part.regs ∈ l) (h' : Part.out ∈ l) : Writes l (raiseSite i) := fun _ =>
  only_bind _ _ _ (writes_setR l _ _ _ _ h) (fun _ => only_when _ _ _ (fun _ => writes_sendVector l _ h h'))

theorem writes_traceEvent (l : List Part) (type kind num engine layer oper w2 w3 : Nat) (h : Part.obs ∈ l) :
    Writes l (traceEvent type kind num engine layer oper w2 w3) := fun _ => only_when _ _ _ (fun _ => writes_modObs l _ h)

theorem writes_hushTrigger (l : List Part) (cause : Nat) (h : Part.regs ∈ l) (h' : Part.obs ∈ l) (hf : Part.freeCtr ∈ l) :
    Writes l (hushTrigger cause) := fun _ =>
  only_when _ _ _ (fun _ => only_bind _ _ _ (writes_modObs l _ h') (fun _ => only_bind _ _ _ (only_act _ _ hf) (fun _ => only_bind _ _ _ (writes_setF l _ _ _ _ h) (fun _ => only_bind _ _ _ (writes_setF l _ _ _ _ h)
    (fun _ => only_bind _ _ _ (writes_setR l _ _ _ _ h) (fun _ => writes_traceEvent l _ _ _ _ _ _ _ _ h'))))))

theorem writes_mgtAlert (l : List Part) (f : Field) (h : Part.regs ∈ l) (h' : Part.out ∈ l) : Writes l (mgtAlert f) := fun _ =>
  only_bind _ _ _ (writes_setF l _ _ _ _ h) (fun _ => only_get _ _ (fun _ => only_when _ _ _ (fun _ => writes_emit l _ h')))

/-- Records, interrupts and trace events write registers, trace buffers and messages, and nothing else; a record that triggers Hush draws
the free values that the device's counters then hold. -/
def logParts : List Part := [.regs, .obs, .out, .freeCtr]

theorem writes_faultRecord (kind detail : Nat) (w : Where) : Writes logParts (faultRecord kind detail w) := by
  refine only_bind _ _ _ (only_ask _ _) (fun s => ?_)
  have hj : Writes logParts (when (kind == 1 && s.flag F.TRC_HUSH_CTRL.ON_UE 0 0) (hushTrigger 2)) :=
    only_when _ _ _ (fun _ => writes_hushTrigger _ _ (by decide) (by decide) (by decide))
  dsimp only
  split
  · exact writes_incF _ _ _ _ _ (by decide)
  · refine only_bind _ _ _ (writes_setR _ _ _ _ _ (by decide)) (fun _ => ?_)
    refine only_bind _ _ _ (writes_setR _ _ _ _ _ (by decide)) (fun _ => ?_)
    refine only_bind _ _ _ (writes_setR _ _ _ _ _ (by decide)) (fun _ => ?_)
    refine only_bind _ _ _ (writes_setR _ _ _ _ _ (by decide)) (fun _ => ?_)
    refine only_bind _ _ _ (writes_setF _ _ _ _ _ (by decide)) (fun _ => ?_)
    refine only_bind _ _ _ (writes_traceEvent _ _ _ _ _ _ _ _ _ (by decide)) (fun _ => ?_)
    exact only_bind _ _ _ (writes_mgtAlert _ _ (by decide) (by decide)) (fun _ => hj)

theorem writes_errorBit (l : List Part) (f : Field) (i j : Nat) (h : Part.regs ∈ l) (h' : Part.out ∈ l) : Writes l (errorBit f i j) := fun _ =>
  only_when _ _ _ (fun _ => only_bind _ _ _ (writes_setF l _ _ _ _ h) (fun _ => writes_raise l _ h h'))

theorem writes_nocError (f : Field) (stop : Nat) : Writes logParts (nocError f stop) :=
  only_bind _ _ _ (writes_errorBit _ _ _ _ (by decide) (by decide)) (fun _ => writes_setF _ _ _ _ _ (by decide))

theorem writes_nocDrop (f : Field) (stop : Nat) : Writes logParts (nocDrop f stop) :=
  only_bind _ _ _ (writes_nocError f stop) (fun _ => writes_incF _ _ _ _ _ (by decide))

theorem writes_fabError (f : Field) : Writes logParts (fabError f) := writes_errorBit _ _ _ _ (by decide) (by decide)

theorem writes_fabDrop (f : Field) : Writes logParts (fabDrop f) :=
  only_bind _ _ _ (writes_fabError f) (fun _ => writes_incF _ _ _ _ _ (by decide))

theorem writes_coreError (i : SiteId) (kind : Nat) (w : IWord) (slot pc : Nat) : Writes logParts (coreError i kind w slot pc) := by
  refine only_bind _ _ _ (only_ask _ _) (fun s => ?_)
  have hj : Writes logParts (raiseSite i) := writes_raiseSite _ _ (by decide) (by decide)
  dsimp only
  split
  · exact only_bind _ _ _ (writes_incF _ _ _ _ _ (by decide)) (fun _ => hj)
  · refine only_bind _ _ _ (writes_setR _ _ _ _ _ (by decide)) (fun _ => ?_)
    refine only_bind _ _ _ (writes_setR _ _ _ _ _ (by decide)) (fun _ => ?_)
    exact only_bind _ _ _ (writes_setR _ _ _ _ _ (by decide)) (fun _ => hj)

theorem writes_haltCore (i : SiteId) (cause layer oper : Nat) : Writes logParts (haltCore i cause layer oper) := by
  refine only_bind _ _ _ (writes_setR _ _ _ _ _ (by decide)) (fun _ => ?_)
  refine only_bind _ _ _ (only_ask _ _) (fun pc => ?_)
  exact only_bind _ _ _ (writes_traceEvent _ _ _ _ _ _ _ _ _ (by decide)) (fun _ => writes_raiseSite _ _ (by decide) (by decide))

/-! Memory after programs that write none of it. -/

theorem mem_of_writes {α : Type} (l : List Part) (m : Prog α) (h : Writes l m) (hl : Part.mem ∉ l ∧ Part.memory ∉ l) (s : State) :
    (m.run s).2.mem = s.mem :=
  only_run _ (·.mem) (fun p t hp => Prim.keeps_mem p t ⟨fun e => hl.1 (e ▸ hp), fun e => hl.2 (e ▸ hp)⟩) m h s

theorem chk_of_writes {α : Type} (l : List Part) (m : Prog α) (h : Writes l m) (hl : Part.chk ∉ l ∧ Part.memory ∉ l) (s : State) :
    (m.run s).2.chk = s.chk :=
  only_run _ (·.chk) (fun p t hp => Prim.keeps_chk p t ⟨fun e => hl.1 (e ▸ hp), fun e => hl.2 (e ▸ hp)⟩) m h s

theorem sites_of_writes {α : Type} (l : List Part) (m : Prog α) (h : Writes l m) (hl : Part.sites ∉ l) (s : State) :
    (m.run s).2.sites = s.sites :=
  only_run _ (·.sites) (fun p t hp => Prim.keeps_sites p t (fun e => hl (e ▸ hp))) m h s

end Sys2Proof.Machine
end

