-- ==== Sys2Proof/Laws/Issue.lean ====
section
/-!
SUPPORT. Issue: what an attempt does where the instruction issues, waits, or the core is held; which registers programs touch.
-/
namespace Sys2Proof.Machine
open Prog hiding pure bind get op run monad

/-! Registers that a program touches. -/

/-- An update that writes only register words that `b` names, if any. -/
def Prim.inRegs (b : RegKey → Bool) : Prim → Prop
  | .reg r i j _ => b ⟨r, i, j⟩ = true
  | .resetRegs _ _ => False
  | _ => True

/-- The updates of a program write only register words that `b` names. -/
abbrev InRegs {α : Type} (b : RegKey → Bool) (m : Prog α) : Prop := Only (Prim.inRegs b) m

theorem Prim.sameRegs (b : RegKey → Bool) (p : Prim) (s : State) (h : p.inRegs b) (k : RegKey) (hk : b k = false) :
    RegFile.get k (p.apply s).regs = RegFile.get k s.regs := by
  cases p with
  | reg r i j v =>
    refine RegFile.get_put_other _ _ _ _ ?_
    rintro rfl
    simp [Prim.inRegs, hk] at h
  | resetRegs l n => exact h.elim
  | _ => rfl

theorem sameRegs_of_inRegs {α : Type} (b : RegKey → Bool) (m : Prog α) (h : InRegs b m) (s : State) : SameRegs b s (m.run s).2 := by
  intro k hk
  exact only_run _ (fun t => RegFile.get k t.regs) (fun p t hp => Prim.sameRegs b p t hp k hk) m h s

theorem InRegs.mono {α : Type} {b c : RegKey → Bool} (h : ∀ k, b k = true → c k = true) {m : Prog α} (hm : InRegs b m) : InRegs c m :=
  only_mono (fun p hp => by cases p <;> first | exact h _ hp | exact hp) m hm

theorem inRegs_setR (b : RegKey → Bool) (r : Reg) (i j v : Nat) (h : b ⟨r, i, j⟩ = true) : InRegs b (setR r i j v) := ⟨h, trivial⟩
theorem inRegs_setF (b : RegKey → Bool) (f : Field) (i j v : Nat) (h : b ⟨f.reg, i, j⟩ = true) : InRegs b (setF f i j v) := fun _ => ⟨h, trivial⟩
theorem inRegs_fresh (b : RegKey → Bool) (n : Nat) : InRegs b (fresh n) := fun _ => ⟨trivial, trivial⟩
theorem inRegs_modSite (b : RegKey → Bool) (i : SiteId) (f : Site → Site) : InRegs b (modSite i f) := fun _ => ⟨trivial, trivial⟩
theorem inRegs_traceEvent (b : RegKey → Bool) (type kind num engine layer oper w2 w3 : Nat) :
    InRegs b (traceEvent type kind num engine layer oper w2 w3) := fun _ => only_when _ _ _ (fun _ => fun _ => ⟨trivial, trivial⟩)

/-- A program that writes only parts of a list leaves every other part. -/
theorem sameBut_of_writes {α : Type} (l : List Part) (hl : Part.memory ∉ l) (m : Prog α) (h : Writes l m) (s : State) :
    SameBut l s (m.run s).2 := by
  refine ⟨fun p hp => ?_, Prog.run_pending m s⟩
  have hk (q : Prim) (t : State) (hq : q.part ∈ l) : Part.same t (q.apply t) p := by
    have hne : q.part ≠ p := fun e => hp (e ▸ hq)
    have hm : q.part ≠ .memory := fun e => hl (e ▸ hq)
    cases p <;> cases q <;> first | rfl | exact trivial | simp_all [Prim.part]
  have : ∀ (n : Prog α) (t : State), Only (fun q => q.part ∈ l) n → Part.same t (n.run t).2 p := by
    intro n
    induction n with
    | pure a => intro t _; cases p <;> first | rfl | exact trivial
    | get k ih => intro t hn; exact ih t t (hn t)
    | op q k ih =>
      intro t hn
      have h1 := hk q t hn.1
      have h2 := ih (q.apply t) hn.2
      revert h1 h2
      simp only [Prog.run_op]
      generalize (k.run (q.apply t)).2 = u
      generalize q.apply t = v
      intro h1 h2
      cases p <;> first | exact h2.trans h1 | exact trivial
  exact this m s h

/-! Issue. -/

theorem writes_addPeer (i : SiteId) : Writes issueParts (addPeer i) := by
  refine only_bind _ _ _ (only_ask _ _) (fun s => ?_)
  refine only_bind _ _ _ (writes_fresh _ _ (by decide)) (fun cyc => ?_)
  dsimp only
  split <;> exact writes_setR issueParts _ _ _ _ (by decide)

theorem inRegs_addPeer (i : SiteId) : InRegs (issueReg i) (addPeer i) := by
  refine only_bind _ _ _ (only_ask _ _) (fun s => ?_)
  refine only_bind _ _ _ (inRegs_fresh _ _) (fun cyc => ?_)
  dsimp only
  split <;> exact inRegs_setR (issueReg i) _ _ _ _ (by simp [issueReg])

theorem writes_endWait (i : SiteId) (w : IWord) : Writes issueParts (endWait i w) := by
  refine only_bind _ _ _ (only_ask _ _) (fun s => only_when _ _ _ (fun _ => ?_))
  refine only_bind _ _ _ (writes_addPeer i) (fun _ => ?_)
  refine only_bind _ _ _ (writes_fresh _ _ (by decide)) (fun _ => ?_)
  exact only_bind _ _ _ (writes_setR issueParts _ _ _ _ (by decide)) (fun _ => writes_traceEvent issueParts _ _ _ _ _ _ _ _ (by decide))

theorem inRegs_endWait (i : SiteId) (w : IWord) : InRegs (issueReg i) (endWait i w) := by
  refine only_bind _ _ _ (only_ask _ _) (fun s => only_when _ _ _ (fun _ => ?_))
  refine only_bind _ _ _ (inRegs_addPeer i) (fun _ => ?_)
  refine only_bind _ _ _ (inRegs_fresh _ _) (fun _ => ?_)
  exact only_bind _ _ _ (inRegs_setR (issueReg i) _ _ _ _ (by simp [issueReg])) (fun _ => inRegs_traceEvent (issueReg i) _ _ _ _ _ _ _ _)

theorem writes_tagSet (i : SiteId) (c : Nat) (w : IWord) : Writes issueParts (tagSet i c w) := by
  unfold tagSet
  dsimp only
  split
  · exact fun _ => writes_setR _ _ _ _ _ (by decide)
  · split <;> exact fun _ => writes_setR _ _ _ _ _ (by decide)

/-- The sequencer's own tags. -/
theorem inRegs_tagSet (i : SiteId) (w : IWord) : InRegs (issueReg i) (tagSet i 0 w) :=
  fun _ => inRegs_setR _ _ _ _ _ (by simp [issueReg])

theorem writes_tagIssue (i : SiteId) (w : IWord) : Writes issueParts (tagIssue i w) := by
  unfold tagIssue
  split
  · exact trivial
  · exact writes_tagSet i 0 w

theorem inRegs_tagIssue (i : SiteId) (w : IWord) : InRegs (issueReg i) (tagIssue i w) := by
  unfold tagIssue
  split
  · exact trivial
  · exact inRegs_tagSet i w

theorem issued_sameBut (s : State) (i : SiteId) (w : IWord) (pc : Nat) : SameBut issueParts s (s.issued i w pc) :=
  sameBut_of_writes _ (by decide) _ (only_bind _ _ _ (writes_endWait i w) (fun _ => only_bind _ _ _ (writes_tagIssue i w)
    (fun _ => writes_setR _ _ _ _ _ (by decide)))) s

theorem issued_sameRegs (s : State) (i : SiteId) (w : IWord) (pc : Nat) : SameRegs (issueReg i) s (s.issued i w pc) :=
  sameRegs_of_inRegs _ _ (only_bind _ _ _ (inRegs_endWait i w) (fun _ => only_bind _ _ _ (inRegs_tagIssue i w)
    (fun _ => inRegs_setR _ _ _ _ _ (by simp [issueReg])))) s

theorem issued_pc (s : State) (i : SiteId) (w : IWord) (pc : Nat) :
    (s.issued i w pc).reg .CORE_SEQ_PC i 0 = ((pc + 16) % 2 ^ 64) &&& 0xFFFFFFFFFFFFFFF0 := by
  simp only [State.issued, run_bind, run_setR, reg_apply_same]
  simp [Reg.mask]

theorem pc_next (pc : Nat) : fld (((pc + 16) % 2 ^ 64) &&& 0xFFFFFFFFFFFFFFF0) 63 4 = (fld pc 63 4 + 1) % 2 ^ 60 := by
  have h : ((pc + 16) % 2 ^ 64) &&& 0xFFFFFFFFFFFFFFF0 = (pc + 16) % 2 ^ 64 / 16 * 16 := by
    have e : (0xFFFFFFFFFFFFFFF0 : Nat) = (2 ^ 60 - 1) <<< 4 := by decide
    apply Nat.eq_of_testBit_eq
    intro k
    rw [Nat.testBit_and, e, Nat.testBit_shiftLeft, Nat.testBit_two_pow_sub_one]
    have e2 : (pc + 16) % 2 ^ 64 / 16 * 16 = ((pc + 16) % 2 ^ 64) >>> 4 <<< 4 := by
      rw [Nat.shiftRight_eq_div_pow, Nat.shiftLeft_eq]
    rw [e2, Nat.testBit_shiftLeft, Nat.testBit_shiftRight]
    by_cases hk : 4 ≤ k
    · have : 4 + (k - 4) = k := by omega
      rw [this]
      by_cases hb : k < 64
      · simp [hk]; omega
      · have : ((pc + 16) % 2 ^ 64).testBit k = false := Nat.testBit_lt_two_pow (Nat.lt_of_lt_of_le (Nat.mod_lt _ (by decide)) (Nat.pow_le_pow_right (by decide) (by omega)))
        rw [this]
        simp
    · simp [hk]
  rw [h]
  simp only [fld, Nat.shiftRight_eq_div_pow]
  omega

/-- An attempt, as the state decides it. -/
theorem attempt_eq (i : SiteId) (w : IWord) (before : Prog Unit) (blocked : State → Option (Option WaitOn)) (body : Nat → Prog Unit) (s : State) :
    (attempt i w before blocked body).run s =
      (when (s.canIssue i) ((ready i (s.reg .CORE_SEQ_PC i 0)).bind (fun failed =>
        if failed then fetchFault i (s.reg .CORE_SEQ_PC i 0) else issueNow i w before blocked body))).run s := rfl

/-- An issue, as the state decides it. -/
theorem issueNow_eq (i : SiteId) (w : IWord) (before : Prog Unit) (blocked : State → Option (Option WaitOn)) (body : Nat → Prog Unit) (s : State) :
    (issueNow i w before blocked body).run s =
      (if s.takeWait i w then skip
       else before.bind (fun _ => .get (fun s1 => match blocked s1 with
         | some b => holdWait i w b
         | none => (endWait i w).bind (fun _ => (tagIssue i w).bind (fun _ =>
             (setR .CORE_SEQ_PC i 0 ((s.reg .CORE_SEQ_PC i 0 + 16) % 2 ^ 64)).bind (fun _ => body (s.reg .CORE_SEQ_PC i 0))))))).run s := rfl

theorem issues_iff (s : State) (i : SiteId) (w : IWord) : s.issues i w = true ↔
    s.canIssue i = true ∧ s.sites[i].buffer.contains (s.reg .CORE_SEQ_PC i 0) = true ∧ s.takeWait i w = false := by
  simp only [State.issues, Bool.and_eq_true, Bool.not_eq_true', and_assoc]

/-- An instruction that stands in the buffer is ready, and nothing is fetched. -/
theorem ready_buffered (i : SiteId) (pc : Nat) (s : State) (h : s.sites[i].buffer.contains pc = true) : (ready i pc).run s = (false, s) := by
  simp only [ready, run_get, h, if_true, run_pure]

/-- An attempt where the instruction stands in the buffer. -/
theorem attempt_buffered (i : SiteId) (w : IWord) (before : Prog Unit) (blocked : State → Option (Option WaitOn)) (body : Nat → Prog Unit)
    (s : State) (h1 : s.canIssue i = true) (h2 : s.sites[i].buffer.contains (s.reg .CORE_SEQ_PC i 0) = true) :
    (attempt i w before blocked body).run s = (issueNow i w before blocked body).run s := by
  rw [attempt_eq, h1]
  simp only [when, if_true, run_bind, ready_buffered i _ s h2, Bool.false_eq_true, if_false]

/-- Where an instruction issues and nothing blocks it, its own effect acts on the issued state. -/
theorem attempt_run (i : SiteId) (w : IWord) (before : Prog Unit) (blocked : State → Option (Option WaitOn)) (body : Nat → Prog Unit) (s : State)
    (h : s.issues i w = true) (hb : blocked (before.run s).2 = none) :
    (attempt i w before blocked body).run s =
      (body (s.reg .CORE_SEQ_PC i 0)).run ((before.run s).2.issued i w (s.reg .CORE_SEQ_PC i 0)) := by
  obtain ⟨h1, h2, h3⟩ := (issues_iff s i w).1 h
  rw [attempt_buffered i w before blocked body s h1 h2, issueNow_eq, h3]
  simp only [Bool.false_eq_true, if_false, run_bind, run_get, hb, State.issued]

/-- Where an instruction issues and something blocks it, it waits: nothing but what comes before and the name of the wait. -/
theorem attempt_blocked (i : SiteId) (w : IWord) (before : Prog Unit) (blocked : State → Option (Option WaitOn)) (body : Nat → Prog Unit) (s : State)
    (h : s.issues i w = true) (b : Option WaitOn) (hb : blocked (before.run s).2 = some b) :
    (attempt i w before blocked body).run s = (holdWait i w b).run (before.run s).2 := by
  obtain ⟨h1, h2, h3⟩ := (issues_iff s i w).1 h
  rw [attempt_buffered i w before blocked body s h1 h2, issueNow_eq, h3]
  simp only [Bool.false_eq_true, if_false, run_bind, run_get, hb]

/-- Where a core cannot issue, an attempt does nothing. -/
theorem attempt_idle (i : SiteId) (w : IWord) (before : Prog Unit) (blocked : State → Option (Option WaitOn)) (body : Nat → Prog Unit) (s : State)
    (h : s.canIssue i = false) : (attempt i w before blocked body).run s = ((), s) := by
  rw [attempt_eq, h]
  rfl

/-- The sequencer's own instructions: their effect on the issued state. -/
theorem sequenced_run (i : SiteId) (w : IWord) (body : Nat → Prog Unit) (s : State) (h : s.issues i w = true) :
    (sequenced i w body).run s = (body (s.reg .CORE_SEQ_PC i 0)).run (s.issued i w (s.reg .CORE_SEQ_PC i 0)) := by
  exact attempt_run i w skip never body s h rfl

end Sys2Proof.Machine
end

