-- ==== Sys2Proof/Laws/Frames.lean ====
section
/-!
SUPPORT. Frames: how what is left alone composes over programs, and the frames of the shared operations.
-/
namespace Sys2Proof.Machine
open Prog hiding pure bind get op run monad

theorem SameRegs.trans {a b : RegKey → Bool} {s t u : State} (h1 : SameRegs a s t) (h2 : SameRegs b t u) :
    SameRegs (fun k => a k || b k) s u := by
  intro k hk
  simp only [Bool.or_eq_false_iff] at hk
  exact (h2 k hk.2).trans (h1 k hk.1)
theorem SameRegs.mono {a b : RegKey → Bool} {s t : State} (h : SameRegs a s t) (hab : ∀ k, a k = true → b k = true) : SameRegs b s t := by
  intro k hk
  refine h k ?_
  cases ha : a k with
  | false => rfl
  | true => rw [hab k ha] at hk; cases hk
theorem Part.same_trans {s t u : State} (p : Part) (h1 : Part.same s t p) (h2 : Part.same t u p) : Part.same s u p := by
  cases p <;> first | exact h2.trans h1 | exact trivial
theorem SameBut.trans {a b c : List Part} {s t u : State} (h1 : SameBut a s t) (h2 : SameBut b t u)
    (ha : ∀ p ∈ a, p ∈ c) (hb : ∀ p ∈ b, p ∈ c) : SameBut c s u :=
  ⟨fun p hp => Part.same_trans p (h1.1 p (fun h => hp (ha p h))) (h2.1 p (fun h => hp (hb p h))), h2.2.trans h1.2⟩

theorem SameRegs.reg {b : RegKey → Bool} {s t : State} (h : SameRegs b s t) (r : Reg) (i j : Nat) (hb : b ⟨r, i, j⟩ = false) : t.reg r i j = s.reg r i j := by
  simp only [State.reg, h _ hb]
theorem SameRegs.field {b : RegKey → Bool} {s t : State} (h : SameRegs b s t) (f : Field) (i j : Nat) (hb : b ⟨f.reg, i, j⟩ = false) : t.field f i j = s.field f i j := by
  simp only [State.field, h.reg _ _ _ hb]


theorem SameRegs.refl (b : RegKey → Bool) (s : State) : SameRegs b s s := fun _ _ => rfl
theorem SameBut.refl (l : List Part) (s : State) : SameBut l s s := ⟨fun p _ => by cases p <;> first | rfl | trivial, rfl⟩
theorem SameBut.mono {a b : List Part} {s t : State} (h : SameBut a s t) (hab : ∀ p ∈ a, p ∈ b) : SameBut b s t :=
  ⟨fun p hp => h.1 p (fun h' => hp (hab p h')), h.2⟩

theorem setR_regs (r : Reg) (i j v : Nat) (s : State) : SameRegs (fun k => k == ⟨r, i, j⟩) s ((setR r i j v).run s).2 :=
  sameRegs_of_inRegs _ _ (inRegs_setR _ _ _ _ _ (by simp)) s
theorem setR_but (r : Reg) (i j v : Nat) (s : State) : SameBut [.regs] s ((setR r i j v).run s).2 :=
  sameBut_of_writes _ (by decide) _ (writes_setR _ _ _ _ _ (by decide)) s
theorem setF_regs (f : Field) (i j v : Nat) (s : State) (r : Reg) (h : f.reg = r) :
    SameRegs (fun k => k == ⟨r, i, j⟩) s ((setF f i j v).run s).2 := by
  subst h
  exact sameRegs_of_inRegs _ _ (inRegs_setF _ _ _ _ _ (by simp)) s
theorem setF_but (f : Field) (i j v : Nat) (s : State) : SameBut [.regs] s ((setF f i j v).run s).2 :=
  sameBut_of_writes _ (by decide) _ (writes_setF _ _ _ _ _ (by decide)) s
theorem modSite_but (i : SiteId) (f : Site → Site) (s : State) : SameBut [.sites] s ((modSite i f).run s).2 :=
  sameBut_of_writes _ (by decide) _ (writes_modSite _ _ _ (by decide)) s
@[simp] theorem modSite_same (i : SiteId) (f : Site → Site) (s : State) : ((modSite i f).run s).2.sites[i] = f s.sites[i] := by
  show (s.sites.set i (f s.sites[i]))[i] = _
  simp
theorem modSite_sites (i : SiteId) (f : Site → Site) (s : State) : SameSites i s ((modSite i f).run s).2 := by
  intro j hj
  have hne : (i : Nat) ≠ j := fun e => hj (Fin.ext e.symm)
  show (s.sites.set i (f s.sites[i]))[j] = _
  simp [hne]

theorem advances_issued (s : State) (i : SiteId) (w : IWord) : Advances i s (s.issued i w (s.reg .CORE_SEQ_PC i 0)) := by
  show fld _ 63 4 = _
  show fld ((s.issued i w (s.reg .CORE_SEQ_PC i 0)).reg .CORE_SEQ_PC i 0) 63 4 = _
  rw [issued_pc, pc_next]; rfl

/-- The pc advances also where a field of another register is set after issue. -/
theorem advances_setF (s : State) (i : SiteId) (w : IWord) (f : Field) (j k v : Nat) (hf : f.reg ≠ .CORE_SEQ_PC) :
    Advances i s ((setF f j k v).run (s.issued i w (s.reg .CORE_SEQ_PC i 0))).2 := by
  have h1 := advances_issued s i w
  unfold Advances at *
  rw [SameRegs.field (setF_regs f j k v _ _ rfl) F.CORE_SEQ_PC.ADDR i 0 (by simp [F.CORE_SEQ_PC.ADDR, Ne.symm hf])]
  exact h1

/-! Tile registers. -/

theorem setTile_same (i : SiteId) (n v : Nat) (s : State) : ((setTile i n v).run s).2.tileReg i n = v % 2 ^ 32 := by
  simp only [setTile, State.tileReg]
  split
  · rw [field_setF_same _ _ _ _ _ (by decide)]; rfl
  · rw [field_setF_same _ _ _ _ _ (by decide)]; rfl
theorem setTile_other (i : SiteId) (n m v : Nat) (s : State) (h : m ≠ n) : ((setTile i n v).run s).2.tileReg i m = s.tileReg i m := by
  simp only [setTile, State.tileReg]
  by_cases hd : m / 2 = n / 2
  · split <;> split
    · omega
    · rw [field_setF_other F.CORE_TILE_REGS.HIGH F.CORE_TILE_REGS.LOW _ _ _ _ _ _ (by decide) (by decide) (Or.inr (by decide))]
    · rw [field_setF_other F.CORE_TILE_REGS.LOW F.CORE_TILE_REGS.HIGH _ _ _ _ _ _ (by decide) (by decide) (Or.inr (by decide))]
    · omega
  · split <;> split <;>
    · rw [field_setF_other _ _ _ _ _ _ _ _ (by decide) (by decide) (Or.inl (by simp [F.CORE_TILE_REGS.LOW, F.CORE_TILE_REGS.HIGH, hd]))]
theorem setTile_regs (i : SiteId) (n v : Nat) (s : State) : SameRegs (fun k => k == ⟨.CORE_TILE_REGS, i, n / 2⟩) s ((setTile i n v).run s).2 := by
  simp only [setTile]; split <;> exact setF_regs _ _ _ _ _ _ rfl
theorem setTile_but (i : SiteId) (n v : Nat) (s : State) : SameBut [.regs] s ((setTile i n v).run s).2 := by
  simp only [setTile]; split <;> exact setF_but _ _ _ _ _
theorem tileReg_same {b : RegKey → Bool} {s t : State} (h : SameRegs b s t) (i : SiteId) (n : Nat) (hb : b ⟨.CORE_TILE_REGS, i, n / 2⟩ = false) : t.tileReg i n = s.tileReg i n := by
  simp only [State.tileReg]
  rw [h.field F.CORE_TILE_REGS.LOW _ _ hb, h.field F.CORE_TILE_REGS.HIGH _ _ hb]


end Sys2Proof.Machine
end

