-- ==== Sys2Proof/Tests/Slice0.lean ====
section
/-!
SUPPORT. Tests: ill-formed commands that WellFormed refuses; values that the spec works out; commands whose outcome was worked out by
hand from their rules; and, for each obligation with hypotheses, states and operands that meet them (`witness_<Name>`).
-/
namespace Sys2Proof.Tests
open Sys2Proof Sys2Proof.Machine
set_option Elab.async false
set_option maxRecDepth 200000
set_option exponentiation.threshold 2100

def regsOf (l : List (Reg × Nat × Nat × Nat)) : List (RegKey × Word) :=
  l.foldl (fun r e => RegFile.put ⟨e.1, e.2.1, e.2.2.1⟩ (BitVec.ofNat 64 e.2.2.2) r) []
/-- The host's accesses enabled. -/
def open' : HostIf := { linkUp := true, memEn := true }
/-- The device ready, with registers set. -/
def ready (l : List (Reg × Nat × Nat × Nat)) : State := { State.reset with regs := regsOf ((.RST_PHASE, 0, 0, 9) :: l), host := open' }
/-- The same without a link to the host. -/
def down (s : State) : State := { s with host := {} }
/-- Site 0 in a state, the instruction at its core's pc in its instruction buffer. -/
def withSite (s : State) (x : Site) : State := { s with sites := s.sites.set 0 { x with buffer := [0] } }
/-- The same with core 0 running on site 0, which holds it. -/
def run0 (l : List (Reg × Nat × Nat × Nat)) : State := withSite (ready ((.CORE_SEQ_STATUS, 0, 0, 1) :: (.TOP_CORE_MAP, 0, 0, 0) :: l)) {}
/-- Every seam channel without lock. -/
def cut (s : State) : State := { s with noc := { s.noc with seams := (List.range 32).map (fun k => (k / 8, k % 8)) } }
/-- An instruction word: an opcode and the rest. -/
def iw (op : Nat) (rest : Nat := 0) : IWord := BitVec.ofNat 128 (op * 2 ^ 120 + rest)
def fl (u : CoreUnit) (w : IWord) (p : FPhase) : Flight :=
  { unit := u, word := w, pc := 0, step := 0, epoch := 0, tregs := List.replicate 8 0, descs := [], phase := p, seq := 1 }
theorem safe_of {s : State} (h : (Mem.wf s.mem && Chk.wf s.chk && RegFile.wf s.regs) = true) : s.Safe := by
  simpa [State.Safe, Bool.and_eq_true, and_assoc] using h
/-- Bytes of LPDDR6 written from `a` on. -/
def withMem (s : State) (a : Nat) (bs : List Byte) : State := { s with mem := (List.range bs.length).map (fun k => (a + k, nth bs k 0)) }

/-! Ill-formed commands: WellFormed refuses each of its checks' violations. -/

/-- A word whose opcode is reserved, and one that is assigned. -/
def wBad : IWord := iw 0x0F
def pZero : Packet := ⟨BitVec.ofNat 64 (15 * 2 ^ 60), 0, 0, 0, []⟩
def rZero : RingCmd := ⟨BitVec.ofNat 64 (7 * 2 ^ 56), 0, 0, 0, 0, 0, 0, 0⟩
theorem test_wf_opcodes : ∀ c ∈ [Instr.nop 0 wBad, .halt 0 wBad, .fence 0 wBad, .wait 0 wBad, .mark 0 wBad, .epoch 0 wBad, .step 0 wBad,
    .dset 0 wBad, .dadj 0 wBad, .tset 0 wBad, .tadd 0 wBad, .jmp 0 wBad, .own 0 wBad, .hiveTake 0 wBad, .mma 0 wBad, .mmaT 0 wBad, .mmaProbe 0 wBad,
    .park 0 wBad, .unpark 0 wBad, .load 0 wBad, .store 0 wBad, .gather 0 wBad, .scatter 0 wBad, .quant 0 wBad, .requant 0 wBad, .lutmv 0 wBad,
    .mow 0 wBad, .compress 0 wBad, .blkt 0 wBad, .illegalOp 0 (iw 0x50)], WellFormed c = false := by decide +kernel
theorem test_wf_forms : ∀ c ∈ [Instr.scatterAdd 0 (iw 0x24 (2 ^ 67)), .scatterAddDrain 0 (iw 0x24), .scoutPredict 0 (iw 0x33 (2 ^ 118)),
    .scoutApply 0 (iw 0x33), .sowCand 0 (iw 0x41 (2 ^ 118)), .sowGrowBlock 0 (iw 0x41 (2 ^ 118 + 2 ^ 117)), .sowGrowPosition 0 (iw 0x41 (2 ^ 118)),
    .allReduce 0 (iw 0x50 (2 ^ 116)), .reduceScatter 0 (iw 0x50), .allGather 0 (iw 0x50), .allToAll 0 (iw 0x50), .permute 0 (iw 0x50),
    .barrier 0 (iw 0x50), .local 0 (iw 0x50), .dispatch 0 (iw 0x50), .combineReturn 0 (iw 0x50 (8 * 2 ^ 116)),
    .combineAdd 0 (iw 0x50 (8 * 2 ^ 116 + 2 ^ 32)), .stageSend 0 (iw 0x50), .stageCredit 0 (iw 0x50), .hint 0 (iw 0x50 (10 * 2 ^ 116))],
    WellFormed c = false := by decide +kernel
theorem test_wf_network : ∀ c ∈ [Instr.registerWrite 4 0 .full, .nocRegisterAccess 4 ⟨none, .full, .stop 0⟩, .nocReadRequest .seq 0 0, .nocWrite .seq 0 [],
    .multicastWrite 0 ⟨BitVec.ofNat 512 (4 * 2 ^ 60), [0, 0]⟩, .multicastWrite 0 ⟨BitVec.ofNat 512 (3 * 2 ^ 60), [0]⟩,
    .reduction 0 ⟨BitVec.ofNat 512 (3 * 2 ^ 60), [0, 0]⟩, .nocRedTimeout none ⟨0, [0, 0]⟩,
    .anthillInsert ⟨0, 0, 3, 1, false, false, 0, 0, 0, 0⟩, .anthillInsert ⟨0, 0, 0, 256, false, false, 0, 0, 0, 0⟩,
    .anthillInsert ⟨0, 0, 1, 0, false, false, 0, 0, 0, 0⟩, .fillGo 0, .dataFlit 0 (BitVec.ofNat 2048 (2 ^ 60)) true, .idleFlit 0 0,
    .linkManagementFlit 0 0], WellFormed c = false := by decide +kernel
theorem test_wf_packets : ∀ c ∈ [Instr.loadPacket none pZero, .loadResp none pZero, .storePacket none pZero, .fadd none pZero, .cas none pZero,
    .atomicResp none pZero, .complete none pZero, .reduce none pZero, .mcast none pZero, .time 0 pZero 0, .syncHeartbeat none pZero,
    .syncCollective none pZero, .badOp none ⟨BitVec.ofNat 64 (2 ^ 54), 0, 0, 0, []⟩, .loadPacket none ⟨BitVec.ofNat 64 (9 * 2 ^ 54), 0, 0, 0, []⟩,
    .loadPacket none ⟨BitVec.ofNat 64 (2 ^ 54 + 3 * 2 ^ 47), 0, 0, 0, []⟩, .storePacket none ⟨BitVec.ofNat 64 (2 * 2 ^ 60 + 2 ^ 54), 0, 0, 0, []⟩,
    .syncHeartbeat none ⟨BitVec.ofNat 64 (10 * 2 ^ 60), 0, 1, 0, []⟩, .syncCollective none ⟨BitVec.ofNat 64 (10 * 2 ^ 60), 0, 0, 0, []⟩],
    WellFormed c = false := by decide +kernel
theorem test_wf_host : ∀ c ∈ [Instr.nopCommand 0 rZero, .copyH2D 0 rZero, .copyD2H 0 rZero, .startCommand 0 rZero, .haltCommand 0 rZero, .signal 0 rZero,
    .regWrite 0 rZero, .commandBadOp 0 ⟨0, 0, 0, 0, 0, 0, 0, 0⟩, .irqCauseClear 0x40018 0, .bar2Read 0 0, .bar2Write 0 [], .pcieLinkUp 3 1 false,
    .pcieLinkUp 4 0 true, .pcieLinkUp 4 6 false, .lpddr6TrainingDone [], .telemetryReport (some ⟨0, 0, 0, []⟩),
    .hostReadCompletion 0 (.data (zeroBytes 513))], WellFormed c = false := by decide +kernel
theorem test_wf_accepts : ∀ c ∈ [Instr.nop 0 (iw 0), .hint 0 (iw 0x50 (11 * 2 ^ 116)), .illegalOp 0 wBad, .badOp none pZero, .powerOn,
    .loadPacket (some 63) ⟨BitVec.ofNat 64 (8 * 2 ^ 54), 0, 0, 0, []⟩, .commandBadOp 15 rZero, .pcieLinkUp 4 7 true], WellFormed c = true := by
  decide +kernel

/-- The state that a command leaves; every command answers a next state. -/
def after (c : Instr) (s : State) : State := match exec c s with | .next t => t | _ => s

/-! Values worked out in the spec. -/

/-- 00: the core block of site 101 begins at 0x0165_0000; the fabric's route of device 0x7A45 stands at 0x0033_D228 (11). -/
theorem test_register_addresses : Reg.addr .CORE_SEQ_CTRL 101 0 / 0x10000 * 0x10000 = 0x01650000 ∧ Reg.addr .FAB_ROUTE_DEV 0 0x7A45 = 0x0033D228 ∧
    Reg.addr .RST_CMD 0 0 = 0x00010040 := by decide +kernel
/-- 02 R62: the block's scale is 0x3F06 and 0.91 has code 7. -/
theorem test_hb4_block : let r := hb4Encode [(.rne, .ofRat (91 / 100))]; r.1 = 0x3F06 ∧ r.2.1.head? = some 7 := by decide +kernel
/-- 02 R70: 0x3F808000 rounds to 0x3F80 under the first key and to 0x3F81 under the second. -/
theorem test_stochastic_rounding : let v := val32 0x3F808000
    FPar.bf16.encode (FPar.bf16.round (.sr (srBits 0 0 0 0)) v).1 = 0x3F80 ∧
    FPar.bf16.encode (FPar.bf16.round (.sr (srBits 0x100000000 0 0 0)) v).1 = 0x3F81 := by decide +kernel
/-- 02 R74: the two requantisations of the example. -/
theorem test_requant : requant (-1234567) 1518500250 45 (-3) (-128) 127 = (-56, {}) ∧
    (requant (-1234567) 1518500250 40 (-3) (-128) 127).1 = -128 := by decide +kernel
/-- 03 R83: ids 0 and 57. -/
theorem test_patterns : patternMask 0 = 0xCC33 ∧ patternMask 57 = 0x59A6 ∧ patternId 0x59A6 = 57 := by decide +kernel
/-- 04 R118: 1.0 and 2^-16 in FP24. -/
theorem test_long_park : let v := FVal.ofRat (1 + 1 / 65536)
    FPar.fp24.encode (FPar.fp24.round (.sr 0x7FFFFF) v).1 = 0x3F8001 ∧ FPar.fp24.encode (FPar.fp24.round (.sr 0x800000) v).1 = 0x3F8000 := by decide +kernel
/-- 07 R208: the micro-block's best pattern is id 35, with 42. -/
theorem test_mow_choice : choosePattern (([9, 1, 1, 8, 1, 7, 6, 1, 4, 2, 4, 2, 4, 2, 4, 2] : List Int).map .ofInt) none = (35, .ofInt 42) ∧
    patternMask 35 = 0xC369 := by decide +kernel
/-- 08: row 0x1234 of context 5 lives in cluster 15, set 848. -/
theorem test_anthill_key : antKey 5 0x02001234 = 0x05002001234 ∧ homeSlice 0x40024680 = 15 ∧ antSet 5 0x02001234 = 848 := by decide +kernel
/-- 09: 6.0 in LG16. -/
theorem test_lg16 : (lgEncode 0xFFFFFF (.ofInt 6)).1 = 0x8295 ∧ (lgEncode 0 (.ofInt 6)).1 = 0x8296 ∧ (lgEncode 0 (.ofInt 1)).1 = 0x8000 := by decide +kernel
/-- 05: Hive counter 40 lives in cluster 2. -/
theorem test_hive_home : hiveHome 40 = (2, 8) := by decide +kernel
/-- 20: FIXED at 1,700 MHz with F_dev 1,275 gives DUTY 48; a ceiling of 1,200 in cluster 12 gives 45 and the heartbeat 1,195. -/
theorem test_duty : let s : State := { ready [(.TOP_CORE_MAP, 0, 0, 0), (.TOP_CORE_MAP, 0, 96, 96)] with pwr := { fdev := 1275, ceilings := (List.replicate 20 1700).set 12 1200 } }
    s.siteDuty 0 = 48 ∧ s.siteDuty 96 = 45 ∧ s.hbCeiling = 1195 := by decide +kernel
/-- 15: a cold reset taken during option load is read as 0x4000_0401. -/
theorem test_reset_cause : (after (.coldReset 0) { State.reset with
    regs := regsOf [(.RST_PHASE, 0, 0, 4)], rst := { perst := false, requests := [0] } }).reg .RST_CAUSE 0 0 = 0x40000401 := by decide +kernel
/-- Cores 0 to 7 on the eight sites of cluster 12. -/
def cluster12 : State := ready ((List.range 8).map (fun l => (.TOP_CORE_MAP, 0, l, 96 + l)))
/-- 18 R463: site 101, which holds core 5, is fenced; its cluster has no spare, so the lowest site of its half takes the core. -/
theorem test_fence : (after (.fenceSite (BitVec.ofNat 64 0xF3A1000000000065) .full) cluster12).reg .TOP_CORE_MAP 0 5 = 72 := by decide +kernel

/-- FIPS 202: SHAKE256 of the empty message and of 200 bytes of 0xA3. -/
theorem test_shake256 : shake256 [] 32 = (toBytes 32 0x46B9DD2B0BA88D13233B3FEB743EEB243FCD52EA62B81B82B50C27646ED5762F).reverse ∧
    shake256 (List.replicate 200 0xA3) 32 = (toBytes 32 0xcd8a920ed141aa0407a22d59288652e9d9f1a7ee0c1e7c1ca699424da84a904d).reverse := by decide +kernel

/-! Commands, their outcomes worked out by hand from their rules. -/

/-- 05 R139: TADD is modulo 2^32, and the other half of the register word stays. -/
theorem test_tadd_wraps : (after (.tadd 0 (iw 0x0A (2 ^ 64 + 7 * 2 ^ 32))) (run0 [(.CORE_TILE_REGS, 0, 0, 0xFFFFFFFF00000009)])).reg .CORE_TILE_REGS 0 0
    = 0x600000009 := by decide +kernel
/-- 05 R139: WAIT on a counter that holds 5 passes at 5 and waits at 6. -/
theorem test_wait : (after (.wait 0 (iw 3 (5 * 2 ^ 32))) (run0 [(.CORE_CC, 0, 0, 5)])).reg .CORE_SEQ_PC 0 0 = 16 ∧
    (after (.wait 0 (iw 3 (6 * 2 ^ 32))) (run0 [(.CORE_CC, 0, 0, 5)])).reg .CORE_SEQ_PC 0 0 = 0 := by decide +kernel
/-- 11 R309: a CAS whose word 3 is not what memory holds leaves it. -/
theorem test_cas_differs :
    let p : Packet := ⟨BitVec.ofNat 64 (4 * 2 ^ 60 + 2 ^ 54), BitVec.ofNat 64 (2 ^ 62), 0, 1, [burstOf (.valid (toBytes 32 7))]⟩
    (after (.cas none p) (withMem (ready []) 0 (zeroBytes 32))).mem = (withMem (ready []) 0 (zeroBytes 32)).mem ∧
    Mem.get 0 (after (.cas none { p with w3 := 0 }) (withMem (ready []) 0 (zeroBytes 32))).mem = some 7 := by decide +kernel
/-- 09 R261: an undefined operation of the Rake ends with status 5. -/
theorem test_rake_bad_op : let s := { withMem (ready []) 0 (zeroBytes 64) with rake := { run := some ⟨BitVec.ofNat 64 (9 * 2 ^ 56) :: List.replicate 7 0, false, 0⟩, draining := true } }
    (after .rakeBadOp s).field F.RAKE_STATUS.LAST_STATUS 0 0 = 5 := by decide +kernel
/-- 16 R432: at 105.0 °C, 420 quarters, a ceiling falls by 100 MHz. -/
theorem test_sensor : nth (after (.sensorSample 12 420) (ready [])).pwr.ceilings 12 0 = 1600 := by decide +kernel
/-- 21 R512: bytes 5 and eight of ones clear every alert. -/
theorem test_mgmt : (after (.mgmtWrite (5 :: List.replicate 8 0xFF)) (ready [(.MGT_ALERT, 0, 0, 0x7F)])).reg .MGT_ALERT 0 0 = 0 := by decide +kernel

/-! The hypotheses of the obligations, met. -/

theorem witness_StepRunsFront : { State.reset with pending := [.powerOn] }.pending = Instr.powerOn :: [] := rfl
theorem witness_EmptyQueueTicks : State.reset.pending = [] ∧ State.reset.noc.cycle = [] := ⟨rfl, rfl⟩
theorem witness_StepKeepsSafe : State.reset.Safe ∧ step State.reset = .next State.reset.tick := ⟨safe_of (by decide +kernel), rfl⟩
theorem witness_SequencerInstructions : (run0 []).issues 0 (iw 0) = true := by decide +kernel
theorem witness_EpochSetsEpoch : (run0 []).issues 0 (iw 5 7) = true ∧ (run0 []).sites[0].inFlight .arrays = [] ∧
    (run0 []).sites[0].inFlight .mower = [] ∧
    (let s := withSite (run0 []) { flights := [fl .mower 0 .done] }
     s.issues 0 (iw 5 7) = true ∧ ¬ (s.sites[0].inFlight .arrays = [] ∧ s.sites[0].inFlight .mower = [])) := by decide +kernel
def sCC : State := run0 [(.CORE_CC, 0, 0, 5)]
theorem witness_WaitAndFencePass :
    (sCC.issues 0 (iw 3 (5 * 2 ^ 32)) = true ∧ sCC.sites[0].rows = [] ∧ wf (iw 3 (5 * 2 ^ 32)) 63 32 ≤ sCC.field F.CORE_CC.VALUE 0 0) ∧
    sCC.field F.CORE_CC.VALUE 0 0 < wf (iw 3 (6 * 2 ^ 32)) 63 32 ∧
    (∀ u ∈ fenceUnits (iw 2 (63 * 2 ^ 114)), sCC.sites[0].inFlight u = []) ∧ sCC.unseenWrites 0 (fenceUnits (iw 2 (63 * 2 ^ 114))) = false ∧
    (let s := withSite (run0 []) { flights := [fl .coll 0 .done] }
     s.issues 0 (iw 2 (2 ^ 115)) = true ∧ ¬ (∀ u ∈ fenceUnits (iw 2 (2 ^ 115)), s.sites[0].inFlight u = [])) := by decide +kernel
/-- A host window that the Mower wrote is not seen yet: the flush asks for it and FENCE waits; and an open batch, which closes. -/
theorem witness_WaitAndFencePass_more : (let us := fenceUnits (iw 2 (2 ^ 114 + 63 * 2 ^ 115))
      let s := withSite (run0 []) { unseen := [(4, 0)] }
      s.issues 0 (iw 2 (2 ^ 114 + 63 * 2 ^ 115)) = true ∧ wb (iw 2 (2 ^ 114 + 63 * 2 ^ 115)) 114 = true ∧
      ((flushWindows 0 us).run s).2.unseenWrites 0 us = true) ∧
    (let s := withSite (run0 []) { rows := [fl .arrays (iw 0x10) .queued] }
     let closed := ((closeBatch 0 false).run s).2
     s.issues 0 (iw 2) = true ∧ closed.issues 0 (iw 2) = true ∧ closed.sites[0].rows = [] ∧
     closed.reg .CORE_SEQ_PC 0 0 = s.reg .CORE_SEQ_PC 0 0 ∧ closed.issues 0 (iw 1) = true ∧ closed.issues 0 (iw 3) = true) := by decide +kernel
theorem witness_HaltHalts : (run0 []).issues 0 (iw 1) = true ∧ (run0 []).sites[0].rows = [] ∧ (run0 []).sites[0].flights = [] ∧
    (run0 []).unseenWrites 0 allUnits = false ∧ (withSite (run0 []) { flights := [fl .dmaRd 0 .done] }).sites[0].flights ≠ [] ∧
    (withSite (run0 []) { flights := [fl .dmaRd 0 .done] }).issues 0 (iw 1) = true := by decide +kernel
def sTrace : State := run0 [(.TRC_RING_CTRL, 0, 0, 0x20), (.TRC_ENABLE, 0, 0, 0x10004)]
theorem witness_MarkActs : (let s := run0 [(.TRC_RING_CTRL, 0, 0, 0x20), (.TRC_ENABLE, 0, 0, 0x100000004)]
      s.issues 0 (iw 4) = true ∧ wb (iw 4) 119 = false ∧ s.flag F.TRC_HUSH_CTRL.ON_MARK 0 0 = false ∧ s.flag F.TRC_RING_CTRL.ENABLE 0 0 = true ∧
      (s.field F.TRC_ENABLE.TYPES 0 0).testBit 2 = true ∧ (s.field F.TRC_ENABLE.GROUPS 0 0).testBit 0 = true) ∧
    wb (iw 4 (2 ^ 119)) 119 = true ∧ (run0 []).now < 2 ^ 64 := by decide +kernel
def sDesc : State := withMem (run0 []) 0 (zeroBytes 64)
theorem witness_DsetLoads : sDesc.Safe ∧ sDesc.issues 0 (iw 7) = true ∧ sDesc.tableCut 0 (iw 7) = false ∧
    (cut (run0 [])).tableCut 0 (iw 7 (63 * 2 ^ 72)) = true ∧
    (∀ k, k ≤ wf (iw 7) 77 72 → localAddr (sDesc.entryAt 0 (iw 7) k) = true ∧
      sDesc.readsClean (fld (sDesc.entryAt 0 (iw 7) k) 40 0) = true ∧ sDesc.readsClean (fld (sDesc.entryAt 0 (iw 7) k) 40 0 + 32) = true) ∧
    localAddr ((run0 [(.CORE_DESC_TABLE, 0, 0, 2 ^ 62)]).entryAt 0 (iw 7) 0) = false :=
  ⟨safe_of (by decide +kernel), by decide +kernel, by decide +kernel, by decide +kernel, by decide +kernel, by decide +kernel⟩
theorem witness_DadjAdjusts : (run0 []).issues 0 (iw 8) = true ∧ wf (iw 8) 113 112 = 0 ∧
    (let s := run0 [(.CORE_DESC_SLOT, 0, 2, 5)]
     let w := iw 8 (2 ^ 112 + 4 * 2 ^ 32)
     s.issues 0 w = true ∧ wf w 113 112 = 1 ∧ wf w 34 32 < min 5 (fld (s.reg .CORE_DESC_SLOT 0 (8 * wSA w + 2)) 2 0)) := by decide +kernel
def take0 (set : Bool) (arg : Nat) (r : Option Nat) : Take := ⟨3, 17, set, arg, r⟩
theorem witness_HiveTakesAndReplies : (run0 []).issues 0 (iw 13) = true ∧
    (let s := withSite (run0 []) { takes := [take0 false 1 (some 9)] }
     s.sites[0].takes.find? (fun t => t.tn == 3 && t.reply.isSome) = some (take0 false 1 (some 9)) ∧ s.deaf 0 = false ∧
     s.seamCut (take0 false 1 none).stop (siteStop 0) (hivePlane 17) = false) ∧
    (let k : Take := ⟨3, 255, false, 1, some 9⟩
     let s := cut (withSite (run0 []) { takes := [k] })
     s.sites[0].takes.find? (fun t => t.tn == 3 && t.reply.isSome) = some k ∧ s.seamCut k.stop (siteStop 0) (hivePlane k.hive) = true) ∧
    (let k := take0 false 1 (some 9)
     let s := withSite (run0 []) { takes := [⟨2, 17, false, 1, none⟩, k] }
     s.sites[0].takes.find? (fun t => t.tn == 3 && t.reply.isSome) = some k ∧ s.sites[0].replyBehind k = true ∧
     (withSite (run0 []) { takes := [k] }).sites[0].replyBehind k = false ∧ (run0 [(.TRC_HUSH_STATUS, 0, 0, 3)]).hushed = true) ∧
    (let s := withSite (run0 [(.TOP_FENCED, 0, 0, 1)]) { takes := [take0 false 1 (some 9)] }
     s.sites[0].takes.find? (fun t => t.tn == 3 && t.reply.isSome) = some (take0 false 1 (some 9)) ∧ s.deaf 0 = true) := by decide +kernel
theorem witness_HiveServes : ∀ l, l < 2 → ∀ set : Bool,
    (let s := withSite (run0 [(.HIVE_COUNTER, 1, 1, l * 2 ^ 32)]) { takes := [take0 set 1 none] }
     s.hushed = false ∧ s.sites[0].takes.find? (fun t => t.tn == 3 && t.reply.isNone) = some (take0 set 1 none) ∧
     s.field F.HIVE_COUNTER.VALUE (hiveHome 17).1 (hiveHome 17).2 = 0 ∧ s.field F.HIVE_COUNTER.LIMIT (hiveHome 17).1 (hiveHome 17).2 = l ∧
     s.sites[0].takeBehind (take0 set 1 none) = false ∧ s.seamCut (siteStop 0) (take0 set 1 none).stop (hivePlane 17) = false ∧
     ∀ u ∈ s.sites[0].takes, u.tn = 3 → u = take0 set 1 none) := by decide +kernel
/-- Takes that wait: at a seam channel without lock, and behind an earlier one to the same stop. -/
theorem witness_HiveServes_waits : (let k : Take := ⟨3, 255, false, 1, none⟩
      let s := cut (withSite (run0 []) { takes := [k] })
      s.sites[0].takes.find? (fun t => t.tn == 3 && t.reply.isNone) = some k ∧ s.seamCut (siteStop 0) k.stop (hivePlane k.hive) = true) ∧
    (let s := withSite (run0 []) { takes := [⟨2, 17, false, 1, none⟩, take0 false 1 none] }
     s.sites[0].takes.find? (fun t => t.tn == 3 && t.reply.isNone) = some (take0 false 1 none) ∧
     s.sites[0].takeBehind (take0 false 1 none) = true) := by decide +kernel
/-- The same, the instruction not in the buffer: its granule reads clean, or holds POISON. -/
def sFetch (err : Nat) : State :=
  { ready [(.CORE_SEQ_STATUS, 0, 0, 1), (.TOP_CORE_MAP, 0, 0, 0)] with
    mem := (List.range 32).map (fun k => (k, 0)), chk := if err = 0 then [] else [(0, BitVec.ofNat 32 err)] }
/-- 05 R137, 06 R185, 07 R197, 08 R240, 12 R336, R361: a word of each family, written from the tables. -/
theorem test_opcodes : instrOf 3 (iw 0x10) = .mma 3 (iw 0x10) ∧ instrOf 3 (iw 0x0D) = .hiveTake 3 (iw 0x0D) ∧
    instrOf 0 (iw 0x24 (2 ^ 67)) = .scatterAddDrain 0 (iw 0x24 (2 ^ 67)) ∧ instrOf 0 (iw 0x33 (2 ^ 118)) = .scoutApply 0 (iw 0x33 (2 ^ 118)) ∧
    instrOf 0 (iw 0x41 (2 ^ 118 + 2 ^ 117)) = .sowGrowPosition 0 (iw 0x41 (2 ^ 118 + 2 ^ 117)) ∧
    instrOf 0 (iw 0x50 (8 * 2 ^ 116)) = .combineAdd 0 (iw 0x50 (8 * 2 ^ 116)) ∧ instrOf 0 (iw 0x0E) = .illegalOp 0 (iw 0x0E) ∧
    fetched (.mma 3 (iw 0x10)) = some (3, iw 0x10) ∧ WellFormed (.mma 3 (iw 0x10)) = true := by decide +kernel
theorem witness_IllegalHalts : (run0 []).canIssue 0 = true ∧ (run0 []).sites[0].buffer.contains ((run0 []).reg .CORE_SEQ_PC 0 0) = true ∧
    (∀ e ∈ [(0 : Nat), 0xFFFFFFFF], (sFetch e).canIssue 0 = true ∧ (sFetch e).sites[0].buffer.contains ((sFetch e).reg .CORE_SEQ_PC 0 0) = false ∧
      ((fetchInstr 0 0).run (sFetch e)).1 = (e != 0)) ∧ ((fetchInstr 0 0).run (sFetch 0)).2.canIssue 0 = true ∧
    collOf (.halt 0 0) = none ∧ collOf (.barrier 0 (iw 0x50 (5 * 2 ^ 116))) ≠ none := by decide +kernel
theorem witness_CoreControl : (run0 []).accepts .CORE_SEQ_CTRL 0 0 = true ∧ (run0 []).running 0 = true ∧ (run0 []).sites[0].rows = [] ∧
    (run0 []).field F.CORE_SEQ_STATUS.STATE 0 0 ≠ 0 ∧
    (ready []).accepts .CORE_SEQ_CTRL 0 0 = true ∧ (ready []).field F.CORE_SEQ_STATUS.STATE 0 0 = 0 ∧ (ready []).deaf 0 = false ∧
    (ready []).running 0 = false ∧ (ready []).sites[0].flights ++ (ready []).sites[0].rows = [] ∧ (ready []).sites[0].hint = none ∧ (ready []).coll.runs = [] ∧
    (let s := withSite (ready []) { flights := [fl .dmaRd 0 .done] }
     s.accepts .CORE_SEQ_CTRL 0 0 = true ∧ s.field F.CORE_SEQ_STATUS.STATE 0 0 = 0 ∧ s.sites[0].flights ++ s.sites[0].rows = [fl .dmaRd 0 .done]) := by
  decide +kernel
theorem idle_of {s : State} (h : (s.coll.queue.isEmpty && s.coll.runs.isEmpty && s.fabric.stalls.isEmpty) = true) : s.collIdle := by
  simpa [State.collIdle, Bool.and_eq_true, and_assoc] using h
theorem witness_InstructionCompletes_idle : (withSite (run0 [(.CORE_SEQ_STATUS, 0, 0, 2)]) { flights := [fl .dmaRd 0 .done] }).collIdle :=
  idle_of (by decide +kernel)
theorem witness_InstructionCompletes : (let s := withSite (run0 [(.CORE_SEQ_STATUS, 0, 0, 2)]) { flights := [fl .dmaRd 0 .done] }
    s.noc.inserts = [] ∧ s.hushed = false ∧ s.sites[0].rows = [] ∧ s.sites[0].flights = [fl .dmaRd 0 .done] ∧ (s.sites[0].flights.filter (fun g => g.unit == .dmaRd)).head? = some (fl .dmaRd 0 .done) ∧
    (∀ g ∈ s.sites[0].flights, g.unit = .dmaRd → g.phase = .done) ∧ s.field F.CORE_SEQ_STATUS.STATE 0 0 = 2) ∧
    (let f := fl .mower (iw 0x40) .done
     let s := withSite (run0 []) { flights := [f] }
     let s := { s with clusters := s.clusters.set 0 { mow := [(0, 1)] } }
     (∀ m ∈ s.clusters[clusterOf 0].mow, m = ((0 : SiteId).val, f.seq)) ∧ s.sites[0].flights.filter (fun g => g.unit == .mower) = [f]) ∧
    (∃ ws got, (fl .dmaRd 0 (.remote [32] [])).phase = .remote ws got) ∧
    (let f := fl .dmaWr (iw 0x24) .done
     let x : NocInsert := ⟨0, 1, { ctx := 0, granule := 0, lane := 0, lanes := 1, ord := false, runStart := false, order := 0, index := 0, run := 0, vals := 0 }⟩
     f.phase = .done ∧ x.site = 0 ∧ x.seq = f.seq) := by
  refine ⟨by decide +kernel, by decide +kernel, ⟨_, _, rfl⟩, by decide +kernel⟩
theorem witness_UnitQueues : unitOf (.load 0 (iw 0x20)) = some (0, iw 0x20, .dmaRd) ∧
    (let s := withSite (run0 []) { flights := [fl .dmaRd 0 .queued] }
     s.issues 0 (iw 0x20) = true ∧ s.held 0 .dmaRd (iw 0x20) = none ∧ s.startsNow 0 .dmaRd (s.entryOf 0 (iw 0x20) .dmaRd) = false) ∧
    (let s := { run0 [] with clusters := (run0 []).clusters.set 0 { mow := [(1, 1)] } }
     unitOf (.mow 0 (iw 0x40)) = some (0, iw 0x40, .mower) ∧ s.issues 0 (iw 0x40) = true ∧ s.held 0 .mower (iw 0x40) = none ∧
     s.startsNow 0 .mower (s.entryOf 0 (iw 0x40) .mower) = false) ∧
    (let s := withSite (run0 []) { flights := List.replicate 16 (fl .dmaRd 0 .queued) }
     s.issues 0 (iw 0x20) = true ∧ s.held 0 .dmaRd (iw 0x20) ≠ none) := by decide +kernel
/-- A LOAD of one BF16 element from LPDDR6 to the scratchpad, both slots 0 and 1. -/
def sCopy : State := withMem (run0 [(.CORE_DESC_SLOT, 0, 0, 0x100), (.CORE_DESC_SLOT, 0, 1, 1), (.CORE_DESC_SLOT, 0, 2, 0x200000101),
  (.CORE_DESC_SLOT, 0, 4, 1), (.CORE_DESC_SLOT, 0, 8, 0x01C000000000), (.CORE_DESC_SLOT, 0, 9, 1), (.CORE_DESC_SLOT, 0, 10, 0x200000101),
  (.CORE_DESC_SLOT, 0, 12, 1)]) 0x100 (zeroBytes 32)
def wCopy : IWord := iw 0x20 (0 * 2 ^ 96 + 1 * 2 ^ 90)
theorem witness_UnitActs : WellFormed (.load 0 wCopy) = true ∧ sCopy.issues 0 wCopy = true ∧ sCopy.held 0 .dmaRd wCopy = none ∧
    sCopy.startsNow 0 .dmaRd (sCopy.entryOf 0 wCopy .dmaRd) = true ∧ ((bodyOf 0 (sCopy.entryOf 0 wCopy .dmaRd)).run (sCopy.acting 0 wCopy .dmaRd)).2.want = [] := by decide +kernel
/-- A LOAD of two E4M3 elements from byte 7 of the scratchpad to byte 33, its banks owned by DMA. -/
def fRow : Flight := { fl .dmaRd wCopy .queued with descs := [[BitVec.ofNat 64 (windowBase 0 + 7), 4, 0x400000201, 0, 1, 0, 0, 0],
  [BitVec.ofNat 64 (windowBase 0 + 33), 4, 0x400000201, 0, 1, 0, 0, 0]] }
def sRow : State := run0 [(.CORE_BANK_OWNER, 0, 0, 1)]
theorem witness_UnitActs_row : sRow.Safe ∧ wOpcode fRow.word = 0x20 ∧ (fRow.desc 0).code = (fRow.desc 1).code ∧
    (fRow.desc 0).row (windowBase 0 + 7) 2 ∧ (fRow.desc 1).row (windowBase 0 + 33) 2 ∧ sRow.fenced 0 = false ∧ sRow.noc.seams = [] ∧
    sRow.dmaBytes 0 7 2 ∧ sRow.dmaBytes 0 33 2 ∧
    ((fl .dmaRd wCopy .queued).desc 0).ok = false ∧
    (let f := { fRow with descs := [[0, 4, 1, 0, 1, 0, 0, 0], [0, 4, 1, 0, 1, 0, 0, 0]] }
     (f.desc 0).ok = true ∧ (f.desc 1).ok = true ∧ (f.desc 0).clamped = false ∧ (f.desc 1).clamped = false ∧ (f.desc 0).empty = true) := by
  refine ⟨safe_of (by decide +kernel), by decide +kernel, by decide +kernel, ?_, ?_, by decide +kernel, rfl, ?_, ?_, by decide +kernel⟩
  · exact ⟨by decide +kernel, by decide +kernel, by decide +kernel, by decide +kernel, by decide +kernel, by decide +kernel, by decide +kernel, by decide +kernel⟩
  · exact ⟨by decide +kernel, by decide +kernel, by decide +kernel, by decide +kernel, by decide +kernel, by decide +kernel, by decide +kernel, by decide +kernel⟩
  · exact ⟨by decide, by decide, by decide +kernel, by decide +kernel⟩
  · exact ⟨by decide, by decide, by decide +kernel, by decide +kernel⟩
/-- 05 R139: the two bytes at 7 and 8 of the scratchpad go to 33 and 34. -/
theorem test_copy_row : let s := { sRow with mem := [(windowBase 0 + 7, 5), (windowBase 0 + 8, 6)] }
    (List.range 4).map (fun k => Mem.get (windowBase 0 + 32 + k) ((bodyOf 0 fRow).run s).2.mem) = [some 0, some 5, some 6, some 0] := by
  decide +kernel
theorem witness_ArrayActs : WellFormed (.park 0 (iw 0x13)) = true ∧ (run0 []).arrayOf (.park 0 (iw 0x13)) = some (0, iw 0x13) ∧
    (run0 []).sites[0].rows = [] ∧ (run0 []).issues 0 (iw 0x13) = true ∧ (run0 []).held 0 .arrays (iw 0x13) = none ∧ (run0 []).startsNow 0 .arrays ((run0 []).entryOf 0 (iw 0x13) .arrays) = true ∧
    ((bodyOf 0 ((run0 []).entryOf 0 (iw 0x13) .arrays)).run ((run0 []).acting 0 (iw 0x13) .arrays)).2.want = [] := by decide +kernel
/-- Three one-element tensors: BF16 operands X and W, an FP32 result Y, for a batched MMA on array 0. -/
def sMma : State := withMem (run0 [(.CORE_DESC_SLOT, 0, 0, 0x100), (.CORE_DESC_SLOT, 0, 1, 2), (.CORE_DESC_SLOT, 0, 2, 0x200000102),
  (.CORE_DESC_SLOT, 0, 3, 0x2000001), (.CORE_DESC_SLOT, 0, 4, 0x100000001), (.CORE_DESC_SLOT, 0, 8, 0x120), (.CORE_DESC_SLOT, 0, 9, 2),
  (.CORE_DESC_SLOT, 0, 10, 0x200000102), (.CORE_DESC_SLOT, 0, 11, 0x2000001), (.CORE_DESC_SLOT, 0, 12, 0x100000001),
  (.CORE_DESC_SLOT, 0, 16, 0x140), (.CORE_DESC_SLOT, 0, 17, 0), (.CORE_DESC_SLOT, 0, 18, 0x200000102), (.CORE_DESC_SLOT, 0, 19, 0x2000001),
  (.CORE_DESC_SLOT, 0, 20, 0x100000001), (.CORE_ARRAY_CONFIG, 0, 0, 0xFFFF00)]) 0x100 (zeroBytes 96)
def wMma : IWord := iw 0x10 (2 ^ 119 + 2 ^ 118 + 2 * 2 ^ 116 + 2 ^ 108 + 2 ^ 90 + 2 * 2 ^ 84)
def sRows (n : Nat) : State := withSite sMma { rows := List.replicate n (sMma.entryOf 0 wMma .arrays) }
theorem witness_ArrayActs_batch : sMma.joinsBatch false 0 wMma = true ∧ sMma.issues 0 wMma = true ∧ sMma.accHeld 0 .arrays wMma = false ∧
    (sMma.sites[0].rows = [] ∧ rowsOf [sMma.entryOf 0 wMma .arrays] ≠ 32 * (arraysOf wMma).length ∧
      sMma.field F.CORE_ARRAY_CONFIG.FILL_TIMEOUT 0 0 ≠ 0) ∧
    ((sRows 7).joinsBatch false 0 wMma = true ∧ (sRows 7).sites[0].rows.length = 7 ∧
      batchMatches (sMma.entryOf 0 wMma .arrays) ((sRows 7).entryOf 0 wMma .arrays) = true ∧
      rowsOf ((sRows 7).sites[0].rows ++ [(sRows 7).entryOf 0 wMma .arrays]) ≤ 32 * (arraysOf wMma).length) ∧
    (let h := { sMma.entryOf 0 wMma .arrays with word := wMma + 1#128 <<< 65 }
     let s := withSite sMma { rows := [h], flights := [fl .arrays (iw 0x13) .queued] }
     s.joinsBatch false 0 wMma = true ∧ batchMatches h (s.entryOf 0 wMma .arrays) = false ∧
     s.startsNow 0 .arrays { h with batch := some h.seq } = false) := by decide +kernel
/-- A PARK that finds a batch open: its arrays are idle once that has closed, or an earlier instruction is still to act. -/
theorem witness_ArrayActs_open : (∀ q, q < 2 → (let s := withSite sMma {
        rows := [sMma.entryOf 0 wMma .arrays]
        flights := List.replicate q (fl .arrays (iw 0x13) .queued) }
      s.arrayOf (.park 0 (iw 0x13)) = some (0, iw 0x13) ∧ s.sites[0].rows ≠ [] ∧ s.held 0 .arrays (iw 0x13) = none ∧ s.issues 0 (iw 0x13) = true ∧
      (let b := ((closeBatch 0 false).run (s.issued 0 (iw 0x13) 0)).2
       b.startsNow 0 .arrays (b.flightOf 0 .arrays (iw 0x13) 0) = (q == 0)))) ∧
    (withSite (run0 []) { flights := [fl .arrays (iw 0x13) .queued] }).startsNow 0 .arrays ((run0 []).entryOf 0 (iw 0x13) .arrays) = false := by
  decide +kernel
def withArr (s : State) (x : ArrayState) : State := withSite s { s.sites[0] with arrays := s.sites[0].arrays.set 0 x }
/-- Tile 3 active in array 0, all its cells holding 7. -/
def act3 : Active := { tile := 3, int := false, cells := List.replicate 1024 7, step := 0, rows := [], nbase := 0, mode := false }
def fTile (op : Nat) : Flight := fl .arrays (iw op (2 ^ 108 + 3 * 2 ^ 104)) .queued
theorem witness_ArrayActs_tiles : wOpcode (fTile 0x13).word = 0x13 ∧
    (∀ (k : Fin 4) (c : Active), (withArr (run0 []) { act := some act3 }).sites[0].arrays[k].act = some c →
      c.tile < 24 ∧ c.cells.length = 1024 ∧ (c.mode = true → c.int = true)) ∧
    (wOpcode (fTile 0x14).word = 0x14 ∧ (run0 []).flag F.CORE_ARRAY_CONFIG.ACC_MODE 0 0 = false ∧
      (∀ (k : Fin 4) (j : Nat), j < 128 → ((run0 []).stored (tileAt 0 k (wideTile (wTile (fTile 0x14).word)) + 32 * j)).err = 0)) ∧
    (run0 [(.CORE_ARRAY_CONFIG, 0, 0, 1)]).flag F.CORE_ARRAY_CONFIG.ACC_MODE 0 0 = true := by
  refine ⟨by decide +kernel, ?_, by decide +kernel, by decide +kernel⟩
  have h : ∀ k : Fin 4, (withArr (run0 []) { act := some act3 }).sites[0].arrays[k].act = none ∨
      (withArr (run0 []) { act := some act3 }).sites[0].arrays[k].act = some act3 := by decide +kernel
  intro k c hc
  rcases h k with h | h <;> rw [h] at hc <;> simp at hc
  subst hc
  decide +kernel
theorem witness_TransferEnds : (∀ b : Bool, (withArr (run0 []) { xfer := { busy := b } }).sites[0].arrays[0].xfer.busy = b) ∧
    (1 : Fin 4) ≠ 0 ∧ (run0 []).sites[0].unitIdle .arrays = true := by decide +kernel
theorem witness_BatchTimeoutRuns : (run0 []).sites[0].rows = [] ∧
    (let h := sMma.entryOf 0 wMma .arrays
     let s := withSite sMma { rows := [h] }
     s.sites[0].rows.head? = some h ∧ s.startsNow 0 .arrays { h with batch := some h.seq } = true ∧
     ((batchBody 0 { h with batch := some h.seq }).run (s.batchActing 0 h)).2.want = []) ∧
    (withSite sMma { flights := [fl .arrays (iw 0x13) .queued] }).startsNow 0 .arrays (sMma.entryOf 0 wMma .arrays) = false := by decide +kernel
def wBar : IWord := iw 0x50 (5 * 2 ^ 116)
def sHint (policy : Nat) : State :=
  let s := run0 [(.CORE_COLL_WAIT, 1, 0, 2 ^ 63)]
  withSite { s with sites := s.sites.set 1 { policy := policy } } { hint := some { id := 0, site := 0, flight := fl .coll (iw 0x50 (11 * 2 ^ 116)) .done, record := List.replicate 8 0 } }
theorem witness_CollEnters : collOf (.barrier 0 wBar) = some (0, wBar) ∧ (run0 []).issues 0 wBar = true ∧ (run0 []).held 0 .coll wBar = none ∧
    (withSite (run0 []) { flights := List.replicate 32 (fl .coll wBar .queued) }).held 0 .coll wBar ≠ none ∧
    (run0 []).sites[0].hint = none ∧ (sHint 1).deaf 0 = false ∧ (sHint 1).sites[(1 : SiteId)].policy = 1 ∧ (sHint 1).hushed = false ∧
    (sHint 1).sites[0].hint ≠ none ∧ ((sHint 1).reg .CORE_COLL_WAIT (1 : SiteId) 0).testBit 63 = true := by decide +kernel
/-- A collective of core 0 in execution, with a record at 64 and a signal. -/
def cRun (op : Nat) : CollRun := {
  id := 7, site := 0, flight := fl .coll (iw 0x50 (op * 2 ^ 116)) .done, bkey := some (2, 1, 0)
  record := [0, 0, 0, 64, 0, BitVec.ofNat 64 (2 ^ 29 + 3 * 2 ^ 18), 0, 0] }
def sColl (op : Nat) : State := let s := withMem (run0 []) 64 (zeroBytes 64)
  { s with coll := { runs := [cRun op], keys := [⟨2, 1, 0, [], none, 0, 0, false, some (5, 9)⟩] } }
/-- One that completes, of each kind, and an ALL_TO_ALL of which a packet is not accepted yet. -/
theorem witness_CollEnters_runs : (∀ op ∈ [0, 3, 5, 6, 8, 10], (sColl op).lone (cRun op) ∧ (sColl op).workDone (cRun op)) ∧
    ((cRun 5).status < 256 ∧ (cRun 5).statusPtr = 64 ∧ (sColl 5).plainGran 64 = true ∧ (sColl 5).plainGran 96 = true ∧
      ((cRun 5).w 5).testBit 29 = true ∧ (sColl 5).siteOf (cRun 5).core = some 0 ∧ (sColl 5).fenced 0 = false) ∧
    ((sColl 5).readsClean 96 = true ∧ (sColl 5).dirtyLine 96 = none ∧ (cRun 5).op = 5 ∧
      (sColl 5).coll.keys.find? (fun k => (cRun 5).bkey == some (k.tag, k.seq, k.round)) = some ⟨2, 1, 0, [], none, 0, 0, false, some (5, 9)⟩) ∧
    (let s := { sColl 3 with fabric := { reqs := [⟨.coll 7, 1, 0, 2, 2 ^ 62, 1, false⟩] } }
     s.lone (cRun 3) ∧ ¬ s.workDone (cRun 3)) := by
  refine ⟨?_, by decide +kernel, by decide +kernel, ?_⟩
  · intro op h
    simp only [List.mem_cons, List.not_mem_nil, or_false] at h
    rcases h with rfl | rfl | rfl | rfl | rfl | rfl
    · exact ⟨by unfold State.lone; decide +kernel, by simp only [State.workDone, show (cRun 0).op = 0 by decide +kernel]; decide +kernel⟩
    · exact ⟨by unfold State.lone; decide +kernel, by simp only [State.workDone, show (cRun 3).op = 3 by decide +kernel]; decide +kernel⟩
    · exact ⟨by unfold State.lone; decide +kernel, by
        simp only [State.workDone, show (cRun 5).op = 5 by decide +kernel]
        exact ⟨⟨2, 1, 0, [], none, 0, 0, false, some (5, 9)⟩, by decide +kernel⟩⟩
    · exact ⟨by unfold State.lone; decide +kernel, by simp only [State.workDone, show (cRun 6).op = 6 by decide +kernel]; decide +kernel⟩
    · exact ⟨by unfold State.lone; decide +kernel, by simp only [State.workDone, show (cRun 8).op = 8 by decide +kernel]; decide +kernel⟩
    · exact ⟨by unfold State.lone; decide +kernel, by simp only [State.workDone, show (cRun 10).op = 10 by decide +kernel]; decide +kernel⟩
  · exact ⟨by unfold State.lone; decide +kernel, by simp only [State.workDone, show (cRun 3).op = 3 by decide +kernel]; decide +kernel⟩
def offOf (r : Reg) (i j : Nat) : BitVec 26 := BitVec.ofNat 26 (r.addr i j)
/-- The device in phase 2. -/
def ph2 (l : List (Reg × Nat × Nat × Nat)) : State := { State.reset with regs := regsOf ((.RST_PHASE, 0, 0, 2) :: l) }
theorem witness_RegisterWrites :
    ((ready []).hostUp = true ∧ (down (ready [])).hostUp = false ∧ regAt 0x3FFFFF8 = none) ∧
    (regAt (offOf .TRC_RING_BASE 0 0).toNat = some (.TRC_RING_BASE, 0, 0) ∧ Reg.command .TRC_RING_BASE = false ∧
      (ready []).decodes ((offOf .TRC_RING_BASE 0 0).toNat / 8 * 8) = true ∧ (ready []).mayWrite ((offOf .TRC_RING_BASE 0 0).toNat / 8 * 8) = true ∧
      (ready []).locked .TRC_RING_BASE 0 = false ∧ (ready [(.TRC_RING_CTRL, 0, 0, 0x20)]).locked .TRC_RING_BASE 0 = true) ∧
    (regAt (offOf .CORE_SEQ_PC 143 0).toNat = some (.CORE_SEQ_PC, 143, 0) ∧ (ready []).locked .CORE_SEQ_PC 143 = false ∧
      (ready [(.TOP_FENCED, 0, 2, 2 ^ 15)]).locked .CORE_SEQ_PC 143 = true) := by decide +kernel
theorem witness_RegisterWrites_cut : (cut (ready [])).registerCut (Reg.addr .CORE_SEQ_PC 143 0) = true ∧
    (ready []).registerCut (Reg.addr .CORE_SEQ_PC 143 0) = false ∧ (ph2 []).decodes (Reg.addr .TRC_RING_BASE 0 0) = false ∧
    (ready [(.TRC_HUSH_STATUS, 0, 0, 3)]).mayWrite (Reg.addr .CORE_SEQ_PC 143 0) = false ∧
    (ready [(.TRC_HUSH_STATUS, 0, 0, 3)]).decodes (Reg.addr .CORE_SEQ_PC 143 0) = true := by decide +kernel
/-- A size of the Rake's ring; accesses from a stop and from the host that a lost seam channel holds. -/
theorem witness_RegisterWrites_more : regAt (offOf .RAKE_RING_SIZE 0 0).toNat = some (.RAKE_RING_SIZE, 0, 0) ∧ Reg.command .RAKE_RING_SIZE = false ∧
    (ready []).locked .RAKE_RING_SIZE 0 = false ∧ (ready []).decodes (Reg.addr .RAKE_RING_SIZE 0 0) = true ∧
    (∀ src ∈ [RegSource.host, .stop 0, .stop 47], (ready []).accessCut src (Reg.addr .CORE_SEQ_PC 143 0) false = false) ∧
    (∀ src ∈ [RegSource.host, .stop 0], (cut (ready [])).accessCut src (Reg.addr .CORE_SEQ_PC 143 0) false = true) ∧
    (cut (ready [])).accessCut (.stop 47) (Reg.addr .CORE_SEQ_PC 143 0) false = false ∧
    (down (ready [])).accessCut .host (Reg.addr .CORE_SEQ_PC 143 0) false = true := by decide +kernel
theorem witness_RegisterWrites_safe : (ready []).Safe := safe_of (by decide +kernel)
theorem witness_RegisterWriteIsCommand : (ready []).hostUp = true := by decide +kernel
theorem witness_RegisterReads : regAt (offOf .HST_ERROR 0 0).toNat = some (.HST_ERROR, 0, 0) ∧ (ready []).decodes (offOf .HST_ERROR 0 0).toNat = true ∧
    liveWord .HST_ERROR 0 = false ∧ regAt 0x3FFFFF8 = none ∧ (ph2 []).decodes (offOf .TRC_RING_BASE 0 0).toNat = false ∧
    regAt (offOf .CNT_CORE_LIVE 143 1).toNat = some (.CNT_CORE_LIVE, 143, 1) ∧ liveWord .CNT_CORE_LIVE 1 = true ∧
    (ready []).heldWord .CNT_CORE_LIVE 143 1 = none := by decide +kernel
/-- Without the right that a register needs, with it, and where a lost seam channel holds the access. -/
theorem witness_RegisterReads_rights : regAt (offOf .TRC_HUSH_SHIP 0 0).toNat = some (.TRC_HUSH_SHIP, 0, 0) ∧ readRight .TRC_HUSH_SHIP = some 1 ∧
    readRight .HST_ERROR = none ∧ (ready []).right 1 = false ∧ (ready [(.SEC_DBG_STATUS, 0, 0, 2 ^ 17)]).right 1 = true ∧
    (ready []).decodes (offOf .TRC_HUSH_SHIP 0 0).toNat = true ∧ (ready []).accessCut .host (Reg.addr .TRC_HUSH_SHIP 0 0) true = false ∧
    (cut (ready [])).accessCut .host (Reg.addr .CORE_SEQ_PC 143 0) true = true := by decide +kernel
theorem held_of {s : State} {i j : Nat} (h : i < 144) (hs : s.hushed = true) : s.heldWord .CNT_CORE_LIVE i j ≠ none := by
  simp [State.heldWord, h, hs]
theorem witness_RegisterReads_held : (ready [(.TRC_HUSH_STATUS, 0, 0, 3)]).heldWord .CNT_CORE_LIVE 143 1 ≠ none :=
  held_of (by decide) (by decide +kernel)
theorem witness_ReadsPassGranules : (ready []).plainGran 0 = true ∧ (ready []).plainGran 0x013F7FFFFFE0 = true ∧
    (ready []).plainGran 0x013F80000000 = false ∧ (ready []).hushed = false ∧ (ready []).remoteCut .seq 0 = false ∧
    (cut (run0 [])).remoteCut (.remote 0) (windowBase 143) = true := by decide +kernel
theorem witness_WritesStoreGranules : (ready []).flag F.MEM_CH_STATUS.FAILED (channelOf 0x013FFFFFFFE0) 0 = false ∧ (ready []).hushed = false ∧
    (withMem (ready []) 64 (zeroBytes 32)).readsClean 64 = true := by decide +kernel
def fRem (ws : List Nat) (got : List (Nat × Gran)) : Flight := fl .dmaRd (iw 0x20) (.remote ws got)
theorem witness_ReadResponseKept : let a := 2 ^ 62 + 9 * 2 ^ 42
    let s := withSite (run0 []) { flights := [fRem [a, a + 32] []] }
    s.sites[0].flights.Nodup ∧ (∀ h ∈ s.sites[0].flights, h ≠ fRem [a, a + 32] [] → h.phase = .queued ∨ h.phase = .done) ∧
    s.inReach 0 (a + 32) = false ∧ [a, a + 32].Nodup ∧ (fRem [a, a + 32] []).unasked = [] ∧
    (∀ f ∈ (run0 []).sites[0].flights, f.phase = .queued) := by decide +kernel
/-- A packet on the network: mask, ORD, format, length, destination core, count, granule. -/
def np (mask ord fmt len dest count gran : Nat) : NocPacket :=
  ⟨BitVec.ofNat 512 (mask * 2 ^ 256 + ord * 2 ^ 59 + fmt * 2 ^ 56 + len * 2 ^ 54 + dest * 2 ^ 24 + count * 2 ^ 16 + gran), [0, 1, 2, 3, 4, 5, 6, 7]⟩
/-- Cores 0 to 2 on sites 0, 1 and 64 (another stop), the banks of site 0 owned by DMA. -/
def mesh : State := run0 ([(.TOP_CORE_MAP, 0, 1, 1), (.TOP_CORE_MAP, 0, 2, 64)] ++ (List.range 64).map (fun b => (.CORE_BANK_OWNER, 0, b, 1)))
theorem witness_ReadResponseKept_last : let f : Flight := { sCopy.entryOf 0 wCopy .dmaRd with phase := .remote [2 ^ 62 + 9 * 2 ^ 42] [] }
    let got : List (Nat × Gran) := [(2 ^ 62 + 9 * 2 ^ 42, .valid (zeroBytes 32))]
    (∀ b ∈ [2 ^ 62 + 9 * 2 ^ 42], ∃ e ∈ got, e.1 = b) ∧ sCopy.hushed = false ∧ f.batch = none ∧
    ((bodyOf 0 f).run (Prim.apply (.want []) (Prim.apply (.got got) (withSite sCopy { flights := [f] })))).2.want = [] := by decide +kernel
theorem witness_MulticastDelivers : mesh.presentOf (nMask (np 1 0 0 3 0 1 65535)) = [0] ∧ mesh.noc.seams = [] ∧ mesh.hushed = false ∧ mesh.siteOf 0 = some 0 ∧
    mesh.deaf 0 = false ∧ (∀ k, k < 2 * (nLen (np 1 0 0 3 0 1 65535) + 1) → mesh.owns .dma 0 ((65535 + k) % 65536 / 2048) = true) ∧
    mesh.presentOf (nMask (np 8 0 0 3 0 1 0)) = [] := by decide +kernel
theorem witness_ReductionTravels :
    (nBad (np 1 1 0 3 0 1 65535) = false ∧ mesh.siteOf (nDest (np 1 1 0 3 0 1 65535)) = some 0 ∧ mesh.coreOf 0 = some 0 ∧
      nOrd (np 1 1 0 3 0 1 65535) = true ∧ mesh.presentOf (nMask (np 1 1 0 3 0 1 65535)) = [0] ∧ nPoison (np 1 1 0 3 0 1 65535) = false) ∧
    (1 < (mesh.stopInputs (nMask (np 3 1 0 0 0 1 0)) (siteStop 0) (siteStop 1)).length ∧ mesh.coreOf 1 = some 1 ∧ mesh.siteOf 1 = some 1 ∧
      mesh.noc.holds = [] ∧ 0 ∈ mesh.stopInputs (nMask (np 3 1 0 0 0 1 0)) (siteStop 0) (siteStop 1)) ∧
    (nOrd (np 3 0 0 0 0 1 0) = false ∧ siteStop 0 = siteStop 1 ∧ nCount (np 3 0 0 0 0 1 0) < (mesh.presentOf (nMask (np 3 0 0 0 0 1 0))).length) := by
  decide
def sHeld (limit : Nat) : State := { mesh with noc := { holds := [⟨none, [(132, np 3 0 0 3 0 1 65535)], limit, [], 2⟩] } }
theorem witness_ReductionTravels_held : mesh.noc.stalls = [] ∧
    (∃ k ∈ mesh.stopInputs (nMask (np 3 1 0 0 0 1 0)) (siteStop 0) (siteStop 1), k ≠ 1) ∧
    (mesh.presentOf (nMask (np 3 0 0 0 0 1 0))).length ≠ nCount (np 3 0 0 0 0 1 0) ∧ mesh.takesGrans 0 65535 8 := by
  refine ⟨by decide +kernel, by decide +kernel, by decide +kernel, by decide +kernel, by decide +kernel⟩
theorem witness_ReductionTimesOut : let p := np 3 0 0 3 0 1 65535
    (∀ l, l < 2 → (sHeld l).noc.holds.find? (fun h => h.stop == (none : Option StopId).map (·.val) && h.parts.any (fun q => nSameBut q.2 p && nFmt q.2 == nFmt p))
      = some ⟨none, [(132, p)], l, [], 2⟩) ∧ (sHeld 1).field F.TOP_FAULT_CONFIG.JOB_ACTION 0 0 = 0 ∧ nSameBut p p = true ∧ (sHeld 1).siteOf (nDest p) = some 0 ∧
    mesh.noc.holds.find? (fun h => h.stop == (none : Option StopId).map (·.val) && h.parts.any (fun q => nSameBut q.2 p && nFmt q.2 == nFmt p)) = none := by
  decide
theorem witness_ReductionTravels_cycle : mesh.noc.cycle = [] ∧
    (let p := np 4 0 0 0 2 2 0
     nBad p = false ∧ nOrd p = false ∧ mesh.siteOf (nDest p) = some 64 ∧ mesh.coreOf 64 = some 2 ∧ (mesh.presentOf (nMask p)).length ≠ nCount p ∧
       (mesh.stopInputs (nMask p) (siteStop 64) (siteStop 64)).length ≤ 1) ∧
    1 < (mesh.stopInputs (nMask (np 3 0 0 0 0 1 0)) (siteStop 0) (siteStop 1)).length := by decide +kernel
theorem witness_NetworkEvents_rest : (∀ d : ClusterId, (ready []).mowerNext d = none) ∧
    (∀ r : RingId, (ready []).host.rings[r].late = [] ∧ (ready []).host.rings[r].acted = false) ∧ (∀ j : SiteId, (ready []).sites[j].flights = []) := by
  decide +kernel
theorem witness_NetworkEvents_idle : (ready []).collIdle ∧ (ready []).rakeStill ∧ (ready []).noc.stalls = [] ∧ (ready []).fabric.transit = [] :=
  ⟨idle_of (by decide +kernel), Or.inr (Or.inr (Or.inr (by decide +kernel))), rfl, rfl⟩
theorem witness_MeshIdle : mesh.collIdle ∧ (sHeld 1).collIdle ∧ mesh.Safe ∧ (sHeld 1).Safe :=
  ⟨idle_of (by decide +kernel), idle_of (by decide +kernel), safe_of (by decide +kernel), safe_of (by decide +kernel)⟩
theorem witness_NetworkEvents : (∀ w ∈ (ready []).noc.waits, ¬ (w.row = 3 ∧ w.plane = 7)) ∧ ((0 : Nat), (0 : Nat)) ≠ (3, 7) := by decide +kernel
/-- A contribution to granule 0 in context 0. -/
def contr (ord runStart : Bool) : Contribution :=
  { ctx := 0, granule := 0, lane := 0, lanes := 1, ord := ord, runStart := runStart, order := 0, index := 0, run := 0, vals := 0x3F800000 }
def antS (es : List AntEntry) (off : List Nat) : State :=
  let s := ready [(.ANT_SPILL_BASE, 0, 0, 0), (.ANT_SPILL_LIMIT, 0, 0, 1)]
  { s with clusters := s.clusters.set 0 { ant := es, antOff := off } }
theorem witness_AnthillFolds : homeSlice (32 * (contr false false).granule.toNat) = 0 ∧
    (∃ e, antMatch (antS [(AntEntry.fresh (contr false false) 0 0)] []).clusters[0].ant (contr false false) = some e ∧ e.val.err = 0) ∧
    antMatch (antS [] []).clusters[0].ant (contr true true) = none ∧ antMatch (antS [] []).clusters[0].ant (contr true false) = none ∧
    (antWay (antS [] []).clusters[0] (antSet 0 0)).1 = some 0 ∧
    (antS [] []).field F.ANT_STATUS.FILL 0 0 < (antS [] []).field F.ANT_SPILL_LIMIT.LIMIT 0 0 ∧
    (let e := { AntEntry.fresh (contr false false) 0 0 with granule := 1025 }
     antMatch (antS [e] [1, 2, 3, 4, 5, 6, 7]).clusters[0].ant (contr false false) = none ∧
     antWay (antS [e] [1, 2, 3, 4, 5, 6, 7]).clusters[0] (antSet 0 0) = (none, some e)) := by
  refine ⟨by decide +kernel, ⟨_, rfl, by decide +kernel⟩, by decide +kernel, by decide +kernel, by decide +kernel, by decide +kernel, by decide +kernel, by decide +kernel⟩
theorem witness_AnthillFolds_held : (let x : NocInsert := ⟨143, 1, contr false false⟩
      let s := cut (ready [])
      let s := { s with noc := { s.noc with inserts := [x] } }
      s.noc.inserts.find? (fun x => x.pkt == contr false false) = some x ∧ s.insertHeld x = true ∧
        { s with noc := { s.noc with seams := [] } }.insertHeld x = false) ∧
    (ready []).noc.inserts.find? (fun x => x.pkt == contr false false) = none ∧
    (∃ e, antMatch (antS [{ AntEntry.fresh (contr false false) 0 0 with val := ⟨zeroBytes 32, poisonErr⟩ }] []).clusters[0].ant (contr false false) = some e ∧
      e.val.decode.1 = .poison) ∧
    antWay (antS [] (List.range 8)).clusters[0] (antSet 0 0) = (none, none) := by
  refine ⟨by decide +kernel, by decide +kernel, ⟨_, rfl, by decide +kernel⟩, by decide +kernel⟩
theorem witness_AnthillFolds_spills : (contr true false).ord = true ∧ (contr true false).runStart = false ∧
    (antS [] []).plainGran ((antS [] []).spillAt 0 0) = true ∧ (antS [] []).plainGran ((antS [] []).spillAt 0 0 + 32) = true ∧
    (let s := { antS [] [] with regs := regsOf [(.RST_PHASE, 0, 0, 9)] }
     ¬ s.field F.ANT_STATUS.FILL 0 0 < s.field F.ANT_SPILL_LIMIT.LIMIT 0 0 ∧ s.field F.TOP_FAULT_CONFIG.JOB_ACTION 0 0 = 0) := by decide +kernel
def rkRun (op step : Nat) : RakeRun := ⟨BitVec.ofNat 64 (op * 2 ^ 56 + step) :: List.replicate 7 0, false, 0⟩
def sRake (op : Nat) : State := { withMem (ready [(.RAKE_RING_SIZE, 0, 0, 1), (.RAKE_STATUS, 0, 0, 1)]) 0 (zeroBytes 128) with rake := { run := some (rkRun op 7), draining := true } }
theorem witness_RakeCompletes :
    (∀ o, o < 5 → rakeOp ([Instr.update, .prep, .seal, .verify, .rakeBadOp].getD o .update) = some (o + 1) ∧
      (let op := fld ((nth (rkRun (o + 1) 7).cmd 0 0).toNat) 63 56
       (if op = 0 ∨ 4 < op then 5 else op) = o + 1) ∧ (sRake (o + 1)).hushed = false ∧ (sRake (o + 1)).rakeHeld (rkRun (o + 1) 7) = false ∧ (sRake (o + 1)).rake.run = some (rkRun (o + 1) 7) ∧
      (sRake (o + 1)).rake.adopt = [] ∧ (sRake (o + 1)).readsClean ((sRake 1).rakeEntry ((sRake 1).field F.RAKE_RING_PTRS.HEAD 0 0) + 32) = true) ∧
    (sRake 0).rakeEarly (rkRun 0 7) = some 5 ∧ (sRake 5).rakeEarly (rkRun 5 7) = some 5 ∧
    (sRake 5).rakeEarly { rkRun 5 7 with bad := true } = some 8 := by decide +kernel
theorem witness_RakeCompletes_safe : (sRake 1).Safe := safe_of (by decide +kernel)
def idleRake : State := withMem (ready [(.RAKE_RING_SIZE, 0, 0, 1)]) 0 (zeroBytes 64)
theorem witness_RakeControl : idleRake.accepts .RAKE_RING_PTRS 0 0 = true ∧ idleRake.accepts .RAKE_CTRL 0 0 = true ∧
    (idleRake.rake.run = none ∧ idleRake.rake.draining = false ∧ idleRake.hushed = false ∧
      idleRake.field F.RAKE_RING_PTRS.HEAD 0 0 ≠ (1 : BitVec 32).toNat % idleRake.rakeSize ∧ idleRake.readsClean (idleRake.rakeEntry 0) = true ∧
      idleRake.readsClean (idleRake.rakeEntry 0 + 32) = true) ∧
    idleRake.field F.RAKE_RING_PTRS.HEAD 0 0 = (0 : BitVec 32).toNat % idleRake.rakeSize ∧
    idleRake.field F.RAKE_RING_PTRS.HEAD 0 0 = idleRake.field F.RAKE_RING_PTRS.TAIL 0 0 % idleRake.rakeSize ∧
    (sRake 1).rake.run = some (rkRun 1 7) ∧ (sRake 1).accepts .RAKE_CTRL 0 0 = true ∧ (sRake 1).accepts .RAKE_RING_PTRS 0 0 = true := by decide +kernel
def sScrub : State := withMem (ready [(.MEM_SCRUB_CTRL, 0, 0, 1), (.MEM_CH_STATUS, 63, 0, 1)]) (offsetAt 63 0 0) (zeroBytes 32)
theorem witness_MemoryUpkeep : (ready []).accepts .MEM_SCRUB_CTRL 0 0 = true ∧ sScrub.field F.MEM_SCRUB_CTRL.PERIOD 0 0 ≠ 0 ∧
    sScrub.flag F.MEM_CH_STATUS.USABLE 63 0 = true ∧ sScrub.channels[(63 : ChannelId)].scrub + 1 < chanGrans ∧
    sScrub.erased (offsetAt 63 (0 % 2) (0 / 2)) = none ∧ sScrub.dirtyLine (offsetAt 63 (0 % 2) (0 / 2)) = none ∧
    (let s := { sScrub with chk := [(offsetAt 63 0 0 / 32, 1)] }
     (s.stored (offsetAt 63 0 0)).decode = (.corrected [32], zeroBytes 32)) ∧
    (∀ syms, (sScrub.stored (offsetAt 63 0 0)).decode.1 ≠ .corrected syms) ∧ 95 ≤ (255 : Byte).toNat ∧ (94 : Byte).toNat < 95 := by
  refine ⟨by decide +kernel, by decide +kernel, by decide +kernel, by decide +kernel, by decide +kernel, by decide +kernel, by decide +kernel, ?_, by decide +kernel,
    by decide +kernel⟩
  intro syms h
  exact absurd (h ▸ (by decide +kernel : (sScrub.stored (offsetAt 63 0 0)).decode.1 = GOut.clean)) (by simp)
theorem witness_MemoryUpkeep_safe : sScrub.Safe := safe_of (by decide +kernel)
def sFill : State := ready [(.MEM_FILL_CTRL, 0, 0, 2 ^ 62 + 2), (.MEM_FILL_BASE, 0, 0, 0x60)]
theorem witness_FillActs : (ready []).accepts .MEM_FILL_CTRL 0 0 = true ∧ (ready []).flag F.MEM_FILL_CTRL.BUSY 0 0 = false ∧
    (0 : Word).toNat % 2 ^ 36 = 0 ∧ (1 : Word).toNat % 2 ^ 36 ≠ 0 ∧ sFill.flag F.MEM_FILL_CTRL.BUSY 0 0 = true ∧ 
    (∀ k, k < sFill.field F.MEM_FILL_CTRL.LEN 0 0 → sFill.plainGran (32 * sFill.field F.MEM_FILL_BASE.BASE 0 0 + 32 * k) = true) := by decide +kernel
/-- Device 5, ready, its link 63 up. -/
def dev (l : List (Reg × Nat × Nat × Nat)) : State := ready ((.MGT_ID, 0, 0, 0x00B0410000000005) :: (.FAB_LINK_STATUS, 63, 0, 9 * 2 ^ 49 + 2) :: l)
/-- A packet: OP, LEN, source, destination, SPACE, offset, words 2 and 3, granules; other fields 0. -/
def pk (op len src dst space off w2 w3 : Nat) (gs : List (BitVec 288)) : Packet :=
  ⟨BitVec.ofNat 64 (op * 2 ^ 60 + len * 2 ^ 54 + src * 2 ^ 30), BitVec.ofNat 64 (space * 2 ^ 62 + dst * 2 ^ 42 + off), BitVec.ofNat 64 w2, BitVec.ofNat 64 w3, gs⟩
theorem takes_of {s : State} {l : Option LinkId} {p q : Packet} {op : Nat}
    (h : (s.inputUp l && !pBad p && pOp p == op && s.route p == (.here, q)) = true) : s.takesPacket l p op q := by
  simpa [State.takesPacket, Bool.and_eq_true, and_assoc] using h
def sDev : State := withMem (dev [(.TOP_CORE_MAP, 0, 0, 0)]) 64 (zeroBytes 32)
def pLoad : Packet := pk 0 8 9 5 1 (0x013F80000000 - 256) 0 0 []
def pStore : Packet := pk 2 8 9 5 1 (0x013F80000000 - 256) (2 ^ 63 + 3 * 2 ^ 52) 0 (List.replicate 8 7)
def pAtom (op : Nat) : Packet := pk op 1 9 5 1 88 0 0 [1]
/-- A STORE to the window of site 0. -/
def pWin : Packet := pk 2 1 9 5 1 (windowBase 0) 0 0 [7]
theorem witness_RequestsServed_wait : (cut sDev).takesPacket (some 63) (pk 0 1 9 5 1 0 0 0 []) 0 (pk 0 1 9 5 1 0 0 0 []) ∧
    (cut sDev).serveCut (some 63) (pk 0 1 9 5 1 0 0 0 []) = true ∧ sDev.serveCut (some 63) pLoad = false ∧
    (let s := dev [(.TOP_CORE_MAP, 0, 0, 0), (.TRC_HUSH_STATUS, 0, 0, 3)]
     s.takesPacket (some 63) pWin 2 pWin ∧ s.serveCut (some 63) pWin = false ∧ s.coreStopped pWin = true) :=
  ⟨takes_of (by decide +kernel), by decide +kernel, by decide +kernel, takes_of (by decide +kernel), by decide +kernel⟩
theorem witness_RequestsServed : sDev.Safe ∧ sDev.collIdle ∧
    (sDev.takesPacket (some 63) pLoad 0 pLoad ∧ badWord1 pLoad = false ∧ pSpace pLoad = 1 ∧ ∀ k, k < pLen pLoad → sDev.plainGran (granOff pLoad k) = true) ∧
    (sDev.takesPacket none pStore 2 pStore ∧ pTc pStore = 0 ∧ sDev.siteOf 0 = some 0 ∧ sDev.deaf 0 = false ∧
      (∀ k, k < pStore.grans.length → sDev.plainGran (granOff pStore k) = true)) ∧
    (∀ op, op = 3 ∨ op = 4 → sDev.takesPacket none (pAtom op) op (pAtom op) ∧ sDev.readsClean (granOff (pAtom op) 0) = true) := by
  refine ⟨safe_of (by decide +kernel), idle_of (by decide +kernel), ⟨takes_of (by decide +kernel), by decide +kernel⟩, ⟨takes_of (by decide +kernel), by decide +kernel⟩, ?_⟩
  rintro op (rfl | rfl) <;> exact ⟨takes_of (by decide +kernel), by decide +kernel⟩
def freq (op : Nat) : FReq := ⟨.core 0 .dmaRd 0, 1, 0, op, 2 ^ 62 + 9 * 2 ^ 42, 2, false⟩
/-- Requests of a LOAD, an atomic and a STORE to device 9, a LOAD awaiting two granules and one more. -/
def sAsk : State := let a := 2 ^ 62 + 9 * 2 ^ 42
  { withSite sDev { flights := [fRem [a, a + 32, a + 64] []] } with fabric := { reqs := [freq 0, freq 3, freq 2] } }
def pResp (op len : Nat) (w2 : Nat) : Packet := pk op len 9 5 1 0 w2 0 (List.replicate len 7)
theorem witness_ResponsesTaken : sAsk.collIdle ∧ sAsk.fabric.held = [] ∧
    (sAsk.takesPacket (some 63) (pResp 1 2 1) 1 (pResp 1 2 1) ∧ pStatus (pResp 1 2 1) = 0 ∧ sAsk.reqOf (pResp 1 2 1) (· == 0) = some (freq 0) ∧
      sAsk.sites[0].flights.find? (fun f => f.unit == .dmaRd && f.pc == 0 && f.phase != .done && f.phase != .queued) ≠ none ∧
      sAsk.inReach 0 (2 ^ 62 + 9 * 2 ^ 42 + 64) = false) ∧
    (sAsk.takesPacket (some 63) (pResp 5 1 1) 5 (pResp 5 1 1) ∧ sAsk.reqOf (pResp 5 1 1) (fun o => o == 3 || o == 4) = some (freq 3)) ∧
    (sAsk.takesPacket (some 63) (pResp 6 0 (2 ^ 32)) 6 (pResp 6 0 (2 ^ 32)) ∧ sAsk.covered (pResp 6 0 (2 ^ 32)) = [freq 2]) ∧
    (sDev.takesPacket (some 63) (pResp 6 0 (255 * 2 ^ 16)) 6 (pResp 6 0 (255 * 2 ^ 16)) ∧ pStatus (pResp 6 0 (255 * 2 ^ 16)) = 255 ∧ sDev.fabric.reqs = []) :=
  ⟨idle_of (by decide +kernel), by decide +kernel, ⟨takes_of (by decide +kernel), by decide +kernel⟩, ⟨takes_of (by decide +kernel), by decide +kernel⟩, ⟨takes_of (by decide +kernel), by decide +kernel⟩,
    takes_of (by decide +kernel), by decide +kernel⟩
def sRoute : State := dev [(.FAB_ROUTE_DEV, 0, 9, 2 ^ 31 + 63 * 2 ^ 24)]
def pFar (hop : Nat) : Packet := { pk 0 1 3 9 1 0 0 0 [] with w0 := BitVec.ofNat 64 (2 ^ 54 + hop * 2 ^ 51 + 3 * 2 ^ 30) }
def pResp' (d : Nat) : Packet := pk 1 1 3 d 1 0 1 0 [7]
theorem witness_PacketsRouted : fabricCmd (.loadPacket (some 63) (pFar 4)) = some (some 63, pFar 4, 0) ∧ (ready []).inputUp (some 63) = false ∧
    sRoute.inputUp (some 63) = true ∧ pBad (pFar 4) = false ∧ pOp (pFar 4) = 0 ∧ sRoute.route (pFar 4) = (.link 63, pFar 4) ∧
    sRoute.transitCut 63 63 = false ∧ (cut sRoute).transitCut 0 63 = true ∧ ((dev []).route (pResp' 9) = (.unreachable, pResp' 9) ∧ pRequest (pResp' 9) = false) ∧
    pHop (pFar 4) < 5 ∧ 5 ≤ pHop (pFar 5) ∧ pBad (pk 0 0 3 9 1 0 0 0 []) = true ∧ pBad (pk 0 9 3 9 1 0 0 0 []) = true := by decide +kernel
def sTree : State := dev [(.FAB_TREE, 0, 0, 2 ^ 63 + 2 ^ 61 + 64 * 2 ^ 54), (.FAB_TREE_LINKS, 0, 0, 2 ^ 63), (.FAB_TREE, 0, 1, 2 ^ 63 + 2 ^ 62 + 2 ^ 61 + 2 ^ 34),
  (.TOP_CORE_MAP, 0, 0, 0)]
def pRed : Packet := { pk 7 1 9 5 1 0 0 0 [7] with w0 := BitVec.ofNat 64 (7 * 2 ^ 60 + 2 ^ 54 + 2 ^ 50 + 9 * 2 ^ 30) }
def pCast : Packet := pk 8 8 9 5 1 (0x013F80000000 - 256) (2 ^ 63 + 15 * 2 ^ 52) (2 ^ 8) (List.replicate 8 7)
theorem witness_TreesServed : sTree.collIdle ∧ sTree.inputUp (some 63) = true ∧
    (pBad pRed = false ∧ pOp pRed = 7 ∧ sTree.treeServes pRed 0 = true ∧ sTree.epochDiffers pRed = false ∧ sTree.fabric.holds = [] ∧
      sTree.treeReady ⟨pTag pRed, [(some 63, pRed)]⟩ = false) ∧
    (pBad pCast = false ∧ pOp pCast = 8 ∧ sTree.treeServes pCast 1 = true ∧ sTree.epochDiffers pCast = false ∧
      sTree.tree (pTag pCast) F.FAB_TREE_LINKS.LINKS = 0 ∧ sTree.tree (pTag pCast) F.FAB_TREE.LOCAL = 1 ∧
      (∀ k, k < pCast.grans.length → sTree.plainGran (granOff pCast k) = true) ∧ sTree.siteOf (fld pCast.w2.toNat 62 56) = some 0 ∧ sTree.deaf 0 = false) ∧
    (sDev.treeServes pRed 0 = false ∧ sDev.treeServes pCast 1 = false ∧ sDev.inputUp (some 63) = true) ∧
    (let s := { sTree with fabric := { holds := [⟨0, [(some 63, pRed)]⟩] } }
     s.fabric.holds.find? (fun h => h.tag == (0 : BitVec 16).toNat && h.parts.any (fun q => q.2.w1.toNat == pRed.w1.toNat)) ≠ none ∧
     s.field F.FAB_CONFIG.RED_TIMEOUT 0 0 ≠ 0) ∧
    (let s := { sTree with fabric := { holds := List.replicate 256 ⟨1, [(none, pCast)]⟩ } }
     256 ≤ s.fabric.holds.length ∧ ∀ h ∈ s.fabric.holds, ∀ x ∈ h.parts, sameSpot x.2 pRed = false) :=
  ⟨idle_of (by decide +kernel), by decide +kernel, by decide +kernel, by decide +kernel, by decide +kernel, by decide +kernel, by decide +kernel⟩
/-- A granule of a key of a barrier: SEQ 1, TAG 2. -/
def gKey : BitVec 288 := burstOf (.valid (toBytes 8 0 ++ toBytes 8 (2 * 2 ^ 48 + 1) ++ zeroBytes 16))
def gBeat : BitVec 288 := burstOf (.valid (toBytes 8 0 ++ toBytes 8 0x0BB801050009 ++ zeroBytes 16))
def pBeat (kind : Nat) (g : BitVec 288) : Packet := pk 10 1 9 5 1 0 kind 0 [g]
def pTime (w3 : Nat) : Packet := pk 9 0 9 5 1 0 2000 w3 []
def sTime (locked : Bool) : State :=
  { dev [(.FAB_TIME_CONFIG, 0, 0, 9 * 2 ^ 32), (.FAB_ROUTE_DEV, 0, 9, 2 ^ 31 + 63 * 2 ^ 24), (.FAB_TIME_STATUS, 0, 0, if locked then 2 ^ 63 else 0)] with now := 10 }
theorem witness_SyncAndTime : sDev.collIdle ∧
    (sDev.takesPacket (some 63) (pBeat 0 gBeat) 10 (pBeat 0 gBeat) ∧ fld (pBeat 0 gBeat).w2.toNat 7 0 = 0 ∧ (granOf gBeat).err = 0 ∧
      sDev.field F.FAB_LINK_STATUS.PEER_DEV 63 0 = pSrc (pBeat 0 gBeat) ∧ sDev.flag F.PWR_HB_CONFIG.COLLECT 0 0 = false) ∧
    (let s := dev [(.PWR_HB_CONFIG, 0, 0, 2)]
     s.flag F.PWR_HB_CONFIG.COLLECT 0 0 = true ∧ s.plainGran ((32 * s.field F.PWR_HB_TABLE.BASE 0 0 + 32 * 9) % 2 ^ 41) = true) ∧
    (sDev.takesPacket (some 63) (pBeat 1 gKey) 10 (pBeat 1 gKey) ∧ (granOf gKey).err = 0 ∧ (∀ r, r < 256 → sDev.keyGone 2 1 r = false) ∧ sDev.coll.keys = [] ∧ sDev.hushed = false) ∧
    (let k : BarrierKey := ⟨9, 1, 0, [], none, 0, 0, false, none⟩
     let s := { sDev with coll := { keys := List.replicate 16 k } }
     16 ≤ s.coll.keys.length ∧ s.keyGone 2 1 0 = false ∧ k.ready = false ∧ k.done = none ∧ (k.tag, k.seq, k.round) ≠ syncKey (granOf gKey) ∧
       (dev [(.TRC_HUSH_STATUS, 0, 0, 3)]).hushed = true) ∧ (sTime false).ownId ≠ (sTime false).field F.FAB_TIME_CONFIG.GM 0 0 ∧
    (ready [(.FAB_TIME_CONFIG, 0, 0, 9 * 2 ^ 32), (.FAB_LINK_STATUS, 63, 0, 2)]).timeParent = none ∧
    ((dev []).inputUp (some 63) = true ∧ pBad (pTime 1) = false ∧ pOp (pTime 1) = 9 ∧
      (dev [(.FAB_TIME_CONFIG, 0, 0, 5 * 2 ^ 32)]).ownId = (dev [(.FAB_TIME_CONFIG, 0, 0, 5 * 2 ^ 32)]).field F.FAB_TIME_CONFIG.GM 0 0 ∧
      (sTime false).ownId ≠ (sTime false).field F.FAB_TIME_CONFIG.GM 0 0 ∧ (sTime false).field F.FAB_ROUTE_DEV.VALID 0 9 = 1 ∧
      (sTime false).field F.FAB_ROUTE_DEV.LINK 0 9 = 63) ∧
    sDev.linkIsUp 63 = true ∧ sDev.linkIsUp 0 = false :=
  ⟨idle_of (by decide +kernel), ⟨takes_of (by decide +kernel), by decide +kernel⟩, by decide +kernel, ⟨takes_of (by decide +kernel), by decide +kernel⟩, by decide +kernel, by decide +kernel, by decide +kernel, by decide +kernel, by decide +kernel⟩
def withLink (s : State) (k : Link) : State := { s with links := s.links.set 63 k }
def goodFlit : BitVec 2048 := dataFlit 0 5 63 []
theorem witness_LinkTraffic : (ready []).linkIsUp 63 = false ∧ sDev.linkIsUp 63 = true ∧ flitOk 0 = false ∧ flitOk goodFlit = true ∧
    flitFld goodFlit 63 60 = 0 ∧ flitFld goodFlit 59 48 = sDev.links[(63 : LinkId)].expectSeq ∧
    parseBody sDev.links[(63 : LinkId)].partialRx (flitFld goodFlit 34 29) (slice (toBytes 256 goodFlit.toNat) 8 244) = ([], []) ∧
    (flitOk (creditFlit 7 47 2047) = true ∧ flitFld (creditFlit 7 47 2047) 63 60 = 1 ∧ (creditFlit 7 47 2047).toNat.testBit 35 = false ∧
      sDev.links[(63 : LinkId)].txq = [] ∧ sDev.fabric.holds = [] ∧ sDev.fabric.stalls = []) ∧
    (flitOk (mgmtFlit 7 9 3 0) = true ∧ flitFld (mgmtFlit 7 9 3 0) 63 60 = 2 ∧ sDev.field F.FAB_LINK_STATUS.STATE 63 0 ∈ [1, 2, 3]) ∧
    (let s := withLink sDev { replay := [(0, goodFlit)], replays := [6] }
     s.linkIsUp 63 = true ∧ s.links[(63 : LinkId)].replay ≠ [] ∧ nth s.links[(63 : LinkId)].replayed 0 0 < 8) := by decide +kernel
theorem witness_LinkTraffic_idle : sDev.collIdle := idle_of (by decide +kernel)
/-- Link 63 in a state, mapped to link 3 of device 9. -/
def sLink (st : Nat) : State := ready [(.MGT_ID, 0, 0, 5), (.FAB_LINK_STATUS, 63, 0, st), (.OPT_IMAGE, 0, 39, (2 ^ 31 + 3 * 2 ^ 15 + 9) * 2 ^ 32)]
def tr (lanes : Fin 3) (d : Nat) : Training := ⟨lanes, BitVec.ofNat 15 d, 3⟩
theorem witness_LinkStates : (∀ st, st < 3 → (sLink st).accepts .FAB_LINK_CTRL 63 0 = true ∧ (sLink st).field F.FAB_LINK_STATUS.STATE 63 0 = st) ∧
    (sLink 0).accepts .FAB_CONFIG 0 0 = true ∧ (sLink 2).linkIsUp 63 = true ∧ (sLink 0).linkIsUp 63 = false ∧ (sLink 0).mapped 63 = true ∧
    ((tr 1 9).peerDev.toNat = (sLink 1).mapPeerDev 63 ∧ (tr 1 9).peerLink.val = (sLink 1).mapPeerLink 63) ∧
    (tr 2 8).peerDev.toNat ≠ (sLink 1).mapPeerDev 63 ∧ (withLink (sLink 1) { fails := 2 }).links[(63 : LinkId)].fails < 3 ∧
    3 ≤ (withLink (sLink 1) { fails := 3 }).links[(63 : LinkId)].fails ∧ (withLink (sLink 2) { laneCmd := 1 }).links[(63 : LinkId)].laneCmd ≠ 0 ∧
    (withLink (sLink 2) { laneCmd := 1 }).linkIsUp 63 = true := by decide +kernel
def rc (w : List Nat) : RingCmd :=
  let x k := BitVec.ofNat 64 (w.getD k 0)
  ⟨x 0, x 1, x 2, x 3, x 4, x 5, x 6, x 7⟩
def withRing (s : State) (r : RingId) (x : Ring) : State := { s with host := { s.host with rings := s.host.rings.set r x } }
/-- A ring, a command in it, everything mapped: core 0 on site 0, 32 zero bytes of LPDDR6 at 0. -/
def sRing (r : RingId) (c : RingCmd) (l : List (Reg × Nat × Nat × Nat) := []) : State :=
  withRing (withMem (ready ((.TOP_CORE_MAP, 0, 0, 0) :: (.HST_RING_CTRL, r.val, 0, 9) :: l)) 0 (zeroBytes 32)) r { queue := [c] }
theorem executes_of {s : State} {r : RingId} {c : RingCmd} {rest : List RingCmd}
    (h : (s.flag F.HST_RING_CTRL.BUSY r 0 && s.host.rings[r].queue == c :: rest && s.host.rings[r].status == 0 &&
      s.host.rings[r].detail == 0) = true) : s.executes r c rest := by simpa [State.executes, Bool.and_eq_true, and_assoc] using h
def op (n : Nat) : Nat := n * 2 ^ 56
def cH2D : RingCmd := rc [op 1, 0, 0x1000, 513 / 32 * 32 + 32]
def cD2H : RingCmd := rc [op 2, 0, 0, 32]
def cHalt (abort : Nat) : RingCmd := rc [op 4, 0, 0, abort, 1]
def cSig : RingCmd := rc [op 5, 15, 0, 0, 1, 2, 3, 4]
def cReg : RingCmd := rc [op 6, Reg.addr .TRC_RING_BASE 0 0, 0x20]
theorem witness_RingCommands :
    (∀ n, n < 8 → (sRing 15 (rc [op n])).executes 15 (rc [op n]) [] ∧ (sRing 15 (rc [op n])).Safe ∧ (sRing 15 (rc [op n])).collIdle ∧
      Sys2Proof.Machine.ringOp (rc [op n]) = n) ∧
    ((sRing 0 cH2D).executes 0 cH2D [] ∧ fld (al32 cH2D.w2) 63 62 < 2 ∧ al32 cH2D.w3 ≠ 0 ∧ al32 (rc [op 1]).w3 = 0 ∧
      2 ≤ fld (al32 (rc [op 1, 0, 2 ^ 63]).w2) 63 62) ∧
    ((sRing 0 cD2H).executes 0 cD2H [] ∧ (∀ k, k < 1 → (sRing 0 cD2H).readsClean (al32 cD2H.w1 + 32 * (0 + k)) = true ∧ (sRing 0 cD2H).reqHeld hostReq (al32 cD2H.w1 + 32 * (0 + k)) = false) ∧ al32 cD2H.w3 ≠ 0 ∧
      (sRing 0 cD2H).chunkTurn 0 = true ∧ (sRing 0 cD2H).host.rings[0].moved = 0 ∧ fld (al32 cD2H.w1) 63 62 < 2 ∧
      2 ≤ fld (al32 (rc [op 2, 2 ^ 63]).w1) 63 62 ∧ al32 (rc [op 2]).w3 = 0) ∧
    ((sRing 0 (rc [op 3, 16, 0, 0, 1])).named 0 (rc [op 3, 16, 0, 0, 1]) = [0] ∧
      (sRing 0 (rc [op 3, 16, 0, 0, 1])).field F.CORE_SEQ_STATUS.STATE (0 : SiteId) 0 = 0 ∧ (sRing 0 (rc [op 3, 16, 0, 0, 1])).deaf 0 = false) ∧
    ((cHalt 1).w3.toNat.testBit 0 = true ∧ (cHalt 0).w3.toNat.testBit 0 = false ∧
      (∀ i ∈ (sRing 0 (cHalt 0)).named 0 (cHalt 0), (sRing 0 (cHalt 0)).field F.CORE_SEQ_STATUS.STATE i 0 = 0) ∧
      (let s := withSite (sRing 0 (cHalt 0) [(.CORE_SEQ_STATUS, 0, 0, 1)]) { flights := [fl .dmaRd 0 .done] }
       (0 : SiteId) ∈ s.named 0 (cHalt 0) ∧ s.running 0 = true ∧ s.sites[0].rows = [] ∧ s.sites[0].flights ≠ [] ∧ s.executes 0 (cHalt 0) [])) ∧
    ((sRing 0 cSig).executes 0 cSig [] ∧ (sRing 0 cSig).plainGran (al32 cSig.w2) = true ∧ (sRing 0 cSig).siteOf (fld cSig.w1.toNat 10 4) = some 0 ∧
      (sRing 0 cSig).reqHeld hostReq (al32 cSig.w2) = false ∧ (sRing 0 cSig).hushed = false ∧ (sRing 0 cSig).deaf 0 = false ∧
      (sRing 0 cSig).host.rings[0].late = [] ∧ (sRing 0 cSig).host.rings[0].acted = false ∧
      (sRing 0 cSig).ringAwaits 0 = false ∧ 2 ≤ fld (al32 (rc [op 5, 0, 2 ^ 63]).w2) 63 62) ∧
    ((sRing 0 cReg).executes 0 cReg [] ∧ regAt cReg.w1.toNat = some (.TRC_RING_BASE, 0, 0) ∧ (sRing 0 cReg).locked .TRC_RING_BASE 0 = false ∧ (sRing 0 cReg).registerCut (cReg.w1.toNat / 8 * 8) = false ∧
      (sRing 0 cReg).decodes (cReg.w1.toNat / 8 * 8) = true ∧ (sRing 0 cReg).mayWrite (cReg.w1.toNat / 8 * 8) = true ∧
      0x4000000 ≤ (rc [op 6, 0x4000000]).w1.toNat) := by
  refine ⟨?_, ⟨executes_of (by decide +kernel), by decide +kernel⟩, ⟨executes_of (by decide +kernel), by decide +kernel⟩, by decide +kernel,
    ⟨by decide +kernel, by decide +kernel, by decide +kernel, by decide +kernel, by decide +kernel, by decide +kernel, by decide +kernel, executes_of (by decide +kernel)⟩, ⟨executes_of (by decide +kernel), by decide +kernel⟩,
    executes_of (by decide +kernel), by decide +kernel⟩
  intro n hn
  refine ⟨executes_of ?_, safe_of ?_, idle_of ?_, ?_⟩ <;> revert n <;> decide +kernel
theorem witness_RingControl : (ready []).accepts .HST_RING_PTRS 15 0 = true ∧ (ready []).accepts .HST_RING_CTRL 15 0 = true ∧ (ready []).accepts .HST_CQ_PTRS 15 0 = true ∧
    ((ready [(.HST_RING_CTRL, 15, 0, 1)]).flag F.HST_RING_CTRL.BUSY 15 0 = false ∧ (ready [(.HST_RING_CTRL, 15, 0, 1)]).flag F.HST_RING_CTRL.ENABLE 15 0 = true ∧
      (ready []).field F.HST_RING_PTRS.HEAD 15 0 ≠ (9 : BitVec 32).toNat % (ready []).ringSize 15 ∧
      (ready [(.HST_RING_PTRS, 15, 0, 9)]).field F.HST_RING_PTRS.TAIL 15 0 % 16 ≠ 0) ∧
    ((sRing 15 (rc [])).flag F.HST_RING_CTRL.BUSY 15 0 = true ∧ (sRing 15 (rc [])).host.rings[(15 : RingId)].queue ≠ [] ∧
      (sRing 15 (rc [])).host.rings[(15 : RingId)].record = none) ∧
    (let s := withRing (ready []) 15 { record := some (zeroBytes 32) }
     s.host.rings[(15 : RingId)].record = some (zeroBytes 32) ∧ (s.field F.HST_CQ_PTRS.TAIL 15 0 % s.cqSize 15 + 1) % s.cqSize 15 ≠ (0 : BitVec 32).toNat % s.cqSize 15) ∧
    (withRing (ready []) 15 { unsignal := 1 }).host.rings[(15 : RingId)].unsignal ≠ 0 ∧ (ready []).host.rings[(15 : RingId)].unsignal = 0 := by decide +kernel
theorem witness_RingControl_idle : (let s := ready [(.HST_RING_PTRS, 15, 0, 9 * 2 ^ 32)]
     s.flag F.HST_RING_CTRL.BUSY 15 0 = false ∧ s.host.rings[(15 : RingId)].queue = [] ∧ s.host.rings[(15 : RingId)].asked = 0 ∧
     s.host.rings[(15 : RingId)].draining = false ∧ s.host.rings[(15 : RingId)].record = none ∧
     s.field F.HST_RING_PTRS.HEAD 15 0 % s.ringSize 15 ≠ s.field F.HST_RING_PTRS.TAIL 15 0 % s.ringSize 15) := by decide +kernel
theorem witness_HostEvents : (ready []).accepts .MSIX_CTRL 0 255 = true ∧ (ready []).accepts .HST_IRQ_CAUSE 0 0 = true ∧ (ready []).accepts .HST_SITE_CAUSE 0 2 = true ∧
    ((ready [(.MSIX_PBA, 0, 3, 2 ^ 63)]).reg .MSIX_PBA 0 3).testBit 63 = true ∧ (ready []).host.linkUp = true ∧ (ready []).host.d3 = false ∧
    (ready []).flag F.MSIX_CTRL.MASK 0 0 = true ∧ (ready [(.MSIX_CTRL, 0, 0, 0)]).flag F.MSIX_CTRL.MASK 0 0 = false ∧
    (let s := { ready [] with rst := { perst := false } }
     s.field F.RST_STRAPS.CLK_MODE 0 0 = 0 ∧ s.rst.perst = false ∧ s.field F.RST_PHASE.PHASE 0 0 ≠ 1) ∧
    (ready [(.HST_PTM_CTRL, 0, 0, 0x10000)]).flag F.HST_PTM_CTRL.ENABLE 0 0 = true ∧ 3 < (ready []).field F.RST_PHASE.PHASE 0 0 ∧
    (ready [(.RST_PHASE, 0, 0, 3)]).field F.RST_PHASE.PHASE 0 0 ≤ 3 ∧ { ready [] with host := { linkUp := true } }.host.memEn = false ∧
    (down (ready [])).host.linkUp = false := by decide +kernel
def hRead (o : Origin) (len : Nat) : HRead := ⟨7, o, 0, len, 0x013F80000000 - 512, 0⟩
def sReads (q : HRead) : State := let s := ready []; { s with host := { s.host with reads := [q] } }
theorem witness_HostMemory :
    ((withMem (ready []) 64 (zeroBytes 32)).bar2Open 64 32 = true ∧ (withMem (ready []) 64 (zeroBytes 32)).readsClean 64 = true ∧ (down (ready [])).bar2Open 64 32 = false ∧
      (withMem (ready []) 64 (zeroBytes 32)).bar2Open 95 1 = true ∧ (withMem (ready []) 64 (zeroBytes 32)).bar2Held 64 32 = false ∧
      (cut (ready [])).bar2Held (windowBase 143) 32 = true) ∧
    (let q := hRead (.ring 15) 512
     (sReads q).host.reads.find? (fun q => q.tag == 7) = some q ∧ (∀ k, k < q.len / 32 → (sReads q).plainGran (q.dest + 32 * k) = true) ∧
      (∀ k, k < q.len / 32 → (sReads q).reqHeld hostReq (q.dest + 32 * k) = false) ∧ (sReads q).host.rings[(15 : RingId)].late = [] ∧
      (sReads q).flag F.HST_RING_CTRL.BUSY 15 0 = false ∧ (zeroBytes 512).length = q.len ∧ (sReads q).host.waiting = []) ∧
    (let q := hRead (.fetch 15) 64
     (sReads q).host.reads.find? (fun q => q.tag == 7) = some q ∧ (sReads q).host.linkUp = true ∧ (sReads q).host.waiting = [] ∧
      (sReads q).host.rings[(15 : RingId)].parts = [] ∧ (sReads q).host.reads.erase q = []) ∧
    (∀ q ∈ (ready []).host.reads, q.tag ≠ 7) := by decide +kernel
theorem witness_HostMemory_idle : (sReads (hRead (.ring 15) 512)).collIdle ∧ (sReads (hRead (.ring 15) 512)).Safe := ⟨idle_of (by decide +kernel), safe_of (by decide +kernel)⟩
/-- A device in a phase of start-up. -/
def ph (p : Nat) (l : List (Reg × Nat × Nat × Nat) := []) : State :=
  { State.reset with regs := regsOf ((.RST_PHASE, 0, 0, p) :: l), rst := { perst := false }, host := open' }
def req (s : State) (l : List Nat) : State := { s with rst := { s.rst with requests := l } }
theorem witness_ResetsTake :
    resetOf (req (ph 9) [0]) (.coldReset 3) = some (4, false, false, 3, []) ∧ resetOf (req (ph 9) [1]) (.warmReset 3 [0]) = some (4, true, false, 3, [0]) ∧
    resetOf (ph 9) (.watchdogExpiry 3 []) = some (5, true, false, 3, []) ∧ resetOf (ph 9) (.perstAssert []) = some (3, true, false, 0, []) ∧
    resetOf (ph 9) (.brownOut none) = some (2, false, true, 0, []) ∧ resetOf (ph 4) .inputOvervoltage = some (2, false, true, 0, []) ∧
    resetOf (ph 9) (.thermalTrip 0 480) = some (6, false, true, 0, []) ∧ (ph 9).phase ≠ 4 ∧ (ph 4).phase = 4 := by
  refine ⟨?_, ?_, ?_, ?_, ?_, ?_, ?_, ?_⟩ <;> decide +kernel
/-- A trip just before, in the same cycle: it prevails over a warm reset, and a cold one of a higher place prevails over it. -/
def sTwo : State := { ph 1 with rst := { perst := false, requests := [0], cycle := some ⟨0, 6, 9, 1⟩ } }
theorem witness_ResetsTake_cycle : (sTwo.rst.dark = false ∧ sTwo.phaseMet = 9 ∧ sTwo.outranked 1 5 = true ∧ sTwo.outranked 0 4 = false) ∧
    resetOf sTwo (.coldReset 3) = some (4, false, false, 3, []) ∧ resetOf sTwo (.watchdogExpiry 3 []) = some (5, true, false, 3, []) ∧
    ((ph 9).outranked 0 4 = false ∧ (ph 1).railsReady = true ∧ { ph 1 with rst := { inputUp := false } }.railsReady = false) := by
  refine ⟨?_, ?_, ?_, ?_⟩ <;> decide +kernel
theorem witness_ResetsTake_idle : (∀ i : SiteId, (ph 9).sites[i].flights = []) ∧ (ph 9).rake.run = none ∧
    (ph 9).flag F.MEM_FILL_CTRL.BUSY 0 0 = false ∧ (ph 9).rst.dark = false ∧ { ph 9 with rst := { dark := true } }.rst.dark = true ∧
    resetOf { ph 9 with rst := { dark := true } } (.brownOut none) = some (2, false, true, 0, []) ∧
    (resetOf (req (ph 4) [0]) (.coldReset 3) = some (4, false, false, 3, []) ∧ (ph 4).rst.dark = false) := by
  refine ⟨?_, ?_, ?_, ?_, ?_, ?_, ?_, ?_⟩ <;> decide +kernel
theorem witness_ResetsRequested : (ph 9).accepts .RST_CMD 0 0 = true ∧ badCmd 1 .full = true ∧
    (∃ v : Word, badCmd v.toNat .full = false) ∧ (ph 9).rst.requests.contains (2 + 127) = false ∧
    (let s := req (ph 9 [(.TOP_CORE_MAP, 0, 127, 143)]) [2 + 127]
     s.rst.requests.contains (2 + 127) = true ∧ s.siteOf 127 = some 143 ∧ s.sites[(143 : SiteId)].flights = [] ∧ s.sites[(143 : SiteId)].rows = []) ∧
    (req (ph 9) [2 + 127]).siteOf 127 = none ∧
    (let s := { ph 3 with rst := { requests := [2], cycle := some ⟨0, 3, 9, 3⟩ } }
     s.rst.requests.contains 2 = true ∧ s.resetSeen = some ⟨0, 3, 9, 3⟩) ∧ (ph 9).resetSeen = none ∧
    (let s := req (ph 9 [(.TOP_CORE_MAP, 0, 127, 143)]) [2 + 127]
     s.sites[(143 : SiteId)].hint = none ∧ s.clusters[clusterOf 143].mow = [] ∧ s.mowerNext (clusterOf 143) = none) ∧
    (ph 9).rst.requests.contains 0 = false ∧ (ph 9).rst.requests.contains 1 = false ∧ State.reset.rst.perst = true ∧ (479 : BitVec 16).toInt < 480 := by
  refine ⟨by decide +kernel, by decide +kernel, ⟨BitVec.ofNat 64 (0xA5C3 * 2 ^ 48 + 2), ?_⟩, by decide +kernel⟩
  decide
/-- An option image of format 1 with a valid CRC. -/
def goodImage : List Byte := let b := toBytes 2 1 ++ zeroBytes 1018; b ++ toBytes 4 (crc32c b)
theorem witness_StartUp : State.reset.Safe ∧
    ((ph 2).phase = 2 ∧ (ph 3).phase ≠ 2) ∧
    ((ph 1).phase = 1 ∧ (ph 1).rst.inputUp = true ∧ (ph 1).rst.hot = [] ∧ State.reset.phase = 1 ∧ State.reset.rst.perst = true ∧ (ph 1).rst.perst = false) ∧
    ((ph 3).phase = 3 ∧ (ph 3).field F.RST_PHASE.FAIL 0 0 = 0) ∧ ((ph 4).phase = 4 ∧ (ph 4).rst.perst = false) ∧
    strapValue ((ph 4 [(.RST_STRAPS, 0, 0, 1)]).field F.RST_STRAPS.BOOT_SRC 0 0) = 1 ∧
    strapValue ((ph 4 [(.RST_STRAPS, 0, 0, 3)]).field F.RST_STRAPS.BOOT_SRC 0 0) = 2 ∧
    ((ph 5).phase = 5 ∧ (ph 5).field F.RST_STRAPS.BOOT_SRC 0 0 = 0 ∧ (ph 5).flag F.RST_PHASE.HELD 0 0 = false ∧ (ph 5).sec.torn = false) ∧
    (ph 6).phase = 6 ∧ (ph 7).phase = 7 ∧ ((ph 8).phase = 8 ∧ ∀ l, l < 64 → (ph 8).field F.FAB_LINK_STATUS.STATE l 0 ≠ 1) :=
  ⟨safe_of (by decide +kernel), by decide +kernel⟩
theorem witness_StartUp_warm : { ph 6 with rst := { warm := true } }.rst.warm = true ∧ (ph 6).rst.warm = false ∧
    ((ph 9).rst.dark = false ∧ (480 : BitVec 16).toInt = 480) ∧ (ph 1).phaseMet = 1 ∧ (ph 1).rst.dark = false := by decide +kernel
theorem witness_StartUp_image : imageOk goodImage = true := by decide +kernel
theorem witness_PowerControl : State.reset.Safe ∧ { ph 9 with pwr := { envelope := true } }.pwr.envelope = true ∧ (ph 9).pwr.envelope = false ∧
    (ph 9).flag F.PWR_STATUS.MEASURED 0 0 = false ∧ (ph 9).fenced 143 = false ∧ (ph 9 [(.TOP_FENCED, 0, 2, 2 ^ 15)]).fenced 143 = true ∧
    (withSite (ph 9) { stretched := true }).sites[0].stretched = true ∧ (ph 9).sites[0].stretched = false ∧
    { ph 9 with pwr := { silent := 99 } }.pwr.silent = 99 ∧ ((ph 9).flag F.PWR_HB_CONFIG.ENABLE 0 0 = true ∧ (ph 9).phase = 9) ∧
    ((ph 9).rst.dark = false ∧ (ph 9).outranked 0 6 = false ∧ (ph 9).hushed = false) ∧ { ph 9 with rst := { tripped := true } }.rst.tripped = true ∧
    ((ph 9).pwr.byCap = false ∧ (ph 9).pwr.byHeat = false) ∧ (480 : BitVec 16).toInt = 480 ∧ (419 : BitVec 16).toInt < 420 := ⟨safe_of (by decide +kernel), by decide +kernel⟩
/-- The security engine with a command at its end. -/
def sSec (c : SecCmd) (early : Option Nat) (hostErr : Bool) : State := { ph 5 with sec := { command := some c, early := early, hostErr := hostErr } }
theorem witness_SecurityEngine : State.reset.Safe ∧
    (∀ r ∈ [Reg.SEC_FW_CTRL, .SEC_ATT_CTRL, .SEC_DBG_CTRL, .SEC_OWNER_CTRL, .OPT_CTRL], (ph 5).accepts r 0 0 = true) ∧
    ((ph 5 [(.SEC_ENGINE, 0, 0, 1)]).flag F.SEC_ENGINE.BUSY 0 0 = true ∧ (ph 5).flag F.SEC_ENGINE.BUSY 0 0 = false) ∧
    ((ph 5).sec.command = none ∧ (ph 5).host.reads = [] ∧ (sSec .verify (some 3) false).sec.early = some 3) ∧
    (sSec (.load 64) none true).sec.hostErr = true ∧ (sSec (.load 64) none false).imageCheck 64 ≠ 0 ∧
    (sSec (.flash 64) none false).imageCheck 64 ≠ 0 ∧ (sSec .fuse none false).rst.fuses.bytes.length = 1024 ∧
    (ph 5 [(.OPT_STATUS, 0, 0, 0x100)]).field F.OPT_STATUS.STAGE 0 0 = 1 ∧ (ph 5).field F.OPT_STATUS.STAGE 0 0 ≠ 1 ∧
    imageOk ((ph 5).wordBytes .OPT_STAGE 1024) = false := ⟨safe_of (by decide +kernel), by decide +kernel⟩
def sCommit : State := ph 5 [(.OPT_STAGE, 0, 0, 1), (.OPT_STAGE, 0, 127, leAt goodImage 1016 8)]
theorem sCommit_stage : sCommit.wordBytes .OPT_STAGE 1024 = goodImage := by decide +kernel
theorem witness_SecurityEngine_commit : imageOk (sCommit.wordBytes .OPT_STAGE 1024) = true := by rw [sCommit_stage]; exact witness_StartUp_image
/-- A firmware image with a well-formed header and BODY_LEN 32, as it arrives from host memory. -/
def fwImage : List Byte := toBytes 4 0x31465652 ++ toBytes 4 1 ++ toBytes 4 32 ++ zeroBytes 2904
def sLoad : State := { ph 5 with sec := { command := some (.load 2916), loaded := (List.range 6).map (fun k => (512 * k, slice fwImage (512 * k) 512)) } }
/-- The header passes: the image's check is then the signature's alone (log 20). -/
theorem witness_SecurityEngine_image : fwHeader (sLoad.sec.image 2916) = some 32 := by decide +kernel
def wFence (i : Nat) : Word := BitVec.ofNat 64 (0xF3A1 * 2 ^ 48 + i)
theorem witness_FaultsAndFences : State.reset.Safe ∧ (run0 []).accepts .TOP_FENCE_CMD 0 0 = true ∧ (run0 []).accepts .TOP_FAULT_PTRS 0 0 = true ∧
    ((0 : SiteId).val = fld (wFence 0).toNat 7 0 ∧ fld (wFence 0).toNat 63 48 = 0xF3A1 ∧ (run0 []).fenced 0 = false ∧ (run0 []).sites[0].flights = [] ∧
      (run0 []).sites[0].rows = [] ∧ (run0 []).coreOf 0 = some 0) ∧
    ((run0 []).sites[0].hint = none ∧ ∀ m ∈ (run0 []).clusters[clusterOf 0].mow, m.1 = 0) ∧
    ((∀ i : SiteId, (run0 []).field F.CORE_SEQ_STATUS.STATE i 0 ≠ 2) ∧ (run0 []).rake.run = none ∧
      ∀ r : RingId, (run0 []).host.rings[r].draining = false) ∧
    ((∀ i : SiteId, i.val = fld (wFence 255).toNat 7 0 → False) ∧ (run0 [(.TOP_FENCED, 0, 0, 1)]).fenced 0 = true) ∧
    (ready [(.TOP_FAULT_CONFIG, 0, 0, 0)]).field F.TOP_FAULT_CONFIG.DRAIN_LIMIT 0 0 = 0 ∧ (ready []).field F.TOP_FAULT_CONFIG.DRAIN_LIMIT 0 0 ≠ 0 ∧
    (let s := withSite (run0 [(.CORE_SEQ_STATUS, 0, 0, 2)]) { flights := [fl .dmaRd 0 .done] }
     s.field F.CORE_SEQ_STATUS.STATE (0 : SiteId) 0 = 2 ∧ ∀ f ∈ s.sites[0].flights ++ s.sites[0].rows, f.unit ≠ .coll) ∧
    ((sRake 1).rake.run = some (rkRun 1 7) ∧ (sRake 1).rake.draining = true) ∧
    (let s := withRing (sRing 15 (rc [])) 15 { queue := [rc []], draining := true }
     s.host.rings[(15 : RingId)].draining = true ∧ s.flag F.HST_RING_CTRL.BUSY 15 0 = true ∧ s.host.rings[(15 : RingId)].queue ≠ []) :=
  ⟨safe_of (by decide +kernel), by decide +kernel⟩
def fifo0 : Fifo := ⟨0, 0, 1, [[1, 2, 3, 4]], 0, 0⟩
def sTrc (head tail mode : Nat) : State := { ready [(.TRC_RING_CTRL, 0, 0, 0x2A + 64 * mode), (.TRC_RING_PTRS, 0, 0, tail * 2 ^ 32 + head)] with obs := { fifos := [fifo0] } }
theorem witness_CountersAndTrace : (ready []).accepts .CNT_CMD 0 0 = true ∧ (ready []).accepts .TRC_RING_PTRS 0 0 = true ∧
    ((ready []).field F.CNT_SWAP_AT.TIME 0 0 < (ready []).now + 100 ∧ ¬ (ready [(.CNT_SWAP_AT, 0, 0, 100)]).field F.CNT_SWAP_AT.TIME 0 0 < (ready []).now + 100) ∧
    (∀ i ∈ [SwapInst.core 143, .cluster 17, .rake 31, .coll, .link 63], i ∈ { ready [] with obs := { due := swapInsts } }.obs.due) ∧ (ready []).hushed = false ∧ SwapInst.coll ∉ (ready []).obs.due ∧
    (run0 [(.TOP_FENCED, 0, 0, 1)]).fenced 0 = true ∧
    ((sTrc 0 0 0).flag F.TRC_RING_CTRL.ENABLE 0 0 = true ∧ (sTrc 0 0 0).obs.writing = false ∧ (sTrc 0 0 0).trcUsed + 1 ≠ (sTrc 0 0 0).trcSize ∧
      (sTrc 0 0 0).nextSource = some fifo0 ∧ (sTrc 0 0 0).plainGran (32 * (sTrc 0 0 0).field F.TRC_RING_BASE.BASE 0 0) = true) ∧
    ((sTrc 0 0 0).hushed = false ∧ (sTrc 0 0 0).cutFrom hubEast 0 = false ∧ (cut (sTrc 0 0 0)).cutFrom hubEast 0 = true) ∧
    (let s := { ready [] with obs := { due := [.coll], target := 5, owed := [(.coll, 3, false)] } }
     s.now < s.obs.target ∧ ∃ o ∈ s.obs.owed, o.1 = .coll) ∧
    (let s := { ready [] with obs := { due := swapInsts } }
     s.obs.target ≤ s.now ∧ s.obs.owed = []) ∧
    (let s := ready [(.TRC_RING_CTRL, 0, 0, 0x2A + 8 * 2 ^ 8), (.TRC_RING_PTRS, 0, 0, 1000 * 2 ^ 32 + 999)]
     s.field F.TRC_RING_CTRL.WATERMARK 0 0 * s.trcSize ≠ 0 ∧ 16 * s.trcUsed < s.field F.TRC_RING_CTRL.WATERMARK 0 0 * s.trcSize) ∧
    (sTrc 0 1023 1).trcUsed + 1 = (sTrc 0 1023 1).trcSize ∧ (sTrc 0 1023 1).flag F.TRC_RING_CTRL.MODE 0 0 = true ∧ (ready []).nextSource = none := by
  decide
def hush (st : Nat) (rights : Nat) : State := ready [(.TRC_HUSH_STATUS, 0, 0, st), (.SEC_DBG_STATUS, 0, 0, rights * 2 ^ 16)]
theorem witness_HushStages : (hush 0 1).Safe ∧ (∀ st, st < 6 → (hush st 1).accepts .TRC_HUSH_CTRL 0 0 = true ∧ (hush st 1).right 0 = true ∧
      (hush st 1).field F.TRC_HUSH_STATUS.STATE 0 0 = st) ∧ (hush 0 0).right 0 = false ∧ (hush 2 1).field F.TRC_HUSH_SHIP.ADDR 0 0 = 0 ∧
    (hush 2 1).flag F.MEM_CH_STATUS.FAILED (channelOf snapBase) 0 = false ∧ (hush 4 1).fabric.reqs = [] ∧ (hush 4 1).fabric.held = [] ∧
    (∀ i : SiteId, (hush 3 1).sites[i].flights = []) ∧ { hush 3 1 with rake := { draining := true } }.rake.draining = true :=
  ⟨safe_of (by decide +kernel), by decide +kernel⟩
theorem witness_HushStages_resume : { hush 3 1 with rake := { draining := true } }.collIdle ∧ (hush 3 1).noc.cores = [] ∧
    (∀ w ∈ (hush 3 1).fabric.parked, w.vc = none) ∧ (∀ r : RingId, (hush 3 1).host.rings[r].acted = false ∧ (hush 3 1).host.rings[r].late = []) ∧ { ready [] with mgmt := {} }.rst.dark = false :=
  ⟨idle_of (by decide +kernel), by decide +kernel, by decide +kernel, by decide +kernel, by decide +kernel⟩
theorem witness_ManagementPort : { ready [] with mgmt := { on := false } }.mgmt.on = false ∧ (ready []).mgmt.on = true ∧ 0 < (zeroBytes 7).length ∧
    (zeroBytes 7).length < 8 ∧ 8 ≤ (zeroBytes 8).length := by decide +kernel
theorem witness_AddressMaps : (0x01FFFFFFFFFF : Nat) < 2 ^ 41 ∧ (0x013FFFFFFFE0 : Nat) < 0x014000000000 ∧ 0x013FFFFFFFE0 % 32 = 0 ∧ (2 ^ 28 - 1 : Nat) < 2 ^ 28 := by
  decide
theorem witness_CodeCorrects : (zeroBytes 32).length = 32 ∧ (35 : Nat) < 36 ∧ (255 : Byte) ≠ 0 := by decide +kernel

end Sys2Proof.Tests
end

section
/-!
PROOFS. The family of spec/00_scope.md: what every step keeps (O4, O5), and what writes and reads of registers do (O24, O25, O26).
-/
namespace Sys2Proof.Machine
open Prog hiding pure bind get op run monad

/-! Every command is a program, and what no program takes back. -/

/-- Every command answers the state that some program leaves: none stops the block. -/
theorem exec_eq_next (c : Instr) (s : State) : ∃ m : Prog Unit, exec c s = Prog.next m s := by
  cases c <;> exact ⟨_, rfl⟩

/-- A step runs a program on the state with its first command, if any, taken from the queue. -/
theorem step_eq_run (s : State) : ∃ m : Prog Unit, step s = .next (m.run { s with pending := s.pending.tail }).2 := by
  cases hq : s.pending with
  | nil =>
    refine ⟨tickTime, ?_⟩
    have hs : { s with pending := [] } = s := by rw [← hq]
    simp only [step, hq, State.tick, List.tail_nil, hs]
  | cons c cs =>
    obtain ⟨m, hm⟩ := exec_eq_next c { s with pending := cs }
    refine ⟨m, ?_⟩
    simp only [step, hq, List.tail_cons]
    exact hm

/-- What a state may become: the messages that have left the device stand, with others after them, and neither count of the model's own, of
draws and of losses, has fallen. -/
def State.Grows (s t : State) : Prop := (∃ sent, t.out = s.out ++ sent) ∧ s.freeCtr ≤ t.freeCtr ∧ s.lost ≤ t.lost

theorem State.Grows.refl (s : State) : s.Grows s := ⟨⟨[], (List.append_nil _).symm⟩, Nat.le_refl _, Nat.le_refl _⟩

theorem State.Grows.trans {s t u : State} (h1 : s.Grows t) (h2 : t.Grows u) : s.Grows u := by
  obtain ⟨⟨a, ha⟩, hf1, hl1⟩ := h1
  obtain ⟨⟨b, hb⟩, hf2, hl2⟩ := h2
  exact ⟨⟨a ++ b, by rw [hb, ha, List.append_assoc]⟩, Nat.le_trans hf1 hf2, Nat.le_trans hl1 hl2⟩

/-- Three updates touch what may grow, each by growing it: a message, a draw, a loss. -/
theorem Prim.apply_grows (p : Prim) (s : State) : s.Grows (p.apply s) := by
  cases p with
  | out o => exact ⟨⟨[o], rfl⟩, Nat.le_refl _, Nat.le_refl _⟩
  | free => exact ⟨⟨[], (List.append_nil _).symm⟩, Nat.le_succ _, Nat.le_refl _⟩
  | lost => exact ⟨⟨[], (List.append_nil _).symm⟩, Nat.le_refl _, Nat.le_succ _⟩
  | _ => exact State.Grows.refl s

theorem Prog.run_grows {α : Type} (m : Prog α) (s : State) : s.Grows (m.run s).2 :=
  Prog.run_keeps (fun t => s.Grows t) (fun p t h => h.trans (Prim.apply_grows p t)) m s (State.Grows.refl s)

/-- A step of a safe state leaves a safe one, in which nothing is taken back. -/
theorem step_safe_grows (s t : State) (hs : s.Safe) (h : step s = .next t) : t.Safe ∧ s.Grows t := by
  obtain ⟨m, hm⟩ := step_eq_run s
  obtain rfl : (m.run { s with pending := s.pending.tail }).2 = t := by
    rw [hm] at h
    injection h
  exact ⟨Prog.run_safe m _ hs, Prog.run_grows m { s with pending := s.pending.tail }⟩

/-- After reset nothing is listed, in memory, among the error patterns or in the register file. -/
theorem reset_safe : State.reset.Safe := ⟨rfl, rfl, rfl⟩

/-- After reset no core has anything in flight. -/
theorem reset_ordered : State.reset.Ordered := by
  intro i
  have hi : State.reset.sites[i] = {} := Vector.getElem_replicate i.isLt
  rw [hi]
  exact ⟨List.nodup_nil, List.nodup_nil, fun f hf => absurd hf List.not_mem_nil⟩

/-- Settles O4: after reset nothing is listed and nothing is in flight. -/
theorem resetIsSafe : Obligations.ResetIsSafe := ⟨reset_safe, reset_ordered⟩

/-- Settles O5: a step runs a program, and each primitive update keeps the state safe and takes nothing back. -/
theorem stepKeepsSafe : Obligations.StepKeepsSafe := step_safe_grows

/-! Bits. -/

theorem add_eq_or_of_and_eq_zero (x y : Nat) (h : x &&& y = 0) : x + y = x ||| y := by
  have hx : x < 2 ^ (x + y) := Nat.lt_of_le_of_lt (Nat.le_add_right x y) Nat.lt_two_pow_self
  have hy : y < 2 ^ (x + y) := Nat.lt_of_le_of_lt (Nat.le_add_left y x) Nat.lt_two_pow_self
  have hb : BitVec.ofNat (x + y) x &&& BitVec.ofNat (x + y) y = 0#(x + y) := by
    apply BitVec.eq_of_toNat_eq
    simp [Nat.mod_eq_of_lt hx, Nat.mod_eq_of_lt hy, h]
  have hsum := congrArg BitVec.toNat (BitVec.add_eq_or_of_and_eq_zero _ _ hb)
  simpa [Nat.mod_eq_of_lt hx, Nat.mod_eq_of_lt hy, Nat.mod_eq_of_lt (Nat.lt_two_pow_self (n := x + y))] using hsum

theorem testBit_sub_and (x y b : Nat) : (x - (x &&& y)).testBit b = (x.testBit b && !y.testBit b) := by
  have hd : (x ^^^ (x &&& y)) &&& (x &&& y) = 0 := by
    apply Nat.eq_of_testBit_eq
    intro k
    rw [Nat.testBit_and, Nat.testBit_xor, Nat.testBit_and, Nat.zero_testBit]
    cases x.testBit k <;> cases y.testBit k <;> rfl
  have hsum : (x ^^^ (x &&& y)) + (x &&& y) = x := by
    rw [add_eq_or_of_and_eq_zero _ _ hd]
    apply Nat.eq_of_testBit_eq
    intro k
    rw [Nat.testBit_or, Nat.testBit_xor, Nat.testBit_and]
    cases x.testBit k <;> cases y.testBit k <;> rfl
  have hx : x - (x &&& y) = x ^^^ (x &&& y) := by omega
  rw [hx, Nat.testBit_xor, Nat.testBit_and]
  cases x.testBit b <;> cases y.testBit b <;> rfl

/-- A number with the bits that `k` names taken from another. -/
theorem testBit_replace (x v k b : Nat) :
    (x - (x &&& k) + (v &&& k)).testBit b = if k.testBit b then v.testBit b else x.testBit b := by
  have hd : (x - (x &&& k)) &&& (v &&& k) = 0 := by
    apply Nat.eq_of_testBit_eq
    intro c
    rw [Nat.testBit_and, testBit_sub_and, Nat.testBit_and, Nat.zero_testBit]
    cases k.testBit c <;> simp
  rw [add_eq_or_of_and_eq_zero _ _ hd, Nat.testBit_or, testBit_sub_and, Nat.testBit_and]
  cases k.testBit b <;> simp

theorem testBit_placeOnes (hi lo b : Nat) :
    (place hi lo (2 ^ (hi + 1 - lo) - 1)).testBit b = (decide (lo ≤ b) && decide (b ≤ hi)) := by
  rw [place, Nat.testBit_shiftLeft, Nat.testBit_mod_two_pow, Nat.testBit_two_pow_sub_one]
  by_cases h1 : lo ≤ b
  · by_cases h2 : b ≤ hi
    · have : b - lo < hi + 1 - lo := by omega
      simp [h1, h2, this]
    · have : ¬ b - lo < hi + 1 - lo := by omega
      simp [h1, h2, this]
  · simp [h1]

/-- The mask of a list of fields has a bit where one of them lies. -/
theorem testBit_foldFields (l : List Field) (m b : Nat) :
    (l.foldl (fun m f => m ||| place f.hi f.lo (2 ^ (f.hi + 1 - f.lo) - 1)) m).testBit b =
      (m.testBit b || l.any (fun f => decide (f.lo ≤ b) && decide (b ≤ f.hi))) := by
  induction l generalizing m with
  | nil => simp
  | cons f l ih => rw [List.foldl_cons, ih, Nat.testBit_or, testBit_placeOnes, List.any_cons, Bool.or_assoc]

/-! The register table. -/

/-- What accesses bit by bit need of the register table (00 R10, R12): a register's mask fits its word and covers its RW bits and its reset
value, no bit is both RW and W1C, and its fields are its own and lie in what it implements. -/
def Reg.tableOk (r : Reg) : Bool :=
  decide (r.mask < 2 ^ 64) && (accMask r .rw &&& r.mask == accMask r .rw) && (accMask r .rw &&& accMask r .w1c == 0) &&
    (r.resetVal &&& r.mask == r.resetVal) && r.fields.all (fun f => f.reg == r && f.ok)

/-- The table is so, register by register. -/
theorem Reg.tableOk_true (r : Reg) : r.tableOk = true := by cases r <;> rfl

theorem Reg.table_facts (r : Reg) :
    r.mask < 2 ^ 64 ∧ accMask r .rw &&& r.mask = accMask r .rw ∧ accMask r .rw &&& accMask r .w1c = 0 ∧
      r.resetVal &&& r.mask = r.resetVal ∧ ∀ f ∈ r.fields, f.reg = r ∧ f.ok = true := by
  have h := r.tableOk_true
  simpa only [Reg.tableOk, Bool.and_eq_true, decide_eq_true_eq, beq_iff_eq, List.all_eq_true, and_assoc] using h

theorem Reg.mask_lt (r : Reg) : r.mask < 2 ^ 64 := by
  obtain ⟨h, _⟩ := r.table_facts
  exact h

theorem Reg.resetVal_masked (r : Reg) : r.resetVal &&& r.mask = r.resetVal := by
  obtain ⟨_, _, _, h, _⟩ := r.table_facts
  exact h

theorem Reg.field_ok (r : Reg) (f : Field) (hf : f ∈ r.fields) : f.reg = r ∧ f.ok = true := by
  obtain ⟨_, _, _, _, h⟩ := r.table_facts
  exact h f hf

/-- A register implements its RW bits. -/
theorem Reg.mask_of_rw (r : Reg) (b : Nat) (hb : (accMask r .rw).testBit b = true) : r.mask.testBit b = true := by
  obtain ⟨_, h, _⟩ := r.table_facts
  rw [← h, Nat.testBit_and, Bool.and_eq_true] at hb
  exact hb.2

/-- No RW bit is cleared by writing a one to it. -/
theorem Reg.not_w1c_of_rw (r : Reg) (b : Nat) (hb : (accMask r .rw).testBit b = true) : (accMask r .w1c).testBit b = false := by
  obtain ⟨_, _, h, _⟩ := r.table_facts
  have hd := congrArg (fun n => n.testBit b) h
  simpa only [Nat.testBit_and, hb, Bool.true_and, Nat.zero_testBit] using hd

/-- What the map finds at an offset lies within the place of its register. -/
theorem regAt_place (off : Nat) (r : Reg) (i j : Nat) (h : regAt off = some (r, i, j)) : i < r.place.insts ∧ j < r.place.cnt := by
  simp only [regAt, Reg.find, Option.ite_none_right_eq_some] at h
  obtain ⟨_, h⟩ := h
  obtain ⟨q, _, hq⟩ := List.exists_of_findSome?_eq_some h
  simp only [Option.ite_none_left_eq_some, Option.ite_none_right_eq_some, Option.some.injEq, Prod.mk.injEq, Bool.and_eq_true,
    decide_eq_true_eq] at hq
  obtain ⟨_, ⟨⟨⟨hi, _⟩, hj⟩, _⟩, rfl, rfl, rfl⟩ := hq
  exact ⟨hi, hj⟩

/-! Register words of a safe state hold no reserved bit (00 R12). -/

theorem RegFile.get_masked (k : RegKey) (l : List (RegKey × Word)) (h : RegFile.wf l = true) :
    RegFile.get k l &&& BitVec.ofNat 64 k.reg.mask = RegFile.get k l := by
  induction l with
  | nil =>
    apply BitVec.eq_of_toNat_eq
    simp only [RegFile.get, BitVec.toNat_and, BitVec.toNat_ofNat, ← Nat.and_mod_two_pow, k.reg.resetVal_masked]
  | cons c t ih =>
    obtain ⟨b, x⟩ := c
    simp only [RegFile.wf, List.all_cons, Bool.and_eq_true, beq_iff_eq] at h
    simp only [RegFile.get]
    split
    · rename_i hk
      rw [hk]
      exact h.1
    · exact ih h.2

theorem State.Safe.reg_masked {s : State} (hs : s.Safe) (r : Reg) (i j : Nat) : s.reg r i j &&& r.mask = s.reg r i j := by
  obtain ⟨_, _, hr⟩ := hs
  have h := congrArg BitVec.toNat (RegFile.get_masked ⟨r, i, j⟩ s.regs hr)
  rw [BitVec.toNat_and, BitVec.toNat_ofNat, Nat.mod_eq_of_lt r.mask_lt] at h
  exact h

theorem State.Safe.mask_of_reg {s : State} (hs : s.Safe) (r : Reg) (i j b : Nat) (hb : (s.reg r i j).testBit b = true) :
    r.mask.testBit b = true := by
  rw [← hs.reg_masked, Nat.testBit_and, Bool.and_eq_true] at hb
  exact hb.2

/-- A word set reads back bit by bit, but for the bits that its register reserves. -/
theorem testBit_setR (r : Reg) (i j v : Nat) (s : State) (b : Nat) (hb : b < 64) :
    (((setR r i j v).run s).2.reg r i j).testBit b = (v.testBit b && r.mask.testBit b) := by
  rw [run_setR, reg_apply_same, BitVec.toNat_ofNat, Nat.testBit_and, Nat.testBit_mod_two_pow, Nat.testBit_mod_two_pow]
  simp [hb]

/-! What a plain write does. -/

theorem testBit_writtenWord (r : Reg) (old v m b : Nat) :
    (writtenWord r old v m).testBit b =
      ((if (accMask r .rw).testBit b && m.testBit b then v.testBit b else old.testBit b) &&
        !((accMask r .w1c).testBit b && v.testBit b && m.testBit b)) := by
  simp only [writtenWord, testBit_sub_and, testBit_replace, Nat.testBit_and]

theorem plainWrite_run (r : Reg) (i j v m : Nat) (s : State) :
    (plainWrite r i j v m).run s = (setR r i j (writtenWord r (s.reg r i j) v m)).run s := rfl

/-- A plain write leaves each bit as 00 R10 says. -/
theorem plainWrite_written (r : Reg) (i j v m : Nat) (s : State) (hs : s.Safe) :
    Written r i j v m s ((plainWrite r i j v m).run s).2 := by
  intro b hb
  rw [plainWrite_run, testBit_setR _ _ _ _ _ _ hb, testBit_writtenWord]
  cases hrw : (accMask r .rw).testBit b with
  | true =>
    rw [r.mask_of_rw b hrw, r.not_w1c_of_rw b hrw]
    cases (s.reg r i j).testBit b <;> cases m.testBit b <;> simp
  | false =>
    cases hold : (s.reg r i j).testBit b with
    | true => simp [hs.mask_of_reg r i j b hold, Bool.and_comm, Bool.and_left_comm]
    | false => simp

theorem plainWrite_regs (r : Reg) (i j v m : Nat) (s : State) : SameRegs (fun k => k == ⟨r, i, j⟩) s ((plainWrite r i j v m).run s).2 := by
  rw [plainWrite_run]; exact setR_regs r i j _ s

theorem plainWrite_but (r : Reg) (i j v m : Nat) (s : State) : SameBut [.regs] s ((plainWrite r i j v m).run s).2 := by
  rw [plainWrite_run]; exact setR_but r i j _ s

/-! A write of a register that is no command: a plain write that may be locked, after which a new size of the Rake's ring wraps HEAD. -/

/-- The plain effect of a write, and what follows it. -/
def settledWrite (r : Reg) (i j v m : Nat) : Prog Unit :=
  if r = .RAKE_RING_SIZE then (plainWrite r i j v m).bind (fun _ => wrapHead) else plainWrite r i j v m

/-- A write that needs a count at zero is one that a count above it locks. -/
theorem writeIf_zero (x : State → Nat) (r : Reg) (i j v m : Nat) (s : State) :
    (writeIf (fun s => x s == 0) r i j v m).run s = (when (!(x s != 0)) (plainWrite r i j v m)).run s := by
  rw [bne, Bool.not_not]
  rfl

/-- In a core block a fence locks every register, and a core that is not halted those of its program. -/
theorem writeCore_run (c : SiteId) (r : Reg) (j v m : Nat) (s : State) (hc : r.command = false) (hp : r.place.insts = 144) :
    (writeCore c r j v m).run s = (when (!s.locked r c) (plainWrite r c j v m)).run s := by
  have hl : s.locked r c = (s.fenced c ||
      ([Reg.CORE_SEQ_PC, .CORE_SEQ_STEP, .CORE_TILE_REGS, .CORE_CC].contains r && s.field F.CORE_SEQ_STATUS.STATE c 0 != 0)) := by
    simp only [State.locked, hp, if_true, State.fenced]
  rw [hl]
  simp only [writeCore, run_get]
  cases s.fenced c with
  | true => rfl
  | false =>
    cases r <;> try contradiction
    case CORE_SEQ_PC | CORE_SEQ_STEP | CORE_TILE_REGS | CORE_CC =>
      exact writeIf_zero (fun s => s.field F.CORE_SEQ_STATUS.STATE c 0) _ c j v m s
    all_goals rfl

/-- Outside the core blocks what is in use locks its own registers, and nothing locks the others. -/
theorem writeShared_run (r : Reg) (i j v : Nat) (h : Half) (s : State) (hc : r.command = false) (hp : r.place.insts ≠ 144) :
    (writeWord r i j v h).run s = (when (!s.locked r i) (settledWrite r i j v (halfMask h))).run s := by
  have hcore : ¬ (r.place.insts = 144 ∧ i < 144) := fun h => hp h.1
  unfold writeWord
  rw [dif_neg hcore]
  cases r <;> try contradiction
  case ANT_SPILL_BASE | ANT_SPILL_LIMIT | ANT_SORT_BASE =>
    exact writeIf_zero (fun s => s.field F.ANT_STATUS.FILL i 0) _ i j v (halfMask h) s
  all_goals rfl

theorem writeWord_run (r : Reg) (i j v : Nat) (h : Half) (s : State) (hc : r.command = false) (hi : i < r.place.insts) :
    (writeWord r i j v h).run s = (when (!s.locked r i) (settledWrite r i j v (halfMask h))).run s := by
  by_cases hp : r.place.insts = 144
  · have hr : r ≠ .RAKE_RING_SIZE := by
      rintro rfl
      exact absurd hp (by decide)
    have hi' : i < 144 := hp ▸ hi
    have hcore : writeWord r i j v h = writeCore ⟨i, hi'⟩ r j v (halfMask h) := dif_pos ⟨hp, hi'⟩
    rw [hcore, settledWrite, if_neg hr]
    exact writeCore_run ⟨i, hi'⟩ r j v (halfMask h) s hc hp
  · exact writeShared_run r i j v h s hc hp

/-! The size of the Rake's ring (09 R275). -/

/-- HEAD modulo the ring's size, all else as it was. -/
theorem wrapHead_run (s : State) :
    (wrapHead.run s).2 = ((setF F.RAKE_RING_PTRS.HEAD 0 0 (s.field F.RAKE_RING_PTRS.HEAD 0 0 % s.rakeSize)).run s).2 := rfl

theorem wrapHead_regs (s : State) : SameRegs (fun k => k == ⟨.RAKE_RING_PTRS, 0, 0⟩) s (wrapHead.run s).2 := by
  rw [wrapHead_run]; exact setF_regs _ _ _ _ _ _ rfl

theorem wrapHead_but (s : State) : SameBut [.regs] s (wrapHead.run s).2 := by
  rw [wrapHead_run]; exact setF_but _ _ _ _ _

theorem wrapHead_rakeSize (s : State) : (wrapHead.run s).2.rakeSize = s.rakeSize := by
  simp only [State.rakeSize, (wrapHead_regs s).field F.RAKE_RING_SIZE.LOG2 0 0 (by decide)]

theorem wrapHead_head (s : State) :
    (wrapHead.run s).2.field F.RAKE_RING_PTRS.HEAD 0 0 = s.field F.RAKE_RING_PTRS.HEAD 0 0 % (wrapHead.run s).2.rakeSize := by
  have hlt : s.field F.RAKE_RING_PTRS.HEAD 0 0 % s.rakeSize < 2 ^ (F.RAKE_RING_PTRS.HEAD.hi + 1 - F.RAKE_RING_PTRS.HEAD.lo) :=
    Nat.lt_of_le_of_lt (Nat.mod_le _ _) (fld_lt _ _ _)
  rw [wrapHead_rakeSize, wrapHead_run, field_setF_same _ _ _ _ _ (by decide), Nat.mod_eq_of_lt hlt]

theorem wrapHead_tail (s : State) : (wrapHead.run s).2.field F.RAKE_RING_PTRS.TAIL 0 0 = s.field F.RAKE_RING_PTRS.TAIL 0 0 := by
  rw [wrapHead_run]
  exact field_setF_other _ _ _ _ _ _ _ _ (by decide) (by decide) (Or.inr (by decide))

/-! A write that nothing locks. -/

theorem Written.trans_sameRegs {b : RegKey → Bool} {r : Reg} {i j v m : Nat} {s t u : State} (h : Written r i j v m s t) (ht : SameRegs b t u)
    (hb : b ⟨r, i, j⟩ = false) : Written r i j v m s u := by
  intro k hk
  rw [ht.reg r i j hb]
  exact h k hk

/-- The bits of the register are as 00 R10 says and nothing else changes, but that a new size of the Rake's ring wraps its HEAD. -/
def WritesOnly (r : Reg) (i j v m : Nat) (s t : State) : Prop :=
  Written r i j v m s t ∧ SameBut [.regs] s t ∧ (r ≠ .RAKE_RING_SIZE → SameRegs (fun k => k == ⟨r, i, j⟩) s t) ∧
    (r = .RAKE_RING_SIZE → SameRegs (fun k => k == ⟨r, i, j⟩ || k == ⟨.RAKE_RING_PTRS, 0, 0⟩) s t ∧
      t.field F.RAKE_RING_PTRS.HEAD 0 0 = s.field F.RAKE_RING_PTRS.HEAD 0 0 % t.rakeSize ∧
      t.field F.RAKE_RING_PTRS.TAIL 0 0 = s.field F.RAKE_RING_PTRS.TAIL 0 0)

theorem settledWrite_writesOnly (r : Reg) (i j v m : Nat) (s : State) (hs : s.Safe) :
    WritesOnly r i j v m s ((settledWrite r i j v m).run s).2 := by
  have hw := plainWrite_written r i j v m s hs
  have hregs := plainWrite_regs r i j v m s
  have hbut := plainWrite_but r i j v m s
  by_cases hr : r = .RAKE_RING_SIZE
  · simp only [settledWrite, hr, if_true, run_bind] at hw hregs hbut ⊢
    generalize ((plainWrite .RAKE_RING_SIZE i j v m).run s).2 = u at hw hregs hbut ⊢
    refine ⟨hw.trans_sameRegs (wrapHead_regs u) rfl, SameBut.trans hbut (wrapHead_but u) (fun p hp => hp) (fun p hp => hp),
      fun h => absurd rfl h, fun _ => ⟨hregs.trans (wrapHead_regs u), ?_, ?_⟩⟩
    · rw [wrapHead_head, hregs.field F.RAKE_RING_PTRS.HEAD 0 0 rfl]
    · rw [wrapHead_tail, hregs.field F.RAKE_RING_PTRS.TAIL 0 0 rfl]
  · rw [settledWrite, if_neg hr]
    exact ⟨hw, hbut, fun _ => hregs, fun h => absurd h hr⟩

/-! What denies, drops or passes a write. -/

/-- An access without its right is counted, up to the counter's top, and does nothing else (17 R454). -/
theorem denied_counts (s : State) :
    (denied.run s).2.field F.SEC_DBG_STATUS.DENIED 0 0 =
        min F.SEC_DBG_STATUS.DENIED.top (s.field F.SEC_DBG_STATUS.DENIED 0 0 + 1) ∧
      SameRegs (fun k => k == ⟨.SEC_DBG_STATUS, 0, 0⟩) s (denied.run s).2 ∧ SameBut [.regs] s (denied.run s).2 := by
  have hrun : (denied.run s).2 = ((setF F.SEC_DBG_STATUS.DENIED 0 0
      (satAdd F.SEC_DBG_STATUS.DENIED.top (s.field F.SEC_DBG_STATUS.DENIED 0 0) 1)).run s).2 := rfl
  rw [hrun]
  refine ⟨?_, setF_regs _ _ _ _ _ _ rfl, setF_but _ _ _ _ _⟩
  rw [field_setF_same _ _ _ _ _ (by decide)]
  have htop : F.SEC_DBG_STATUS.DENIED.top + 1 = 2 ^ (F.SEC_DBG_STATUS.DENIED.hi + 1 - F.SEC_DBG_STATUS.DENIED.lo) := by decide
  rw [← htop, satAdd]
  split
  · rw [Nat.mod_eq_of_lt (Nat.lt_succ_self _), Nat.min_eq_left (by omega)]
  · rw [Nat.mod_eq_of_lt (by omega), Nat.min_eq_right (by omega)]

/-- A write of an offset that holds no register, or that BAR0 does not decode yet, does nothing. -/
theorem writeReg_dropped (off v : Nat) (h : Half) (s : State) (hno : regAt off = none ∨ s.decodes (off / 8 * 8) = false) :
    ((writeReg off v h).run s).2 = s := by
  cases ha : regAt off with
  | none => simp only [writeReg, ha, run_skip]
  | some w =>
    have hd : s.decodes (off / 8 * 8) = false := hno.resolve_left (by simp [ha])
    simp only [writeReg, ha, decoded, run_get, hd, Bool.not_false, if_true, run_skip]

/-- One that Hush holds is denied. -/
theorem writeReg_denied (off v : Nat) (h : Half) (s : State) (ha : regAt off ≠ none) (hd : s.decodes (off / 8 * 8) = true)
    (hw : s.mayWrite (off / 8 * 8) = false) : (writeReg off v h).run s = denied.run s := by
  cases hr : regAt off with
  | none => exact absurd hr ha
  | some w => simp only [writeReg, hr, decoded, run_get, hd, hw, Bool.not_true, Bool.false_eq_true, if_false]

/-- Any other does what a write of its register does. -/
theorem writeReg_acts (off v : Nat) (h : Half) (s : State) (r : Reg) (i j : Nat) (ha : regAt off = some (r, i, j))
    (hd : s.decodes (off / 8 * 8) = true) (hw : s.mayWrite (off / 8 * 8) = true) :
    (writeReg off v h).run s = (writeWord r i j v h).run s := by
  simp only [writeReg, ha, decoded, run_get, hd, hw, Bool.not_true, Bool.false_eq_true, if_false, if_true]

/-! The two commands that write a register. -/

/-- A write, the host's own or one on the network, reaches the stop of its register. -/
def State.writeComes (s : State) (off : BitVec 26) (v : Word) (h : Half) (src : RegSource) (c : Instr) : Prop :=
  if c = .registerWrite off v h then s.hostUp = true ∧ s.registerCut (off.toNat / 8 * 8) = false
  else s.accessCut src (off.toNat / 8 * 8) false = false

theorem exec_registerWrite (off : BitVec 26) (v : Word) (h : Half) (s : State) :
    exec (.registerWrite off v h) s =
      .next ((when (s.hostUp && !s.registerCut (off.toNat / 8 * 8)) (writeReg off.toNat v.toNat h)).run s).2 := rfl

theorem exec_nocRegisterWrite (off : BitVec 26) (v : Word) (h : Half) (src : RegSource) (s : State) :
    exec (.nocRegisterAccess off ⟨some v, h, src⟩) s =
      .next ((when (!s.accessCut src (off.toNat / 8 * 8) false) (writeReg off.toNat v.toNat h)).run s).2 := rfl

/-- Either command writes the register where it reaches it, and else does nothing. -/
theorem exec_write (off : BitVec 26) (v : Word) (h : Half) (src : RegSource) (s : State) (c : Instr)
    (hc : c ∈ [Instr.registerWrite off v h, .nocRegisterAccess off ⟨some v, h, src⟩]) :
    (s.writeComes off v h src c → exec c s = .next ((writeReg off.toNat v.toNat h).run s).2) ∧
    (¬ s.writeComes off v h src c → exec c s = .next s) := by
  simp only [List.mem_cons, List.not_mem_nil, or_false] at hc
  rcases hc with rfl | rfl
  · simp only [State.writeComes, if_true, exec_registerWrite, run_when]
    cases s.hostUp <;> cases s.registerCut (off.toNat / 8 * 8) <;> simp
  · simp only [State.writeComes, reduceCtorEq, if_false, exec_nocRegisterWrite, run_when]
    cases s.accessCut src (off.toNat / 8 * 8) false <;> simp

/-- Settles O24: a write that reaches its register is a plain write, unless what the unit does locks the register or Hush denies it. -/
theorem registerWrites : Obligations.RegisterWrites := by
  intro off v h src s
  refine ⟨fun c hc hno => ?_, fun c hc hcomes ha hd hw => ?_, fun r i j hs ha hcmd hd hw c hc hcomes => ?_⟩
  · obtain ⟨hact, hidle⟩ := exec_write off v h src s c hc
    by_cases hcomes : s.writeComes off v h src c
    · rw [hact hcomes, writeReg_dropped _ _ _ _ (hno.resolve_left (not_not_intro hcomes))]
    · exact hidle hcomes
  · have hact := (exec_write off v h src s c hc).1 hcomes
    rw [writeReg_denied _ _ _ _ ha hd hw] at hact
    exact ⟨_, hact, denied_counts s⟩
  · have hact := (exec_write off v h src s c hc).1 hcomes
    rw [writeReg_acts _ _ _ _ r i j ha hd hw, writeWord_run r i j _ h s hcmd (regAt_place _ r i j ha).1, run_when] at hact
    refine ⟨fun hl => ?_, fun hl => ?_⟩
    · simp only [hl, Bool.not_false, if_true] at hact
      exact ⟨_, hact, settledWrite_writesOnly r i j v.toNat (halfMask h) s hs⟩
    · simpa only [hl, Bool.not_true, Bool.false_eq_true, if_false] using hact

/-! A host's write of a command register is that command. -/

/-- Whether a register word stands where the map finds it, aligned and in the 64 MiB of BAR0. -/
def Reg.placed (r : Reg) (i j : Nat) : Bool :=
  regAt (r.addr i j) == some (r, i, j) && r.addr i j % 8 == 0 && decide (r.addr i j < 2 ^ 26)

theorem ringPtrs_placed : ∀ r : RingId, Reg.placed .HST_RING_PTRS r 0 = true := by decide +kernel

theorem cqPtrs_placed : ∀ r : RingId, Reg.placed .HST_CQ_PTRS r 0 = true := by decide +kernel

/-- The command registers of O25 of which there is one. -/
def singleCommands : List Reg :=
  [.RAKE_RING_PTRS, .TOP_FAULT_PTRS, .TRC_RING_PTRS, .MEM_SCRUB_CTRL, .HST_IRQ_CAUSE, .CNT_CMD, .RAKE_CTRL, .SEC_ATT_CTRL, .SEC_DBG_CTRL]

theorem singleCommands_placed : ∀ r ∈ singleCommands, r.placed 0 0 = true := by decide +kernel

/-- A host's write of a register word is what a write of that register does, behind the gates of a command: both reach the device and the
register's stop alike, and BAR0 and Hush let both through alike. -/
theorem exec_registerWrite_placed (r : Reg) (i j : Nat) (v : Word) (h : Half) (s : State) (hr : r.placed i j = true) :
    exec (.registerWrite (BitVec.ofNat 26 (r.addr i j)) v h) s = Prog.next (gated (r.addr i j) (writeWord r i j v.toNat h)) s := by
  simp only [Reg.placed, Bool.and_eq_true, beq_iff_eq, decide_eq_true_eq] at hr
  obtain ⟨⟨ha, h8⟩, hlt⟩ := hr
  have hoff : (BitVec.ofNat 26 (r.addr i j)).toNat = r.addr i j := by rw [BitVec.toNat_ofNat, Nat.mod_eq_of_lt hlt]
  have hal : r.addr i j / 8 * 8 = r.addr i j := by omega
  rw [exec_registerWrite, hoff, hal]
  simp only [writeReg, ha, hal, Prog.next, gated, run_get]
  cases s.hostUp <;> cases s.registerCut (r.addr i j) <;> rfl

/-- So it is the command, where a write of the whole register does what the command does. -/
theorem exec_registerWrite_command (r : Reg) (i j : Nat) (v : Word) (s : State) (p : Prog Unit) (hr : r.placed i j = true)
    (hp : writeWord r i j v.toNat .full = p) :
    exec (.registerWrite (BitVec.ofNat 26 (r.addr i j)) v .full) s = Prog.next (gated (r.addr i j) p) s :=
  hp ▸ exec_registerWrite_placed r i j v .full s hr

theorem exec_registerWrite_single (r : Reg) (v : Word) (s : State) (p : Prog Unit) (hr : r ∈ singleCommands)
    (hp : writeWord r 0 0 v.toNat .full = p) :
    exec (.registerWrite (BitVec.ofNat 26 (r.addr 0 0)) v .full) s = Prog.next (gated (r.addr 0 0) p) s :=
  exec_registerWrite_command r 0 0 v s p (singleCommands_placed r hr) hp

/-- The low bits of a word, as a field and as an operand. -/
theorem fld_low (v : Word) (n : Nat) : fld v.toNat n 0 = (v.setWidth (n + 1)).toNat := by
  simp [fld]

/-- A full access reaches the whole of a register word. -/
theorem and_fullMask (v : Word) : v.toNat &&& halfMask .full = v.toNat := by
  rw [halfMask, Nat.and_two_pow_sub_one_eq_mod, Nat.mod_eq_of_lt v.isLt]

/-! What a write of each does. -/

theorem writeWord_ringPtrs (r : RingId) (v : Word) :
    writeWord .HST_RING_PTRS r 0 v.toNat .full = doorbell r (v.setWidth 32).toNat := by
  rw [← fld_low v 31]
  exact dif_pos r.isLt

theorem writeWord_cqPtrs (r : RingId) (v : Word) : writeWord .HST_CQ_PTRS r 0 v.toNat .full = cqHead r (v.setWidth 32).toNat := by
  rw [← fld_low v 31]
  exact dif_pos r.isLt

theorem writeWord_rakePtrs (v : Word) : writeWord .RAKE_RING_PTRS 0 0 v.toNat .full = rakeDoorbell (v.setWidth 32).toNat := by
  rw [← fld_low v 31]; rfl

theorem writeWord_faultPtrs (v : Word) : writeWord .TOP_FAULT_PTRS 0 0 v.toNat .full = faultHead (v.setWidth 8).toNat := by
  rw [← fld_low v 7]; rfl

theorem writeWord_tracePtrs (v : Word) : writeWord .TRC_RING_PTRS 0 0 v.toNat .full = trcHead (v.setWidth 32).toNat := by
  rw [← fld_low v 31]; rfl

theorem writeWord_scrubCtrl (v : Word) : writeWord .MEM_SCRUB_CTRL 0 0 v.toNat .full = writePeriod (v.setWidth 8).toNat := by
  rw [← fld_low v 7]; rfl

/-- A write of HST_IRQ_CAUSE clears the causes that it names, as the command at its offset does. -/
theorem writeWord_irqCause (v : Word) :
    writeWord .HST_IRQ_CAUSE 0 0 v.toNat .full = causeProg (Reg.addr .HST_IRQ_CAUSE 0 0) v.toNat := by
  have hfind : Reg.find (Reg.addr .HST_IRQ_CAUSE 0 0) = some (.HST_IRQ_CAUSE, 0, 0) := by decide +kernel
  have hwrite : writeWord .HST_IRQ_CAUSE 0 0 v.toNat .full = clearCause .HST_IRQ_CAUSE 0 (v.toNat &&& halfMask .full) := rfl
  simp only [hwrite, and_fullMask, causeProg, hfind]

/-- Settles O25: a write of each of these registers does what the command does, behind the same gates. -/
theorem registerWriteIsCommand : Obligations.RegisterWriteIsCommand := by
  intro v s _
  refine ⟨fun r => ⟨?_, ?_⟩, ?_, ?_, ?_, ?_, ?_, ?_, ?_⟩
  · exact exec_registerWrite_command _ _ _ v s _ (ringPtrs_placed r) (writeWord_ringPtrs r v)
  · exact exec_registerWrite_command _ _ _ v s _ (cqPtrs_placed r) (writeWord_cqPtrs r v)
  · exact exec_registerWrite_single _ v s _ (by decide) (writeWord_rakePtrs v)
  · exact exec_registerWrite_single _ v s _ (by decide) (writeWord_faultPtrs v)
  · exact exec_registerWrite_single _ v s _ (by decide) (writeWord_tracePtrs v)
  · exact exec_registerWrite_single _ v s _ (by decide) (writeWord_scrubCtrl v)
  · exact exec_registerWrite_single _ v s _ (by decide) (writeWord_irqCause v)
  · rintro rfl
    exact ⟨exec_registerWrite_single .CNT_CMD 1 s swapNow (by decide) rfl,
      exec_registerWrite_single .RAKE_CTRL 1 s rakeDrain (by decide) rfl, exec_registerWrite_single .SEC_ATT_CTRL 1 s goCmd (by decide) rfl⟩
  · rintro rfl
    exact ⟨exec_registerWrite_single .CNT_CMD 2 s swapAt (by decide) rfl,
      exec_registerWrite_single .RAKE_CTRL 2 s rakeAbort (by decide) rfl, exec_registerWrite_single .SEC_DBG_CTRL 2 s closeDebug (by decide) rfl⟩

/-! Reads. -/

theorem only_each_mem {α : Type} (K : Prim → Prop) (l : List α) (f : α → Prog Unit) (h : ∀ x ∈ l, Only K (f x)) : Only K (each l f) := by
  induction l with
  | nil => exact trivial
  | cons x xs ih =>
    exact only_bind K _ _ (h x List.mem_cons_self) (fun _ => ih (fun y hy => h y (List.mem_cons_of_mem x hy)))

/-! What a read clears. -/

/-- The clearing of what a read of a register clears: the RC fields that the access reaches whole (00 R11). -/
def clearRc (r : Reg) (i j : Nat) (h : Half) : Prog Unit :=
  each (r.fields.filter (fun f => f.acc == .rc && f.within h)) (fun f => setF f i j 0)

theorem testBit_setF_zero (f : Field) (i j : Nat) (s : State) (b : Nat) (hs : s.Safe) (hf : f.ok = true) (hb : b < 64) :
    (((setF f i j 0).run s).2.reg f.reg i j).testBit b =
      ((s.reg f.reg i j).testBit b && !(decide (f.lo ≤ b) && decide (b ≤ f.hi))) := by
  simp only [Field.ok, Bool.and_eq_true, decide_eq_true_eq] at hf
  obtain ⟨⟨hle, _⟩, _⟩ := hf
  have hrun : ((setF f i j 0).run s).2 = ((setR f.reg i j (setFld (s.reg f.reg i j) f.hi f.lo 0)).run s).2 := rfl
  rw [hrun, testBit_setR _ _ _ _ _ _ hb, testBit_setFld _ _ _ _ _ hle, ← Bool.decide_and]
  by_cases hin : f.lo ≤ b ∧ b ≤ f.hi
  · rw [if_pos hin, decide_eq_true hin, Nat.zero_testBit, Bool.false_and, Bool.not_true, Bool.and_false]
  · rw [if_neg hin, decide_eq_false hin]
    cases hold : (s.reg f.reg i j).testBit b with
    | true => rw [hs.mask_of_reg _ _ _ _ hold]; rfl
    | false => rfl

/-- Clearing fields of one register clears the bits where they lie. -/
theorem testBit_clearFields (r : Reg) (i j : Nat) (l : List Field) (hl : ∀ f ∈ l, f.reg = r ∧ f.ok = true) (s : State) (hs : s.Safe)
    (b : Nat) (hb : b < 64) :
    (((each l (fun f => setF f i j 0)).run s).2.reg r i j).testBit b =
      ((s.reg r i j).testBit b && !l.any (fun f => decide (f.lo ≤ b) && decide (b ≤ f.hi))) := by
  induction l generalizing s with
  | nil => simp
  | cons f l ih =>
    obtain ⟨rfl, hok⟩ := hl f List.mem_cons_self
    rw [run_each_cons, ih (fun g hg => hl g (List.mem_cons_of_mem f hg)) _ (run_safe _ s hs), testBit_setF_zero f i j s b hs hok hb,
      List.any_cons, Bool.not_or, Bool.and_assoc]

theorem clearRc_bits (r : Reg) (i j : Nat) (h : Half) (s : State) (hs : s.Safe) (b : Nat) (hb : b < 64) :
    (((clearRc r i j h).run s).2.reg r i j).testBit b = ((s.reg r i j).testBit b && !(rcMask r h).testBit b) := by
  have hl : ∀ f ∈ r.fields.filter (fun f => f.acc == .rc && f.within h), f.reg = r ∧ f.ok = true :=
    fun f hf => r.field_ok f (List.mem_filter.mp hf).1
  rw [clearRc, testBit_clearFields r i j _ hl s hs b hb, rcMask, testBit_foldFields, Nat.zero_testBit, Bool.false_or]

theorem clearRc_regs (r : Reg) (i j : Nat) (h : Half) (s : State) :
    SameRegs (fun k => k == ⟨r, i, j⟩) s ((clearRc r i j h).run s).2 := by
  refine sameRegs_of_inRegs _ _ (only_each_mem _ _ _ (fun f hf => inRegs_setF _ _ _ _ _ ?_)) s
  obtain ⟨hreg, _⟩ := r.field_ok f (List.mem_filter.mp hf).1
  rw [hreg]
  exact beq_self_eq_true _

theorem writes_clearRc (l : List Part) (r : Reg) (i j : Nat) (h : Half) (hl : Part.regs ∈ l) : Writes l (clearRc r i j h) :=
  only_each _ _ _ (fun _ => writes_setF _ _ _ _ _ hl)

/-! What a read shows. -/

/-- What a register but the snapshot window shows in a state: a word that counts cycles, as its clock stopped or as it runs, or else the
word of its view. -/
def State.shownWord (s : State) (r : Reg) (i j : Nat) : Prog Nat :=
  if liveWord r j then (s.heldWord r i j).elim (liveNow j) (fun v => .pure (v % 2 ^ 64)) else .pure (s.viewWord r i j)

/-- A read without the right that its register needs. -/
theorem readWord_denied (r : Reg) (i j : Nat) (h : Half) (s : State) (hr : ¬ ∀ n, readRight r = some n → s.right n = true) :
    (readWord r i j h).run s = (0, (denied.run s).2) := by
  have hany : (readRight r).any (fun n => !s.right n) = true := by
    simpa [Option.any_eq_true] using hr
  show (if (readRight r).any (fun n => !s.right n) = true then denied.bind (fun _ => .pure 0) else _ : Prog Nat).run s = _
  rw [if_pos hany, run_bind, run_pure]

theorem readWord_shows (r : Reg) (i j : Nat) (h : Half) (s : State) (hr : ∀ n, readRight r = some n → s.right n = true)
    (hw : r ≠ .TRC_SNAP_WINDOW) :
    (readWord r i j h).run s =
      (((s.shownWord r i j).run s).1 &&& halfMask h, ((clearRc r i j h).run ((s.shownWord r i j).run s).2).2) := by
  have hany : ¬ (readRight r).any (fun n => !s.right n) = true := by
    simpa [Option.any_eq_true] using hr
  have hp : (readWord r i j h).run s = ((s.shownWord r i j).bind (fun v => (clearRc r i j h).bind (fun _ => .pure (v &&& halfMask h)))).run s := by
    show (if (readRight r).any (fun n => !s.right n) = true then _ else _ : Prog Nat).run s = _
    rw [if_neg hany, if_neg hw, State.shownWord]
    cases liveWord r j with
    | false => rfl
    | true =>
      dsimp only [id_eq]
      cases s.heldWord r i j <;> rfl
  rw [hp, run_bind, run_bind, run_pure]

theorem shownWord_view (r : Reg) (i j : Nat) (s : State) (hl : liveWord r j = false) :
    (s.shownWord r i j).run s = (s.viewWord r i j, s) := by
  simp only [State.shownWord, hl, Bool.false_eq_true, if_false, run_pure]

theorem shownWord_held (r : Reg) (i j v : Nat) (s : State) (hl : liveWord r j = true) (hh : s.heldWord r i j = some v) :
    (s.shownWord r i j).run s = (v % 2 ^ 64, s) := by
  simp only [State.shownWord, hl, if_true, hh, Option.elim_some, run_pure]

theorem shownWord_live (r : Reg) (i j : Nat) (s : State) (hl : liveWord r j = true) (hh : s.heldWord r i j = none) :
    s.shownWord r i j = liveNow j := by
  simp only [State.shownWord, hl, if_true, hh, Option.elim_none]

/-- END_TIME of a live bank is the present time. -/
theorem liveNow_endTime (j : Nat) (s : State) (hj : j % 32 = 1) : (liveNow j).run s = (s.now % 2 ^ 64, s) := by
  simp only [liveNow, hj, if_true, run_ask]

theorem writes_liveNow (l : List Part) (j : Nat) (hl : Part.freeCtr ∈ l) : Writes l (liveNow j) := by
  unfold liveNow
  split
  · exact only_ask _ _
  · exact writes_fresh l 64 hl

/-! Reads of an offset, and the command that carries them. -/

theorem readReg_run (off : Nat) (h : Half) (s : State) : (readReg off h).run s =
    ((regAt off).elim (.pure 0) (fun w => if s.decodes off then readWord w.1 w.2.1 w.2.2 h else .pure 0)).run s := by
  unfold readReg
  cases regAt off <;> rfl

theorem readReg_acts (off : Nat) (h : Half) (s : State) (r : Reg) (i j : Nat) (ha : regAt off = some (r, i, j)) (hd : s.decodes off = true) :
    (readReg off h).run s = (readWord r i j h).run s := by
  rw [readReg_run, ha, Option.elim_some, if_pos hd]

/-- An offset that holds no register, or that BAR0 does not decode yet, reads as zero. -/
theorem readReg_zero (off : Nat) (h : Half) (s : State) (hno : regAt off = none ∨ s.decodes off = false) :
    (readReg off h).run s = (0, s) := by
  rw [readReg_run]
  cases ha : regAt off with
  | none => rfl
  | some w => rw [Option.elim_some, hno.resolve_left (by simp [ha])]; rfl

/-- A read on the network that nothing holds emits the word that it finds. -/
theorem exec_nocRegisterRead (off : BitVec 26) (h : Half) (src : RegSource) (s : State)
    (hcut : s.accessCut src (off.toNat / 8 * 8) true = false) :
    exec (.nocRegisterAccess off ⟨none, h, src⟩) s = .next
      ((emit (.regValue off.toNat ((readReg off.toNat h).run s).1)).run ((readReg off.toNat h).run s).2).2 := by
  show Host.Outcome.next ((when (!s.accessCut src (off.toNat / 8 * 8) true) ((readReg off.toNat h).bind (fun v =>
    emit (.regValue off.toNat v)))).run s).2 = _
  rw [hcut, run_when, run_bind]
  rfl

theorem exec_nocRegisterRead_cut (off : BitVec 26) (h : Half) (src : RegSource) (s : State)
    (hcut : s.accessCut src (off.toNat / 8 * 8) true = true) : exec (.nocRegisterAccess off ⟨none, h, src⟩) s = .next s := by
  show Host.Outcome.next ((when (!s.accessCut src (off.toNat / 8 * 8) true) _).run s).2 = _
  rw [hcut]
  rfl

theorem SameBut.out_eq {l : List Part} {s t : State} (h : SameBut l s t) (hl : Part.out ∉ l) : t.out = s.out := h.1 .out hl

theorem emit_out (o : Out) (s : State) : ((emit o).run s).2.out = s.out ++ [o] := rfl

theorem emit_but (o : Out) (s : State) : SameBut [.out] s ((emit o).run s).2 :=
  sameBut_of_writes _ (by decide) _ (writes_emit _ _ (by decide)) s

/-- A read answers with a word within the half that it reads, clears what such a read clears and changes nothing else. -/
def ReadsOnly (off : BitVec 26) (h : Half) (r : Reg) (i j v : Nat) (s t : State) : Prop :=
  t.out = s.out ++ [.regValue off.toNat (v &&& halfMask h)] ∧
    (∀ b, b < 64 → (t.reg r i j).testBit b = ((s.reg r i j).testBit b && !(rcMask r h).testBit b)) ∧
    SameRegs (fun k => k == ⟨r, i, j⟩) s t ∧ SameBut [.regs, .out] s t

/-- Where a read reaches a register whose right it has, it emits what the register shows and clears. -/
theorem exec_read_shows (off : BitVec 26) (h : Half) (src : RegSource) (s : State) (r : Reg) (i j : Nat)
    (hcut : s.accessCut src (off.toNat / 8 * 8) true = false) (ha : regAt off.toNat = some (r, i, j)) (hd : s.decodes off.toNat = true)
    (hr : ∀ n, readRight r = some n → s.right n = true) (hw : r ≠ .TRC_SNAP_WINDOW) :
    exec (.nocRegisterAccess off ⟨none, h, src⟩) s = .next
      ((emit (.regValue off.toNat (((s.shownWord r i j).run s).1 &&& halfMask h))).run
        ((clearRc r i j h).run ((s.shownWord r i j).run s).2).2).2 := by
  rw [exec_nocRegisterRead off h src s hcut, readReg_acts _ _ _ r i j ha hd, readWord_shows r i j h s hr hw]

/-- The clearing and the answer, where showing the word changed nothing. -/
theorem readsOnly_of_clear (off : BitVec 26) (h : Half) (r : Reg) (i j v : Nat) (s : State) (hs : s.Safe) :
    ReadsOnly off h r i j v s ((emit (.regValue off.toNat (v &&& halfMask h))).run ((clearRc r i j h).run s).2).2 := by
  have hclear : SameBut [.regs] s ((clearRc r i j h).run s).2 :=
    sameBut_of_writes _ (by decide) _ (writes_clearRc _ _ _ _ _ (by decide)) s
  refine ⟨?_, clearRc_bits r i j h s hs, clearRc_regs r i j h s, hclear.trans (emit_but _ _) (by decide) (by decide)⟩
  rw [emit_out, hclear.out_eq (by decide)]

/-- A read of a word that counts cycles draws at most a free value before it clears. -/
theorem liveRead_but (r : Reg) (i j : Nat) (h : Half) (s : State) :
    SameBut [.regs, .freeCtr] s ((clearRc r i j h).run ((liveNow j).run s).2).2 := by
  rw [← run_bind (liveNow j) (fun _ => clearRc r i j h)]
  exact sameBut_of_writes _ (by decide) _
    (only_bind _ _ _ (writes_liveNow _ j (by decide)) (fun _ => writes_clearRc _ r i j h (by decide))) s

/-- Settles O26: a read that reaches its register clears what such a read clears and emits the word that the register
showed before. -/
theorem registerReads : Obligations.RegisterReads := by
  intro off h src s hs
  refine ⟨fun hcut => ?_, fun r i j hcut ha hd hr => ?_, fun r i j hcut ha hd hr hw => ?_, fun hcut hno => ?_,
    fun r i j => hs.reg_masked r i j⟩
  · exact exec_nocRegisterRead_cut off h src s hcut
  · have hact := exec_nocRegisterRead off h src s hcut
    rw [readReg_acts _ _ _ r i j ha hd, readWord_denied r i j h s hr] at hact
    obtain ⟨hcount, hregs, hbut⟩ := denied_counts s
    refine ⟨_, hact, ?_, hcount, hregs, hbut.trans (emit_but _ _) (by decide) (by decide)⟩
    rw [emit_out, hbut.out_eq (by decide)]
  · have hact := exec_read_shows off h src s r i j hcut ha hd hr hw
    have hshows (v : Nat) (hv : (s.shownWord r i j).run s = (v, s)) :
        Completes (.nocRegisterAccess off ⟨none, h, src⟩) s (ReadsOnly off h r i j v s) := by
      rw [hv] at hact
      exact ⟨_, hact, readsOnly_of_clear off h r i j v s hs⟩
    refine ⟨fun hl => hshows _ (shownWord_view r i j s hl), fun v hl hh => hshows _ (shownWord_held r i j v s hl hh),
      fun hl hh => ⟨fun hj => hshows _ ?_, ?_⟩⟩
    · rw [shownWord_live r i j s hl hh, liveNow_endTime j s hj]
    · rw [shownWord_live r i j s hl hh] at hact
      have hbut := liveRead_but r i j h s
      refine ⟨_, hact, ⟨_, (emit_out _ _).trans (congrArg (· ++ _) (hbut.out_eq (by decide)))⟩,
        hbut.trans (emit_but _ _) (by decide) (by decide)⟩
  · have hact := exec_nocRegisterRead off h src s hcut
    rw [readReg_zero _ _ _ hno] at hact
    exact ⟨_, hact, emit_out _ _, emit_but _ _⟩

end Sys2Proof.Machine
end
